-- ==== Sys2Proof/Word.lean ====
section
/-!
DEFINITION. The word types of the part (00_scope: a byte is 8 bits, a half 16, a word 32, a double 64; little-endian)
and their plainest arithmetic.
-/
namespace Sys2Proof

/-- A word of the part: 32 bits (00_scope). -/
abbrev Word := BitVec 32

/-- A byte. -/
abbrev Byte := BitVec 8

/-- A halfword of the instruction stream (R45). -/
abbrev Half := BitVec 16

/-- A 56-bit code address (R87). -/
abbrev Code := BitVec 56

/-- A 64-bit virtual address as a register pair holds it (R177). -/
abbrev VAddr := BitVec 64

end Sys2Proof
end

