-- ==== Sys2Proof/Syntax.lean ====
section
/-!
DEFINITION. The instruction set as syntax: ONE inductive `Instr`, one constructor for each row of spec/opcode_table.json.
The 212 encoded rows carry the fields of their form (03_encoding R48-R59) with the prefixes already decoded; the 80 rows
without an encoding (moves of the ordering machine, shepherd, hub and host events; 95_what_each_step_holds) carry what
names the thing they act on.
-/
namespace Sys2Proof

/-- The TYPE field of the modifier word (R57, R36). -/
inductive Ty where
  | w32 | f16 | bf16 | e4m3 | e5m2 | e3m2 | e2m3 | e2m1 | i16 | i8 | i4 | n16 | n8 | n4 | n32
  deriving DecidableEq, Repr, Inhabited

/-- Rounding modes (R57, R122). -/
inductive Rnd where
  | rne | rz | rup | rdn | rna | rs
  deriving DecidableEq, Repr, Inhabited

/-- Scopes (R70). -/
inductive Scope where
  | group | team | core | die | device | system
  deriving DecidableEq, Repr, Inhabited

/-- ORDER field (R57). -/
inductive Order where
  | plain | acq | rel | acqrel
  deriving DecidableEq, Repr, Inhabited

/-- CACHE field (R185): a placement hint that changes no result. -/
inductive Cache where
  | dflt | stream | keep | noalloc
  deriving DecidableEq, Repr, Inhabited

/-- The six ordering domains (R18). -/
inductive Domain where
  | ord | cpy | mtx | lob | vis | shp
  deriving DecidableEq, Repr, Inhabited

/-- The modifier word X (R57). -/
structure XMod where
  ty    : Ty := .w32
  rnd   : Rnd := .rne
  sat   : Bool := false
  scope : Scope := .group
  order : Order := .plain
  cache : Cache := .dflt
  cls   : BitVec 5 := 0
  nf    : Bool := false
  deriving DecidableEq, Repr, Inhabited

/-- The REP payload (R58). -/
structure Rep where
  cnt : BitVec 6
  sd  : Bool
  sa  : Bool
  sb  : Bool
  deriving DecidableEq, Repr, Inhabited

/-- The prefixes of an instruction, in the order REP, X, K (R59). -/
structure Mods where
  rep : Option Rep := none
  x   : Option XMod := none
  k   : Option (BitVec 21) := none
  deriving DecidableEq, Repr, Inhabited

/-- R form (R51). -/
structure RForm where
  g : BitVec 3
  e : Bool
  d : BitVec 6
  a : BitVec 6
  b : BitVec 6
  deriving DecidableEq, Repr, Inhabited

/-- I form (R52). -/
structure IForm where
  g   : BitVec 3
  e   : Bool
  d   : BitVec 6
  a   : BitVec 6
  imm : BitVec 9
  deriving DecidableEq, Repr, Inhabited

/-- B form (R53). -/
structure BForm where
  g   : BitVec 3
  e   : Bool
  off : BitVec 21
  deriving DecidableEq, Repr, Inhabited

/-- The 16-bit form (R48). -/
structure HForm where
  e : Bool
  d : BitVec 5
  s : BitVec 5
  deriving DecidableEq, Repr, Inhabited

/-- What an engine entry owns or reads as one unit: a line of memory (R68) or a 128-byte block of a team's scratchpad
(R248). -/
inductive LineKey where
  | mem (line : Nat)
  | sp (team block : Nat)
  deriving DecidableEq, Repr, Inhabited

/-- The key with which a peer authenticates (R441). -/
inductive PeerKey where
  | tenant (vdev : Nat)
  | management
  | part (device : Nat)
  | recovery
  deriving DecidableEq, Repr, Inhabited

/-- An option that a peer asks for when a connection is set up: one that the part supports, or another (R440). -/
inductive ConnOption where
  | rud | rod | senderControl | creditControl | linkRetry | linkCredit | security
  | unlisted (n : Nat)
  deriving DecidableEq, Repr, Inhabited

/-- The header of an Ndoca message (R442); `conn` is the connection it arrives on. -/
structure Msg where
  conn : Nat
  type : Nat
  vdev : Nat
  len  : Nat
  seq  : Nat
  corr : Nat
  rsvd : Nat
  /-- STATUS of a reply -/
  status : Nat := 0
  deriving DecidableEq, Repr, Inhabited

/-- Access rights of a mapping or a window. -/
structure Perm where
  r : Bool
  w : Bool
  deriving DecidableEq, Repr, Inhabited

/-- One page mapping of a context (R4, R11): `units` pages of 64 KiB from virtual page `vpage` to physical page `ppage`. -/
structure PageMap where
  vpage : Nat
  ppage : Nat
  units : Nat
  perm  : Perm
  valid : Bool
  deriving DecidableEq, Repr, Inhabited

/-- Body of WMAP (R443). -/
inductive WinBody where
  | exportWin (vbase units : Nat) (perm : Perm)
  | importWin (device handle : Nat)
  deriving DecidableEq, Repr, Inhabited

/-- Body of DROVE (R392-R394). -/
inductive DroveBody where
  | replicate (record : List Byte) (members : List Nat) (rank leader leaderVdev : Nat)
  | ack (drvid launch device gen : Nat)
  | refuse (drvid launch device : Nat)
  | start (drvid leader leaderVdev gen : Nat)
  | fail (drvid leader leaderVdev gen : Nat) (largest : Option Nat)
  deriving DecidableEq, Repr, Inhabited

/-- One partition-table entry (R432). -/
structure Partition where
  level    : Nat
  parent   : Option Nat
  clusters : List Nat
  hbmsh    : Nat
  cmnsh    : Nat
  fabsh    : Nat
  isolate  : Bool
  slice    : Nat
  period   : Nat
  deriving DecidableEq, Repr, Inhabited

/-- One entry of a virtual device's drove map (R438). -/
structure DMap where
  valid      : Bool
  leader     : Nat
  leaderVdev : Nat
  deriving DecidableEq, Repr, Inhabited

/-- The part of a virtual-device table entry that management writes (R438). -/
structure VdevCfg where
  part   : Nat
  pool   : Nat
  poolsz : Nat
  policy : List (Nat × List Byte)
  dmap   : List DMap
  maps   : List PageMap
  deriving DecidableEq, Repr, Inhabited

/-- The entry of a virtual device as management writes it: that of a new device, or anew that of one which stands (R438). -/
structure VdevWrite where
  cfg     : VdevCfg
  rewrite : Bool := false
  deriving DecidableEq, Repr, Inhabited

/-- What a peer asks for when a connection is set up: the endpoint that its key binds to, and options (R440, R441). -/
structure ConnAsk where
  key     : PeerKey
  options : List ConnOption := []
  deriving DecidableEq, Repr, Inhabited

/-- One format-region register (R371), by its fields; `rsvd` is what a write puts into the reserved bits. -/
structure FmtReg where
  pbase : Nat
  nrec  : Nat
  fmt   : Nat
  dbase : Nat
  sbase : Nat
  sat   : Bool
  subn  : Bool
  enx   : Bool
  rsv   : Bool
  rsvd  : Nat
  deriving DecidableEq, Repr, Inhabited

/-- ONE constructor for each row of spec/opcode_table.json. -/
inductive Instr where
  | bra (m : Mods) (f : BForm)
  | call (m : Mods) (f : BForm)
  | brx (m : Mods) (f : RForm)
  | callx (m : Mods) (f : RForm)
  | ret (m : Mods) (f : RForm)
  | exit (m : Mods) (f : RForm)
  | yield (m : Mods) (f : RForm)
  | nop (m : Mods) (f : RForm)
  | trap (m : Mods) (f : RForm)
  | bkpt (m : Mods) (f : RForm)
  | tret (m : Mods) (f : RForm)
  | mdone (m : Mods) (f : RForm)
  | invd (m : Mods) (f : RForm)
  | meet (m : Mods) (f : RForm)
  | meetr (m : Mods) (f : RForm)
  | vote (m : Mods) (f : RForm)
  | shfl (m : Mods) (f : RForm)
  | srd (m : Mods) (f : RForm)
  | swr (m : Mods) (f : RForm)
  | iadd (m : Mods) (f : RForm)
  | isub (m : Mods) (f : RForm)
  | iand (m : Mods) (f : RForm)
  | ior (m : Mods) (f : RForm)
  | ixor (m : Mods) (f : RForm)
  | imin (m : Mods) (f : RForm)
  | imax (m : Mods) (f : RForm)
  | isel (m : Mods) (f : RForm)
  | shl (m : Mods) (f : RForm)
  | shrl (m : Mods) (f : RForm)
  | shra (m : Mods) (f : RForm)
  | rot (m : Mods) (f : RForm)
  | bfx (m : Mods) (f : RForm)
  | bfi (m : Mods) (f : RForm)
  | popc (m : Mods) (f : RForm)
  | clz (m : Mods) (f : RForm)
  | imul (m : Mods) (f : RForm)
  | imulh (m : Mods) (f : RForm)
  | imad (m : Mods) (f : RForm)
  | iaddc (m : Mods) (f : RForm)
  | lea (m : Mods) (f : RForm)
  | brev (m : Mods) (f : RForm)
  | iabs (m : Mods) (f : RForm)
  | ineg (m : Mods) (f : RForm)
  | iaddi (m : Mods) (f : IForm)
  | mov (m : Mods) (f : RForm)
  | inot (m : Mods) (f : RForm)
  | ext (m : Mods) (f : RForm)
  | iset (m : Mods) (f : RForm)
  | plop (m : Mods) (f : RForm)
  | movi (m : Mods) (f : IForm)
  | iaddU (m : Mods) (f : RForm)
  | isubU (m : Mods) (f : RForm)
  | iandU (m : Mods) (f : RForm)
  | iorU (m : Mods) (f : RForm)
  | ixorU (m : Mods) (f : RForm)
  | iminU (m : Mods) (f : RForm)
  | imaxU (m : Mods) (f : RForm)
  | shlU (m : Mods) (f : RForm)
  | shrlU (m : Mods) (f : RForm)
  | shraU (m : Mods) (f : RForm)
  | rotU (m : Mods) (f : RForm)
  | bfxU (m : Mods) (f : RForm)
  | bfiU (m : Mods) (f : RForm)
  | popcU (m : Mods) (f : RForm)
  | clzU (m : Mods) (f : RForm)
  | imulU (m : Mods) (f : RForm)
  | imulhU (m : Mods) (f : RForm)
  | imadU (m : Mods) (f : RForm)
  | iaddcU (m : Mods) (f : RForm)
  | leaU (m : Mods) (f : RForm)
  | brevU (m : Mods) (f : RForm)
  | iabsU (m : Mods) (f : RForm)
  | inegU (m : Mods) (f : RForm)
  | iaddiU (m : Mods) (f : IForm)
  | movU (m : Mods) (f : RForm)
  | inotU (m : Mods) (f : RForm)
  | extU (m : Mods) (f : RForm)
  | isetU (m : Mods) (f : RForm)
  | moviU (m : Mods) (f : IForm)
  | movW16 (f : HForm)
  | iaddW16 (f : HForm)
  | isubW16 (f : HForm)
  | iandW16 (f : HForm)
  | iorW16 (f : HForm)
  | ixorW16 (f : HForm)
  | shlW16 (f : HForm)
  | shrlW16 (f : HForm)
  | shraW16 (f : HForm)
  | imulW16 (f : HForm)
  | faddW16 (f : HForm)
  | fsubW16 (f : HForm)
  | fmulW16 (f : HForm)
  | fminW16 (f : HForm)
  | fmaxW16 (f : HForm)
  | iaddiW16 (f : HForm)
  | fadd (m : Mods) (f : RForm)
  | fsub (m : Mods) (f : RForm)
  | fmul (m : Mods) (f : RForm)
  | fmin (m : Mods) (f : RForm)
  | fmax (m : Mods) (f : RForm)
  | fma (m : Mods) (f : RForm)
  | frnd (m : Mods) (f : RForm)
  | fclass (m : Mods) (f : RForm)
  | fset (m : Mods) (f : RForm)
  | cvt (m : Mods) (f : RForm)
  | cvti (m : Mods) (f : RForm)
  | cvtf (m : Mods) (f : RForm)
  | pack (m : Mods) (f : RForm)
  | unpk (m : Mods) (f : RForm)
  | dot2 (m : Mods) (f : RForm)
  | dot4 (m : Mods) (f : RForm)
  | dot8 (m : Mods) (f : RForm)
  | rcp (m : Mods) (f : RForm)
  | rcpa (m : Mods) (f : RForm)
  | rsq (m : Mods) (f : RForm)
  | sqrt (m : Mods) (f : RForm)
  | exp2 (m : Mods) (f : RForm)
  | log2 (m : Mods) (f : RForm)
  | sincos (m : Mods) (f : RForm)
  | erf (m : Mods) (f : RForm)
  | rngkey (m : Mods) (f : RForm)
  | rngpos (m : Mods) (f : RForm)
  | rng (m : Mods) (f : RForm)
  | rngf (m : Mods) (f : RForm)
  | rngn (m : Mods) (f : RForm)
  | ld (m : Mods) (f : RForm)
  | st (m : Mods) (f : RForm)
  | lds (m : Mods) (f : RForm)
  | sts (m : Mods) (f : RForm)
  | pref (m : Mods) (f : RForm)
  | atomAdd (m : Mods) (f : RForm)
  | atomMin (m : Mods) (f : RForm)
  | atomMax (m : Mods) (f : RForm)
  | atomAnd (m : Mods) (f : RForm)
  | atomOr (m : Mods) (f : RForm)
  | atomXor (m : Mods) (f : RForm)
  | atomXchg (m : Mods) (f : RForm)
  | atomFadd (m : Mods) (f : RForm)
  | cas (m : Mods) (f : RForm)
  | red (m : Mods) (f : RForm)
  | fence (m : Mods) (f : RForm)
  | xfence (m : Mods) (f : RForm)
  | hinit (m : Mods) (f : RForm)
  | harv (m : Mods) (f : RForm)
  | hexp (m : Mods) (f : RForm)
  | hwait (m : Mods) (f : RForm)
  | tagw (m : Mods) (f : RForm)
  | tagf (m : Mods) (f : RForm)
  | tagc (m : Mods) (f : RForm)
  | madd (m : Mods) (f : RForm)
  | msub (m : Mods) (f : RForm)
  | mmul (m : Mods) (f : RForm)
  | mscl (m : Mods) (f : RForm)
  | msamp (m : Mods) (f : RForm)
  | mrelu (m : Mods) (f : RForm)
  | mexp (m : Mods) (f : RForm)
  | mcol (m : Mods) (f : RForm)
  | mmov (m : Mods) (f : RForm)
  | mspl (m : Mods) (f : RForm)
  | mmode (m : Mods) (f : RForm)
  | mld (m : Mods) (f : RForm)
  | mst (m : Mods) (f : RForm)
  | copy (m : Mods) (f : RForm)
  | copyt (m : Mods) (f : RForm)
  | gath (m : Mods) (f : RForm)
  | scat (m : Mods) (f : RForm)
  | pushw (m : Mods) (f : RForm)
  | crem (m : Mods) (f : RForm)
  | mma (m : Mods) (f : RForm)
  | mmat (m : Mods) (f : RForm)
  | mmas (m : Mods) (f : RForm)
  | mmam (m : Mods) (f : RForm)
  | mwait (m : Mods) (f : RForm)
  | acrd (m : Mods) (f : RForm)
  | acwr (m : Mods) (f : RForm)
  | acst (m : Mods) (f : RForm)
  | acz (m : Mods) (f : RForm)
  | acrel (m : Mods) (f : RForm)
  | cclr (m : Mods) (f : RForm)
  | cfrm (m : Mods) (f : RForm)
  | clobe (m : Mods) (f : RForm)
  | cmix (m : Mods) (f : RForm)
  | clay (m : Mods) (f : RForm)
  | cnet (m : Mods) (f : RForm)
  | csmp (m : Mods) (f : RForm)
  | cevl (m : Mods) (f : RForm)
  | cpdf (m : Mods) (f : RForm)
  | calb (m : Mods) (f : RForm)
  | cspl (m : Mods) (f : RForm)
  | cfil (m : Mods) (f : RForm)
  | ldt (m : Mods) (f : RForm)
  | cfence (m : Mods) (f : RForm)
  | trace (m : Mods) (f : RForm)
  | tstep (m : Mods) (f : RForm)
  | hitget (m : Mods) (f : RForm)
  | hitacc (m : Mods) (f : RForm)
  | rast (m : Mods) (f : RForm)
  | qdiff (m : Mods) (f : RForm)
  | resid (m : Mods) (f : RForm)
  | folddef (m : Mods) (f : RForm)
  | fold (m : Mods) (f : RForm)
  | foldf (m : Mods) (f : RForm)
  | blend (m : Mods) (f : RForm)
  | brand (m : Mods) (f : RForm)
  | phase (m : Mods) (f : RForm)
  | emit (m : Mods) (f : RForm)
  | pubv (m : Mods) (f : RForm)
  | vwait (m : Mods) (f : RForm)
  | vchk (m : Mods) (f : RForm)
  | vstop (m : Mods) (f : RForm)
  | vget (m : Mods) (f : RForm)
  | lnch (m : Mods) (f : RForm)
  | drain (team group : Nat)
  | propagate (core line : Nat)
  | refresh (core line : Nat) (drop : Bool)
  | savedDrain (team group : Nat)
  | engineRead (entry : Nat) (key : LineKey)
  | engineWrite (entry : Nat) (key : LineKey)
  | complete (entry : Nat)
  | fill (core line : Nat)
  | tableDrop (core line : Nat)
  | weightFill (core vdev : Nat) (addr : VAddr)
  | weightDrop (core vdev : Nat) (addr : VAddr)
  | fabricDelivery (op : Nat)
  | serialPhase (launch : Nat)
  | decode (line : Nat)
  | encode (line : Nat)
  | decodedLineDrop (line : Nat)
  | packedAccess (core line : Nat)
  | traceRead (flight line : Nat)
  | traversalComplete (flight : Nat)
  | feedbackWrite (slot : Nat)
  | traversalUnitError (core unit : Nat)
  | foldTimerExpiry (launch entry : Nat) (key : Word)
  | foldDrainFlush (launch : Nat)
  | penTimerExpiry (launch pen : Nat)
  | graphDrain (launch : Nat)
  | runGrant (core slot : Nat)
  | twinFull (team group : Nat)
  | matrixGrant (cluster : Nat)
  | matrixPass (cluster : Nat)
  | acstRowBlock (cluster : Nat)
  | tileClaim (entry : Nat)
  | parkThresholdExpiry (team group : Nat)
  | wake (team : Nat)
  | teamPlace (team core : Nat)
  | teamEnd (team : Nat)
  | launchComplete (launch : Nat)
  | aged (team : Nat)
  | muster (team : Nat)
  | musterTrap (team group : Nat)
  | budgetOverrun (team group : Nat)
  | sliceEnd (vdev : Nat)
  | clusterReclaim (cluster : Nat)
  | droveAck (launch : Nat)
  | droveDecision (launch : Nat)
  | memoryErrorDetect (line : Nat)
  | connectionSetup (conn : Nat) (asks : ConnAsk)
  | portFailure (port : Nat)
  | launch (h : Msg) (record : List Byte)
  | wmap (h : Msg) (body : WinBody)
  | wunmap (h : Msg) (handle : Nat)
  | wwrite (h : Msg) (handle offset : Nat) (data : List Byte)
  | wread (h : Msg) (handle offset count : Nat)
  | load (h : Msg) (chunk : List Byte)
  | attest (h : Msg) (nonce : List Byte)
  | drove (h : Msg) (body : DroveBody)
  | recover (h : Msg) (chunk : List Byte) (last : Bool)
  | manageEndLaunch (h : Msg) (launch : Nat)
  | manageResolveFault (h : Msg) (entry : Nat) (maps : List PageMap)
  | manageDenyFault (h : Msg) (entry : Nat)
  | manageMusterTeam (h : Msg) (team : Nat)
  | manageWritePartition (h : Msg) (index : Nat) (entry : Partition)
  | manageLendClusters (h : Msg) (cluster partition : Nat)
  | manageReclaimClusters (h : Msg) (cluster : Nat)
  | manageCreateVdev (h : Msg) (entry : VdevWrite)
  | manageDeleteVdev (h : Msg)
  | manageWriteFormatRegion (h : Msg) (controller index : Nat) (value : FmtReg)
  | manageRetirePage (h : Msg) (page : Nat)
  | manageExportContext (h : Msg) (team : Nat)
  | manageImportContext (h : Msg) (team : Nat) (chunk : List Byte)
  | manageReadEvents (h : Msg)
  | manageClearEvents (h : Msg)
  | manageAttachDebugger (h : Msg)
  | manageDetachDebugger (h : Msg)
  | debuggerResume (team group : Nat)
  | manageRaiseMinVersion (h : Msg) (version : Nat) (sig : List Byte)
  | manageEnterRecovery (h : Msg) (sig : List Byte)
  | reset
  | thermalTrip
  | lobeOperationComplete (flight : Nat)
  | connectionClose (conn : Nat)
  deriving DecidableEq, Repr, Inhabited

/-- A move of the part: an issue slot issues the next instruction of the run it holds (R107), or an event row happens. -/
inductive Move where
  | issue (core slot : Nat)
  | event (i : Instr)
  deriving DecidableEq, Repr, Inhabited

end Sys2Proof
end

