-- ==== Sys2Proof/Config.lean ====
section
/-!
DEFINITION. What one implementation fixes and what the spec leaves open: constants without a body, so that no proof can see
a value. A free value is applied to `State.tick`, a counter that every step advances, or to the operands it depends on.
-/
namespace Sys2Proof.Config
open Sys2Proof

/-- Which enabled move the machine takes next when nothing stands in the agenda (R66, R79: any order is allowed). -/
opaque nextMove : Nat → Move

/-- How many cycles a core's counter has gone on (R2 gives no relation to instructions). -/
opaque elapsed : Nat → BitVec 64

/-- A choice between two behaviours that the spec allows (R229: the old or the new control block). -/
opaque coin : Nat → Bool

/-- A value that the spec does not state. -/
opaque freeWord : Nat → Word

/-- A byte that the spec does not state. -/
opaque freeByte : Nat → Byte

/-- Which of the slices that may be its home a line has: a fixed function of the physical line that is not architectural (R360);
`homeSlice` (Ops.lean) confines it to those slices. -/
opaque sliceChoice : Nat → Nat

/-- Which of the hub's four LPDDR6 controllers has a line of that memory (R371; log entry 140). -/
opaque lpddrController : Nat → Nat

/-- The slice of a fold bin (R352) and of a pen (R403), modulo 256: not architectural. -/
opaque binSlice : Nat → Word → Nat
opaque penSlice : Nat → Nat → Nat

/-- The part's device number: 21 bits (R6, R141). -/
opaque deviceNumber : BitVec 21

/-- Size in 64 KiB units of the window that a remote part exports under a handle (R245): device, handle. -/
opaque windowUnits : Nat → Nat → Nat

/-- SHA-384 (R446). -/
opaque sha384 : List Byte → List Byte
/-- ECDSA P-384 verification: message, key digest, signature (R446). -/
opaque ecdsaOk : List Byte → List Byte → List Byte → Bool
/-- LMS verification: message, key digest, signature (R446). -/
opaque lmsOk : List Byte → List Byte → List Byte → Bool

/-- Whether a virtual device's policy admits a policy number and a key digest (R446); the form of a policy is not given. -/
opaque policyAdmits : List (Nat × List Byte) → Nat → List Byte → Bool
/-- The part's two signatures under a report (R446). -/
opaque signReport : List Byte → List Byte
/-- The two programs of a firmware image, 0 Akgium and 1 the untrusted firmware (R447): signed bytes, key digest, ECDSA signature and
LMS signature; the form of an image is not given. -/
opaque imagePart : List Byte → Nat → List Byte × List Byte × List Byte × List Byte
/-- The security version number that a firmware image holds (R447). -/
opaque imageVersion : List Byte → Nat
/-- A key that Akgium generates, by a fresh number (R449). -/
opaque newKey : Nat → BitVec 512
/-- AES-256-XTS of a line, both ways: key, tweak (the line's physical address), and the 128 bytes (R449). -/
opaque xtsEncrypt : BitVec 512 → Nat → List Byte → List Byte
opaque xtsDecrypt : BitVec 512 → Nat → List Byte → List Byte
/-- Whether a MANAGE request is signed by the key of an image (R447, R451): the image, the request (0 to raise the minimum version, 1 to enter
recovery), its operand, and the signature. -/
opaque signedByImage : List Byte → Nat → Nat → List Byte → Bool
/-- The physical pages that the ownership table assigns to the firmware once Akgium runs (R448): which they are is not given. -/
opaque firmwarePages : List Nat

end Sys2Proof.Config
end

