-- ==== Sys2Proof/WellFormed.lean ====
section
/-!
DEFINITION. Which instructions are well formed: the static legality of 03_encoding (R54, R57, R58, R60, R63, R64) and of
each instruction's entry, as one table `Instr.legal` and one checker. Budgets, tag counts and every other test that needs
the machine's state are made by the meanings.
-/
namespace Sys2Proof

/-- The raw fields of an encoded instruction, by form (R48, R51-R53). -/
inductive Raw where
  | half (op : BitVec 4) (f : HForm)
  | b (maj : BitVec 6) (m : Mods) (f : BForm)
  | i (maj : BitVec 6) (m : Mods) (f : IForm)
  | r (maj : BitVec 6) (fn : BitVec 3) (m : Mods) (f : RForm)
  | event
  deriving DecidableEq, Repr, Inhabited

/-- The place of each instruction in the opcode map (R49, R62). -/
def Instr.raw : Instr → Raw
  | .bra m f => .b 0 m f
  | .call m f => .b 1 m f
  | .brx m f => .r 2 0 m f
  | .callx m f => .r 2 1 m f
  | .ret m f => .r 2 2 m f
  | .exit m f => .r 3 0 m f
  | .yield m f => .r 3 1 m f
  | .nop m f => .r 3 2 m f
  | .trap m f => .r 3 3 m f
  | .bkpt m f => .r 3 4 m f
  | .tret m f => .r 3 5 m f
  | .mdone m f => .r 3 6 m f
  | .invd m f => .r 3 7 m f
  | .meet m f => .r 4 0 m f
  | .meetr m f => .r 4 1 m f
  | .vote m f => .r 4 2 m f
  | .shfl m f => .r 4 3 m f
  | .srd m f => .r 4 4 m f
  | .swr m f => .r 4 5 m f
  | .iadd m f => .r 5 0 m f
  | .isub m f => .r 5 1 m f
  | .iand m f => .r 5 2 m f
  | .ior m f => .r 5 3 m f
  | .ixor m f => .r 5 4 m f
  | .imin m f => .r 5 5 m f
  | .imax m f => .r 5 6 m f
  | .isel m f => .r 5 7 m f
  | .shl m f => .r 6 0 m f
  | .shrl m f => .r 6 1 m f
  | .shra m f => .r 6 2 m f
  | .rot m f => .r 6 3 m f
  | .bfx m f => .r 6 4 m f
  | .bfi m f => .r 6 5 m f
  | .popc m f => .r 6 6 m f
  | .clz m f => .r 6 7 m f
  | .imul m f => .r 7 0 m f
  | .imulh m f => .r 7 1 m f
  | .imad m f => .r 7 2 m f
  | .iaddc m f => .r 7 3 m f
  | .lea m f => .r 7 4 m f
  | .brev m f => .r 7 5 m f
  | .iabs m f => .r 7 6 m f
  | .ineg m f => .r 7 7 m f
  | .iaddi m f => .i 8 m f
  | .mov m f => .r 9 0 m f
  | .inot m f => .r 9 1 m f
  | .ext m f => .r 9 2 m f
  | .iset m f => .r 9 3 m f
  | .plop m f => .r 9 4 m f
  | .movi m f => .i 10 m f
  | .iaddU m f => .r 11 0 m f
  | .isubU m f => .r 11 1 m f
  | .iandU m f => .r 11 2 m f
  | .iorU m f => .r 11 3 m f
  | .ixorU m f => .r 11 4 m f
  | .iminU m f => .r 11 5 m f
  | .imaxU m f => .r 11 6 m f
  | .shlU m f => .r 12 0 m f
  | .shrlU m f => .r 12 1 m f
  | .shraU m f => .r 12 2 m f
  | .rotU m f => .r 12 3 m f
  | .bfxU m f => .r 12 4 m f
  | .bfiU m f => .r 12 5 m f
  | .popcU m f => .r 12 6 m f
  | .clzU m f => .r 12 7 m f
  | .imulU m f => .r 13 0 m f
  | .imulhU m f => .r 13 1 m f
  | .imadU m f => .r 13 2 m f
  | .iaddcU m f => .r 13 3 m f
  | .leaU m f => .r 13 4 m f
  | .brevU m f => .r 13 5 m f
  | .iabsU m f => .r 13 6 m f
  | .inegU m f => .r 13 7 m f
  | .iaddiU m f => .i 14 m f
  | .movU m f => .r 15 0 m f
  | .inotU m f => .r 15 1 m f
  | .extU m f => .r 15 2 m f
  | .isetU m f => .r 15 3 m f
  | .moviU m f => .i 16 m f
  | .movW16 f => .half 0 f
  | .iaddW16 f => .half 1 f
  | .isubW16 f => .half 2 f
  | .iandW16 f => .half 3 f
  | .iorW16 f => .half 4 f
  | .ixorW16 f => .half 5 f
  | .shlW16 f => .half 6 f
  | .shrlW16 f => .half 7 f
  | .shraW16 f => .half 8 f
  | .imulW16 f => .half 9 f
  | .faddW16 f => .half 10 f
  | .fsubW16 f => .half 11 f
  | .fmulW16 f => .half 12 f
  | .fminW16 f => .half 13 f
  | .fmaxW16 f => .half 14 f
  | .iaddiW16 f => .half 15 f
  | .fadd m f => .r 17 0 m f
  | .fsub m f => .r 17 1 m f
  | .fmul m f => .r 17 2 m f
  | .fmin m f => .r 17 3 m f
  | .fmax m f => .r 17 4 m f
  | .fma m f => .r 17 5 m f
  | .frnd m f => .r 17 6 m f
  | .fclass m f => .r 17 7 m f
  | .fset m f => .r 18 0 m f
  | .cvt m f => .r 18 1 m f
  | .cvti m f => .r 18 2 m f
  | .cvtf m f => .r 18 3 m f
  | .pack m f => .r 18 4 m f
  | .unpk m f => .r 18 5 m f
  | .dot2 m f => .r 19 0 m f
  | .dot4 m f => .r 19 1 m f
  | .dot8 m f => .r 19 2 m f
  | .rcp m f => .r 20 0 m f
  | .rcpa m f => .r 20 1 m f
  | .rsq m f => .r 20 2 m f
  | .sqrt m f => .r 20 3 m f
  | .exp2 m f => .r 20 4 m f
  | .log2 m f => .r 20 5 m f
  | .sincos m f => .r 20 6 m f
  | .erf m f => .r 20 7 m f
  | .rngkey m f => .r 21 0 m f
  | .rngpos m f => .r 21 1 m f
  | .rng m f => .r 21 2 m f
  | .rngf m f => .r 21 3 m f
  | .rngn m f => .r 21 4 m f
  | .ld m f => .r 22 0 m f
  | .st m f => .r 22 1 m f
  | .lds m f => .r 22 2 m f
  | .sts m f => .r 22 3 m f
  | .pref m f => .r 22 4 m f
  | .atomAdd m f => .r 23 0 m f
  | .atomMin m f => .r 23 1 m f
  | .atomMax m f => .r 23 2 m f
  | .atomAnd m f => .r 23 3 m f
  | .atomOr m f => .r 23 4 m f
  | .atomXor m f => .r 23 5 m f
  | .atomXchg m f => .r 23 6 m f
  | .atomFadd m f => .r 23 7 m f
  | .cas m f => .r 24 0 m f
  | .red m f => .r 24 1 m f
  | .fence m f => .r 24 2 m f
  | .xfence m f => .r 24 3 m f
  | .hinit m f => .r 25 0 m f
  | .harv m f => .r 25 1 m f
  | .hexp m f => .r 25 2 m f
  | .hwait m f => .r 25 3 m f
  | .tagw m f => .r 25 4 m f
  | .tagf m f => .r 25 5 m f
  | .tagc m f => .r 25 6 m f
  | .madd m f => .r 26 0 m f
  | .msub m f => .r 26 1 m f
  | .mmul m f => .r 26 2 m f
  | .mscl m f => .r 26 3 m f
  | .msamp m f => .r 26 4 m f
  | .mrelu m f => .r 26 5 m f
  | .mexp m f => .r 26 6 m f
  | .mcol m f => .r 26 7 m f
  | .mmov m f => .r 27 0 m f
  | .mspl m f => .r 27 1 m f
  | .mmode m f => .r 27 2 m f
  | .mld m f => .r 27 3 m f
  | .mst m f => .r 27 4 m f
  | .copy m f => .r 28 0 m f
  | .copyt m f => .r 28 1 m f
  | .gath m f => .r 28 2 m f
  | .scat m f => .r 28 3 m f
  | .pushw m f => .r 28 4 m f
  | .crem m f => .r 28 5 m f
  | .mma m f => .r 29 0 m f
  | .mmat m f => .r 29 1 m f
  | .mmas m f => .r 29 2 m f
  | .mmam m f => .r 29 3 m f
  | .mwait m f => .r 29 4 m f
  | .acrd m f => .r 30 0 m f
  | .acwr m f => .r 30 1 m f
  | .acst m f => .r 30 2 m f
  | .acz m f => .r 30 3 m f
  | .acrel m f => .r 30 4 m f
  | .cclr m f => .r 31 0 m f
  | .cfrm m f => .r 31 1 m f
  | .clobe m f => .r 31 2 m f
  | .cmix m f => .r 31 3 m f
  | .clay m f => .r 31 4 m f
  | .cnet m f => .r 31 5 m f
  | .csmp m f => .r 32 0 m f
  | .cevl m f => .r 32 1 m f
  | .cpdf m f => .r 32 2 m f
  | .calb m f => .r 32 3 m f
  | .cspl m f => .r 32 4 m f
  | .cfil m f => .r 32 5 m f
  | .ldt m f => .r 32 6 m f
  | .cfence m f => .r 32 7 m f
  | .trace m f => .r 33 0 m f
  | .tstep m f => .r 33 1 m f
  | .hitget m f => .r 33 2 m f
  | .hitacc m f => .r 33 3 m f
  | .rast m f => .r 33 4 m f
  | .qdiff m f => .r 33 5 m f
  | .resid m f => .r 33 6 m f
  | .folddef m f => .r 34 0 m f
  | .fold m f => .r 34 1 m f
  | .foldf m f => .r 34 2 m f
  | .blend m f => .r 35 0 m f
  | .brand m f => .r 35 1 m f
  | .phase m f => .r 35 2 m f
  | .emit m f => .r 36 0 m f
  | .pubv m f => .r 36 1 m f
  | .vwait m f => .r 36 2 m f
  | .vchk m f => .r 36 3 m f
  | .vstop m f => .r 36 4 m f
  | .vget m f => .r 36 5 m f
  | .lnch m f => .r 36 6 m f
  | .drain _ _ => .event
  | .propagate _ _ => .event
  | .refresh _ _ _ => .event
  | .savedDrain _ _ => .event
  | .engineRead _ _ => .event
  | .engineWrite _ _ => .event
  | .complete _ => .event
  | .fill _ _ => .event
  | .tableDrop _ _ => .event
  | .weightFill _ _ _ => .event
  | .weightDrop _ _ _ => .event
  | .fabricDelivery _ => .event
  | .serialPhase _ => .event
  | .decode _ => .event
  | .encode _ => .event
  | .decodedLineDrop _ => .event
  | .packedAccess _ _ => .event
  | .traceRead _ _ => .event
  | .traversalComplete _ => .event
  | .feedbackWrite _ => .event
  | .traversalUnitError _ _ => .event
  | .foldTimerExpiry _ _ _ => .event
  | .foldDrainFlush _ => .event
  | .penTimerExpiry _ _ => .event
  | .graphDrain _ => .event
  | .runGrant _ _ => .event
  | .twinFull _ _ => .event
  | .matrixGrant _ => .event
  | .matrixPass _ => .event
  | .acstRowBlock _ => .event
  | .tileClaim _ => .event
  | .parkThresholdExpiry _ _ => .event
  | .wake _ => .event
  | .teamPlace _ _ => .event
  | .teamEnd _ => .event
  | .launchComplete _ => .event
  | .aged _ => .event
  | .muster _ => .event
  | .musterTrap _ _ => .event
  | .budgetOverrun _ _ => .event
  | .sliceEnd _ => .event
  | .clusterReclaim _ => .event
  | .droveAck _ => .event
  | .droveDecision _ => .event
  | .memoryErrorDetect _ => .event
  | .connectionSetup _ _ => .event
  | .portFailure _ => .event
  | .launch _ _ => .event
  | .wmap _ _ => .event
  | .wunmap _ _ => .event
  | .wwrite _ _ _ _ => .event
  | .wread _ _ _ _ => .event
  | .load _ _ => .event
  | .attest _ _ => .event
  | .drove _ _ => .event
  | .recover _ _ _ => .event
  | .manageEndLaunch _ _ => .event
  | .manageResolveFault _ _ _ => .event
  | .manageDenyFault _ _ => .event
  | .manageMusterTeam _ _ => .event
  | .manageWritePartition _ _ _ => .event
  | .manageLendClusters _ _ _ => .event
  | .manageReclaimClusters _ _ => .event
  | .manageCreateVdev _ _ => .event
  | .manageDeleteVdev _ => .event
  | .manageWriteFormatRegion _ _ _ _ => .event
  | .manageRetirePage _ _ => .event
  | .manageExportContext _ _ => .event
  | .manageImportContext _ _ _ => .event
  | .manageReadEvents _ => .event
  | .manageClearEvents _ => .event
  | .manageAttachDebugger _ => .event
  | .manageDetachDebugger _ => .event
  | .debuggerResume _ _ => .event
  | .manageRaiseMinVersion _ _ _ => .event
  | .manageEnterRecovery _ _ => .event
  | .reset => .event
  | .thermalTrip => .event
  | .lobeOperationComplete _ => .event
  | .connectionClose _ => .event

/-- The instruction at a place of the opcode map, none where R62 has a dash or nothing. -/
def Instr.ofRaw : Raw → Option Instr
  | .half op f => match op.toNat with
    | 0 => some (.movW16 f)
    | 1 => some (.iaddW16 f)
    | 2 => some (.isubW16 f)
    | 3 => some (.iandW16 f)
    | 4 => some (.iorW16 f)
    | 5 => some (.ixorW16 f)
    | 6 => some (.shlW16 f)
    | 7 => some (.shrlW16 f)
    | 8 => some (.shraW16 f)
    | 9 => some (.imulW16 f)
    | 10 => some (.faddW16 f)
    | 11 => some (.fsubW16 f)
    | 12 => some (.fmulW16 f)
    | 13 => some (.fminW16 f)
    | 14 => some (.fmaxW16 f)
    | 15 => some (.iaddiW16 f)
    | _ => none
  | .b maj m f => match maj.toNat with
    | 0 => some (.bra m f)
    | 1 => some (.call m f)
    | _ => none
  | .i maj m f => match maj.toNat with
    | 8 => some (.iaddi m f)
    | 10 => some (.movi m f)
    | 14 => some (.iaddiU m f)
    | 16 => some (.moviU m f)
    | _ => none
  | .r maj fn m f => match maj.toNat, fn.toNat with
    | 2, 0 => some (.brx m f)
    | 2, 1 => some (.callx m f)
    | 2, 2 => some (.ret m f)
    | 3, 0 => some (.exit m f)
    | 3, 1 => some (.yield m f)
    | 3, 2 => some (.nop m f)
    | 3, 3 => some (.trap m f)
    | 3, 4 => some (.bkpt m f)
    | 3, 5 => some (.tret m f)
    | 3, 6 => some (.mdone m f)
    | 3, 7 => some (.invd m f)
    | 4, 0 => some (.meet m f)
    | 4, 1 => some (.meetr m f)
    | 4, 2 => some (.vote m f)
    | 4, 3 => some (.shfl m f)
    | 4, 4 => some (.srd m f)
    | 4, 5 => some (.swr m f)
    | 5, 0 => some (.iadd m f)
    | 5, 1 => some (.isub m f)
    | 5, 2 => some (.iand m f)
    | 5, 3 => some (.ior m f)
    | 5, 4 => some (.ixor m f)
    | 5, 5 => some (.imin m f)
    | 5, 6 => some (.imax m f)
    | 5, 7 => some (.isel m f)
    | 6, 0 => some (.shl m f)
    | 6, 1 => some (.shrl m f)
    | 6, 2 => some (.shra m f)
    | 6, 3 => some (.rot m f)
    | 6, 4 => some (.bfx m f)
    | 6, 5 => some (.bfi m f)
    | 6, 6 => some (.popc m f)
    | 6, 7 => some (.clz m f)
    | 7, 0 => some (.imul m f)
    | 7, 1 => some (.imulh m f)
    | 7, 2 => some (.imad m f)
    | 7, 3 => some (.iaddc m f)
    | 7, 4 => some (.lea m f)
    | 7, 5 => some (.brev m f)
    | 7, 6 => some (.iabs m f)
    | 7, 7 => some (.ineg m f)
    | 9, 0 => some (.mov m f)
    | 9, 1 => some (.inot m f)
    | 9, 2 => some (.ext m f)
    | 9, 3 => some (.iset m f)
    | 9, 4 => some (.plop m f)
    | 11, 0 => some (.iaddU m f)
    | 11, 1 => some (.isubU m f)
    | 11, 2 => some (.iandU m f)
    | 11, 3 => some (.iorU m f)
    | 11, 4 => some (.ixorU m f)
    | 11, 5 => some (.iminU m f)
    | 11, 6 => some (.imaxU m f)
    | 12, 0 => some (.shlU m f)
    | 12, 1 => some (.shrlU m f)
    | 12, 2 => some (.shraU m f)
    | 12, 3 => some (.rotU m f)
    | 12, 4 => some (.bfxU m f)
    | 12, 5 => some (.bfiU m f)
    | 12, 6 => some (.popcU m f)
    | 12, 7 => some (.clzU m f)
    | 13, 0 => some (.imulU m f)
    | 13, 1 => some (.imulhU m f)
    | 13, 2 => some (.imadU m f)
    | 13, 3 => some (.iaddcU m f)
    | 13, 4 => some (.leaU m f)
    | 13, 5 => some (.brevU m f)
    | 13, 6 => some (.iabsU m f)
    | 13, 7 => some (.inegU m f)
    | 15, 0 => some (.movU m f)
    | 15, 1 => some (.inotU m f)
    | 15, 2 => some (.extU m f)
    | 15, 3 => some (.isetU m f)
    | 17, 0 => some (.fadd m f)
    | 17, 1 => some (.fsub m f)
    | 17, 2 => some (.fmul m f)
    | 17, 3 => some (.fmin m f)
    | 17, 4 => some (.fmax m f)
    | 17, 5 => some (.fma m f)
    | 17, 6 => some (.frnd m f)
    | 17, 7 => some (.fclass m f)
    | 18, 0 => some (.fset m f)
    | 18, 1 => some (.cvt m f)
    | 18, 2 => some (.cvti m f)
    | 18, 3 => some (.cvtf m f)
    | 18, 4 => some (.pack m f)
    | 18, 5 => some (.unpk m f)
    | 19, 0 => some (.dot2 m f)
    | 19, 1 => some (.dot4 m f)
    | 19, 2 => some (.dot8 m f)
    | 20, 0 => some (.rcp m f)
    | 20, 1 => some (.rcpa m f)
    | 20, 2 => some (.rsq m f)
    | 20, 3 => some (.sqrt m f)
    | 20, 4 => some (.exp2 m f)
    | 20, 5 => some (.log2 m f)
    | 20, 6 => some (.sincos m f)
    | 20, 7 => some (.erf m f)
    | 21, 0 => some (.rngkey m f)
    | 21, 1 => some (.rngpos m f)
    | 21, 2 => some (.rng m f)
    | 21, 3 => some (.rngf m f)
    | 21, 4 => some (.rngn m f)
    | 22, 0 => some (.ld m f)
    | 22, 1 => some (.st m f)
    | 22, 2 => some (.lds m f)
    | 22, 3 => some (.sts m f)
    | 22, 4 => some (.pref m f)
    | 23, 0 => some (.atomAdd m f)
    | 23, 1 => some (.atomMin m f)
    | 23, 2 => some (.atomMax m f)
    | 23, 3 => some (.atomAnd m f)
    | 23, 4 => some (.atomOr m f)
    | 23, 5 => some (.atomXor m f)
    | 23, 6 => some (.atomXchg m f)
    | 23, 7 => some (.atomFadd m f)
    | 24, 0 => some (.cas m f)
    | 24, 1 => some (.red m f)
    | 24, 2 => some (.fence m f)
    | 24, 3 => some (.xfence m f)
    | 25, 0 => some (.hinit m f)
    | 25, 1 => some (.harv m f)
    | 25, 2 => some (.hexp m f)
    | 25, 3 => some (.hwait m f)
    | 25, 4 => some (.tagw m f)
    | 25, 5 => some (.tagf m f)
    | 25, 6 => some (.tagc m f)
    | 26, 0 => some (.madd m f)
    | 26, 1 => some (.msub m f)
    | 26, 2 => some (.mmul m f)
    | 26, 3 => some (.mscl m f)
    | 26, 4 => some (.msamp m f)
    | 26, 5 => some (.mrelu m f)
    | 26, 6 => some (.mexp m f)
    | 26, 7 => some (.mcol m f)
    | 27, 0 => some (.mmov m f)
    | 27, 1 => some (.mspl m f)
    | 27, 2 => some (.mmode m f)
    | 27, 3 => some (.mld m f)
    | 27, 4 => some (.mst m f)
    | 28, 0 => some (.copy m f)
    | 28, 1 => some (.copyt m f)
    | 28, 2 => some (.gath m f)
    | 28, 3 => some (.scat m f)
    | 28, 4 => some (.pushw m f)
    | 28, 5 => some (.crem m f)
    | 29, 0 => some (.mma m f)
    | 29, 1 => some (.mmat m f)
    | 29, 2 => some (.mmas m f)
    | 29, 3 => some (.mmam m f)
    | 29, 4 => some (.mwait m f)
    | 30, 0 => some (.acrd m f)
    | 30, 1 => some (.acwr m f)
    | 30, 2 => some (.acst m f)
    | 30, 3 => some (.acz m f)
    | 30, 4 => some (.acrel m f)
    | 31, 0 => some (.cclr m f)
    | 31, 1 => some (.cfrm m f)
    | 31, 2 => some (.clobe m f)
    | 31, 3 => some (.cmix m f)
    | 31, 4 => some (.clay m f)
    | 31, 5 => some (.cnet m f)
    | 32, 0 => some (.csmp m f)
    | 32, 1 => some (.cevl m f)
    | 32, 2 => some (.cpdf m f)
    | 32, 3 => some (.calb m f)
    | 32, 4 => some (.cspl m f)
    | 32, 5 => some (.cfil m f)
    | 32, 6 => some (.ldt m f)
    | 32, 7 => some (.cfence m f)
    | 33, 0 => some (.trace m f)
    | 33, 1 => some (.tstep m f)
    | 33, 2 => some (.hitget m f)
    | 33, 3 => some (.hitacc m f)
    | 33, 4 => some (.rast m f)
    | 33, 5 => some (.qdiff m f)
    | 33, 6 => some (.resid m f)
    | 34, 0 => some (.folddef m f)
    | 34, 1 => some (.fold m f)
    | 34, 2 => some (.foldf m f)
    | 35, 0 => some (.blend m f)
    | 35, 1 => some (.brand m f)
    | 35, 2 => some (.phase m f)
    | 36, 0 => some (.emit m f)
    | 36, 1 => some (.pubv m f)
    | 36, 2 => some (.vwait m f)
    | 36, 3 => some (.vchk m f)
    | 36, 4 => some (.vstop m f)
    | 36, 5 => some (.vget m f)
    | 36, 6 => some (.lnch m f)
    | _, _ => none
  | .event => none

/-- Sub-elements of a word under a TYPE (R115). -/
def Ty.count : Ty → Nat
  | .w32 | .n32 => 1
  | .f16 | .bf16 | .i16 | .n16 => 2
  | .e4m3 | .e5m2 | .e3m2 | .e2m3 | .i8 | .n8 => 4
  | .e2m1 | .i4 | .n4 => 8

/-- What an operand field of an instruction names (R54). -/
inductive Fld where
  | v (n : Nat) | s (n : Nat) | m | c | a   -- n consecutive registers from the field's register
  | predDst | predSrc | dom
  | below (n : Nat)                          -- a value, less than n
  | any | zero
  deriving DecidableEq, Repr, Inhabited

/-- The row of R60 and of the instruction's entry: which X fields have meaning and which values each accepts, which prefixes
are accepted, what the operand fields name and whether the guard must be p0. -/
structure Legal where
  ty     : List Ty := [.w32]
  rnd    : Bool := false
  sat    : Bool := false
  scopes : List Scope := [.group]
  orders : List Order := [.plain]
  cache  : Bool := false
  cls    : Bool := true
  clsOk  : BitVec 5 := 0
  nf     : Bool := false
  k      : Bool := false
  rep    : Bool := false
  noX    : Bool := false
  needX  : Bool := false
  p0     : Bool := false
  d      : Fld := .zero
  a      : Fld := .zero
  b      : Fld := .zero
  extra  : Bool := true

/-- The last register of a field's class and how many registers it spans; none when the field names no register that REP may
step (R54, R58, R155). -/
def Fld.span : Fld → Option (Nat × Nat)
  | .v n | .s n => some (63, n)
  | .m => some (15, 1)
  | .c => some (3, 1)
  | .a => some (31, 1)
  | .predSrc => some (7, 1)
  | _ => none

/-- A field value as R54 allows it, before REP. -/
def Fld.ok (k : Fld) (f : BitVec 6) : Bool :=
  match k with
  | .v n | .s n => f.toNat + n ≤ 64
  | .m => f.toNat < 16
  | .c => f.toNat < 4
  | .a => f.toNat < 32
  | .predDst | .any => true
  | .predSrc => f.toNat < 8
  | .dom => f.toNat < 6
  | .below n => f.toNat < n
  | .zero => f == 0

/-- The stepping check of R58 for one field. -/
def Fld.stepOk (k : Fld) (f : BitVec 6) (steps : Bool) (cnt : BitVec 6) : Bool :=
  if steps then
    match k.span with
    | some (last, n) => f.toNat + cnt.toNat + (n - 1) ≤ last
    | none => false
  else true

/-- Every scope may be written. -/
def allScopes : List Scope := [.group, .team, .core, .die, .device, .system]

/-- The X word against its row (R60, R64). -/
def Legal.xOk (l : Legal) (x : XMod) : Bool :=
  !l.noX && l.ty.contains x.ty && (l.rnd || x.rnd == .rne) && (l.sat || !x.sat) && l.scopes.contains x.scope &&
  l.orders.contains x.order && (l.cache || x.cache == .dflt) && l.cls && (x.cls &&& ~~~l.clsOk == 0) && (l.nf || !x.nf)

/-- The prefixes against the row. -/
def Legal.modsOk (l : Legal) (m : Mods) : Bool :=
  (match m.x with | some x => l.xOk x | none => !l.needX) && (l.k || m.k.isNone) && (l.rep || m.rep.isNone) && l.extra

/-- An R-form instruction against its row. -/
def Legal.rOk (l : Legal) (m : Mods) (f : RForm) : Bool :=
  l.modsOk m && (!l.p0 || f.g == 0) && l.d.ok f.d && l.a.ok f.a && l.b.ok f.b &&
  (match m.rep with
   | some r => l.d.stepOk f.d r.sd r.cnt && l.a.stepOk f.a r.sa r.cnt && l.b.stepOk f.b r.sb r.cnt
   | none => true)

/-- An I-form instruction against its row; REP may not step its immediate (R58). -/
def Legal.iOk (l : Legal) (m : Mods) (f : IForm) : Bool :=
  l.modsOk m && (!l.p0 || f.g == 0) && l.d.ok f.d && l.a.ok f.a &&
  (match m.rep with
   | some r => l.d.stepOk f.d r.sd r.cnt && l.a.stepOk f.a r.sa r.cnt && !r.sb
   | none => true)

/-- CLS as the instruction sees it: 0 without an X word. -/
def Mods.cls (m : Mods) : BitVec 5 := (m.x.map XMod.cls).getD 0
/-- CLS bit i, which is X bit 15 + i. -/
def Mods.clsBit (m : Mods) (i : Nat) : Bool := m.cls.getLsbD i
/-- CLS bits [lo+n-1:lo] as a number. -/
def Mods.clsField (m : Mods) (lo n : Nat) : Nat := (m.cls.toNat >>> lo) % 2 ^ n
/-- TYPE, with the default for an instruction without X. -/
def Mods.ty (m : Mods) (dflt : Ty := .w32) : Ty := (m.x.map XMod.ty).getD dflt
/-- SAT. -/
def Mods.sat (m : Mods) : Bool := (m.x.map XMod.sat).getD false

/-- Integer TYPEs (R116). -/
def intTys : List Ty := [.w32, .i16, .i8, .i4, .n16, .n8, .n4, .n32]
/-- Floating TYPEs of majors 0x11 and 0x12 (R157). -/
def fpTys : List Ty := [.w32, .f16, .bf16]
/-- All floating TYPEs (R118). -/
def floatTys : List Ty := [.w32, .f16, .bf16, .e4m3, .e5m2, .e3m2, .e2m3, .e2m1]
/-- Packed TYPEs 1-13 (R163). -/
def packedTys : List Ty := [.f16, .bf16, .e4m3, .e5m2, .e3m2, .e2m3, .e2m1, .i16, .i8, .i4, .n16, .n8, .n4]

/-- The size of a load or store by SIZE (R177): bytes, none when reserved. -/
def sizeOf? : Nat → Option Nat
  | 0 => some 4 | 1 => some 1 | 2 => some 2 | 3 => some 8 | 4 => some 16 | _ => none
/-- Registers that a size moves (R178). -/
def sizeRegs (c : Nat) : Nat := match c with | 3 => 2 | 4 => 4 | _ => 1

/-- The source format code of CVT, CVTI and CVTF (R162). -/
def cvtSrc : Nat → Ty
  | 0 => .w32 | 1 => .f16 | 2 => .bf16 | 3 => .e4m3 | 4 => .e5m2 | 5 => .e3m2 | 6 => .e2m3 | 7 => .e2m1
  | 8 => .w32 | 9 => .n32 | 10 => .i16 | 11 => .n16 | 12 => .i8 | 13 => .n8 | 14 => .i4 | _ => .n4
/-- The position range of R162. -/
def cvtPositions (dt st : Ty) : Nat := if dt.count ≤ st.count then st.count / dt.count else dt.count / st.count

/-- Special registers that SWR may write (R141). -/
def specialWritable (n : Nat) : Bool :=
  n == 12 || (14 ≤ n && n ≤ 17) || n == 22 || (24 ≤ n && n ≤ 38)

section Rows

/-- Three operands of one kind on an integer major (R146). -/
def Legal.int3 (r : Fld) (u sat : Bool) : Legal := { ty := intTys, sat := sat, rep := true, p0 := u, d := r, a := r, b := r }
/-- Two operands on an integer major. -/
def Legal.int2 (r : Fld) (u sat : Bool) : Legal := { Legal.int3 r u sat with b := .zero }
/-- Floating majors 0x11-0x14 (R156): CLS[15] is FTZ. -/
def Legal.fp (tys : List Ty) (sat : Bool) (b : Fld) : Legal :=
  { ty := tys, rnd := true, sat := sat, clsOk := 1, rep := true, d := .v 1, a := .v 1, b := b }
/-- Address fields of R177 with UB allowed or not. -/
def Legal.addr (l : Legal) (ub : Bool) : Legal :=
  if ub then { l with a := .s 2, b := .v 1 } else { l with a := .v 2, b := .any }
/-- Atomics (R186); CACHE has a meaning on those of major 0x17 alone: R60's row for 0x18 leaves it to the entries, and those of CAS
and RED do not name it (R187, R188). -/
def Legal.atom (tys : List Ty) (cache : Bool) : Legal :=
  { ty := tys, scopes := allScopes, orders := [.plain, .acq, .rel, .acqrel], cache := cache, d := .v 1, a := .v 2, b := .v 1 }
/-- Moment arithmetic (R203, R206); `sel` is whether the selector CLS[19:17] lies in the instruction's list. -/
def Legal.mom (sel : Bool) (clsOk : BitVec 5) (d a b : Fld) : Legal :=
  { rnd := true, cls := sel, clsOk := clsOk, rep := true, d := d, a := a, b := b }
/-- Copy instructions (R237). -/
def Legal.copy (clsOk : BitVec 5) (d a b : Nat) : Legal :=
  { scopes := allScopes, orders := [.plain, .rel], cache := true, clsOk := clsOk, p0 := true, d := .s d, a := .s a, b := .s b }
/-- Instructions that act once per splinter with the guard p0. -/
def Legal.uni (scopes : List Scope) (orders : List Order) (d a b : Fld) : Legal :=
  { scopes := scopes, orders := orders, p0 := true, d := d, a := a, b := b }

end Rows

/-- The row of every R-form and I-form instruction. -/
def Instr.legal : Instr → Legal
  -- 0x02-0x04 (R132, R134-R144, R225)
  | .brx _ _ => { a := .v 1 }
  | .callx _ _ => { d := .v 1, a := .v 1 }
  | .ret _ _ => { a := .v 1 }
  | .exit _ _ | .yield _ _ | .nop _ _ => {}
  | .trap _ _ => { noX := true, a := .any }
  | .bkpt _ _ => { noX := true, p0 := true }
  | .tret _ _ => { clsOk := 1, p0 := true }
  | .mdone _ _ => { noX := true, p0 := true, a := .s 2 }
  | .invd m _ => { clsOk := 7, p0 := true, extra := m.clsField 0 3 ≤ 4 }
  | .meet _ _ => { k := true, d := .v 1, a := .any, b := .any }
  | .meetr _ _ => { a := .v 1 }
  | .vote _ _ => { d := .v 1, a := .predSrc }
  | .shfl m f => { clsOk := 31, k := true, d := .v 1, a := .v 1, b := .v 1,
                   extra := m.clsField 2 3 ≤ 5 && (m.k.isNone || (f.b == 0 && (m.k.getD 0).toNat < 32)) }
  | .srd m _ => if m.clsBit 0 then { clsOk := 1, d := .v 1, a := .s 1 } else { clsOk := 1, d := .v 1, a := .below 53 }
  | .swr m f => if m.clsBit 0 then { clsOk := 1, d := .s 1, a := .v 1 }
                else { clsOk := 1, d := .below 53, a := .v 1, extra := specialWritable f.d.toNat }
  -- 0x05 (R147)
  | .iadd _ _ | .isub _ _ => .int3 (.v 1) false true
  | .iand _ _ | .ior _ _ | .ixor _ _ | .imin _ _ | .imax _ _ => .int3 (.v 1) false false
  | .isel _ _ => { Legal.int3 (.v 1) false false with clsOk := 7 }
  -- 0x06 (R148)
  | .shl _ _ => .int3 (.v 1) false true
  | .shrl _ _ | .shra _ _ | .rot _ _ => .int3 (.v 1) false false
  | .bfx _ _ | .bfi _ _ => { Legal.int3 (.v 1) false false with ty := [.w32, .n32] }
  | .popc _ _ | .clz _ _ => .int2 (.v 1) false false
  -- 0x07 (R149)
  | .imul _ _ | .imad _ _ => .int3 (.v 1) false true
  | .imulh _ _ => .int3 (.v 1) false false
  | .iaddc _ _ => { Legal.int3 (.v 1) false false with ty := [.w32, .n32], clsOk := 7 }
  | .lea _ _ => { Legal.int3 (.v 1) false true with ty := [.w32, .n32], clsOk := 7 }
  | .brev _ _ => .int2 (.v 1) false false
  | .iabs _ _ => { Legal.int2 (.v 1) false true with ty := [.w32, .i16, .i8, .i4] }
  | .ineg _ _ => .int2 (.v 1) false true
  -- 0x08-0x0A (R150)
  | .iaddi _ _ => { ty := intTys, sat := true, k := true, rep := true, d := .v 1, a := .v 1 }
  | .mov _ _ | .inot _ _ => .int2 (.v 1) false false
  | .ext m _ => { Legal.int3 (.v 1) false false with
                  ty := [.i16, .i8, .i4, .n16, .n8, .n4], needX := true, b := .below (m.ty.count) }
  | .iset m _ => { Legal.int3 (.v 1) false false with d := .predDst, clsOk := 7, extra := m.clsField 0 3 ≤ 5 }
  | .plop _ _ => { ty := intTys, rep := true, clsOk := 15, d := .predDst, a := .predSrc, b := .predSrc }
  | .movi _ _ => { ty := intTys, sat := true, k := true, rep := true, d := .v 1 }
  -- 0x0B-0x10, the uniform forms (R63, R152)
  | .iaddU _ _ | .isubU _ _ | .shlU _ _ | .imulU _ _ | .imadU _ _ => .int3 (.s 1) true true
  | .iandU _ _ | .iorU _ _ | .ixorU _ _ | .iminU _ _ | .imaxU _ _ | .shrlU _ _ | .shraU _ _ | .rotU _ _
  | .imulhU _ _ => .int3 (.s 1) true false
  | .bfxU _ _ | .bfiU _ _ => { Legal.int3 (.s 1) true false with ty := [.w32, .n32] }
  | .popcU _ _ | .clzU _ _ | .brevU _ _ | .movU _ _ | .inotU _ _ => .int2 (.s 1) true false
  | .iaddcU _ _ => { Legal.int3 (.s 1) true false with ty := [.w32, .n32], clsOk := 7 }
  | .leaU _ _ => { Legal.int3 (.s 1) true true with ty := [.w32, .n32], clsOk := 7 }
  | .iabsU _ _ => { Legal.int2 (.s 1) true true with ty := [.w32, .i16, .i8, .i4] }
  | .inegU _ _ => .int2 (.s 1) true true
  | .iaddiU _ _ => { ty := intTys, sat := true, k := true, rep := true, p0 := true, d := .s 1, a := .s 1 }
  | .extU m _ => { Legal.int3 (.s 1) true false with
                   ty := [.i16, .i8, .i4, .n16, .n8, .n4], needX := true, b := .below (m.ty.count) }
  | .isetU m _ => { Legal.int3 (.s 1) true false with d := .predDst, clsOk := 7, extra := m.clsField 0 3 ≤ 5 }
  | .moviU _ _ => { ty := intTys, sat := true, k := true, rep := true, p0 := true, d := .s 1 }
  -- 0x11-0x14 (R156-R172)
  | .fadd _ _ | .fsub _ _ | .fmul _ _ | .fma _ _ => .fp fpTys true (.v 1)
  | .fmin _ _ | .fmax _ _ => .fp fpTys false (.v 1)
  | .frnd _ _ | .fclass _ _ => .fp fpTys false .zero
  | .fset _ _ => { Legal.fp fpTys false (.v 1) with d := .predDst, clsOk := 15 }
  | .cvt m _ => { Legal.fp floatTys true (.below (cvtPositions m.ty (cvtSrc (m.clsField 1 4)))) with
                  clsOk := 31, extra := m.clsField 1 4 < 8 }
  | .cvti m _ => { Legal.fp intTys false (.below (cvtPositions m.ty (cvtSrc (m.clsField 1 4)))) with
                   clsOk := 31, extra := m.clsField 1 4 < 8 }
  | .cvtf m _ => { Legal.fp floatTys true (.below (cvtPositions m.ty (cvtSrc (m.clsField 1 4)))) with
                   clsOk := 31, extra := 8 ≤ m.clsField 1 4 }
  | .pack m _ | .unpk m _ => { Legal.fp packedTys false (.below (m.ty.count)) with needX := true }
  | .dot2 _ _ => .fp [.f16, .bf16, .i16, .n16] true (.v 1)
  | .dot4 _ _ => .fp [.e4m3, .e5m2, .e3m2, .e2m3, .i8, .n8] true (.v 1)
  | .dot8 _ _ => .fp [.e2m1, .i4, .n4] true (.v 1)
  | .rcp _ _ | .rsq _ _ | .sqrt _ _ | .exp2 _ _ | .log2 _ _ | .erf _ _ => .fp [.w32] true .zero
  | .rcpa _ _ => .fp [.w32] false .zero
  | .sincos _ _ => { Legal.fp [.w32] true .zero with d := .v 2 }
  -- 0x15 (R175)
  | .rngkey _ _ => { rep := true, a := .s 8 }
  | .rngpos m _ => { rep := true, clsOk := 3, a := .v 1, b := .v 1, extra := m.clsField 0 2 ≠ 3 }
  | .rng _ _ => { ty := [.w32, .n32], rep := true, d := .v 1 }
  | .rngf _ _ => { ty := fpTys, rep := true, d := .v 1 }
  | .rngn _ _ => { rep := true, d := .v 1 }
  -- 0x16 (R177-R184)
  | .ld m _ =>
    { Legal.addr { scopes := allScopes, orders := [.plain, .acq], cache := true, clsOk := 31, nf := true, k := true, rep := true,
                   d := .v (sizeRegs (m.clsField 0 3)) } (m.clsBit 4) with
      extra := (sizeOf? (m.clsField 0 3)).isSome && (!m.clsBit 3 || m.clsField 0 3 == 1 || m.clsField 0 3 == 2) }
  | .st m _ =>
    { Legal.addr { scopes := allScopes, orders := [.plain, .rel], cache := true, clsOk := 23, k := true, rep := true,
                   d := .v (sizeRegs (m.clsField 0 3)) } (m.clsBit 4) with extra := (sizeOf? (m.clsField 0 3)).isSome }
  | .lds m _ =>
    { clsOk := 15, k := true, rep := true, d := .v (sizeRegs (m.clsField 0 3)), a := .v 1, b := .any,
      extra := (sizeOf? (m.clsField 0 3)).isSome && (!m.clsBit 3 || m.clsField 0 3 == 1 || m.clsField 0 3 == 2) }
  | .sts m _ =>
    { clsOk := 7, k := true, rep := true, d := .v (sizeRegs (m.clsField 0 3)), a := .v 1, b := .any,
      extra := (sizeOf? (m.clsField 0 3)).isSome }
  | .pref m _ =>
    { Legal.addr { cache := true, clsOk := 23, k := true, rep := true } (m.clsBit 4) with
      extra := (sizeOf? (m.clsField 0 3)).isSome }
  -- 0x17-0x18 (R186-R190)
  | .atomAdd _ _ | .atomMin _ _ | .atomMax _ _ | .atomAnd _ _ | .atomOr _ _ | .atomXor _ _ | .atomXchg _ _ =>
    .atom [.w32, .n32] true
  | .atomFadd _ _ => .atom fpTys true
  | .cas m _ => { Legal.atom [.w32] false with clsOk := 1, d := .v (if m.clsBit 0 then 2 else 1), b := .v (if m.clsBit 0 then 2 else 1) }
  | .red m _ => { Legal.atom (if m.clsField 0 3 == 7 then fpTys else [.w32, .n32]) false with
                  clsOk := 7, d := .zero, extra := m.clsField 0 3 ≠ 6 }
  | .fence _ _ => .uni allScopes [.plain] .zero .zero .zero
  | .xfence _ f => { Legal.uni allScopes [.plain] .zero .dom .dom with extra := f.a ≠ f.b }
  -- 0x19 (R193-R196)
  | .hinit _ _ | .hexp _ _ => .uni allScopes [.plain, .rel] .zero (.s 1) (.s 1)
  | .harv _ _ => .uni allScopes [.plain, .rel] (.s 1) (.s 1) (.s 1)
  -- R194 names no ORDER that HWAIT rejects: that release and acq-rel are illegal on it is DEDUCED (log entry 20)
  | .hwait _ _ => { Legal.uni allScopes [.plain, .acq] .zero (.s 1) (.s 1) with k := true }
  | .tagw _ _ => { Legal.uni allScopes [.plain, .acq] .zero (.s 2) .zero with k := true, clsOk := 1 }
  | .tagf _ _ => .uni allScopes [.plain] (.s 1) (.s 2) .zero
  | .tagc _ _ => .uni allScopes [.plain] .zero (.s 2) .zero
  -- 0x1A-0x1B (R203-R218)
  | .madd m _ | .msub m _ | .mmul m _ => .mom (m.clsField 2 3 ≤ 2) 31 .m .m .m
  | .mscl _ _ => .mom true 3 .m .m (.v 1)
  | .msamp _ _ => .mom true 3 .m (.v 1) (.v 1)
  | .mrelu _ _ | .mexp _ _ => .mom true 3 .m .m .zero
  | .mcol m _ => .mom (m.clsField 2 3 ≤ 5) 31 (.v 1) .m (if m.clsField 2 3 == 3 || m.clsField 2 3 == 4 then .v 1 else .zero)
  | .mmov _ _ => { rep := true, d := .m, a := .m }
  | .mspl m _ => if m.clsBit 0 then { rep := true, clsOk := 3, d := .m, a := .v 1, b := .v 1 }
                 else { rep := true, clsOk := 1, d := .v 2, a := .m }
  | .mmode _ f => { rep := true, clsOk := 1, b := .below 8, extra := f.b.toNat % 4 ≠ 3 }
  | .mld m _ => Legal.addr { scopes := allScopes, orders := [.plain, .acq], cache := true, clsOk := 24, nf := true, k := true,
                             rep := true, d := .m } (m.clsBit 4)
  | .mst m _ => Legal.addr { scopes := allScopes, orders := [.plain, .rel], cache := true, clsOk := 16, k := true,
                             rep := true, d := .m } (m.clsBit 4)
  -- 0x1C (R237-R245)
  | .copy m _ => match m.clsField 0 2 with
    | 0 => .copy 3 2 2 2
    | 1 => .copy 3 1 2 2
    | 2 => .copy 3 2 1 2
    | _ => .copy 3 1 1 2
  | .copyt _ _ => .copy 1 3 2 3
  | .gath _ _ | .scat _ _ => .copy 0 1 2 4
  | .pushw _ _ => .copy 0 4 1 1
  | .crem _ _ => .copy 1 2 2 2
  -- 0x1D-0x1E (R272, R276, R277)
  | .mma _ _ | .mmas _ _ | .mmam _ _ => { scopes := allScopes, orders := [.plain, .rel], a := .s 2 }
  | .mmat _ _ => .uni allScopes [.plain, .rel] .zero (.s 2) .zero
  | .mwait _ _ => .uni allScopes [.plain, .acq] .zero (.s 1) (.s 1)
  | .acrd _ _ => { d := .v 1, a := .a, b := .s 1 }
  | .acwr _ _ => { d := .a, a := .v 1, b := .s 1 }
  | .acst _ _ => .uni allScopes [.plain] .zero .a (.s 4)
  | .acz _ _ | .acrel _ _ => { p0 := true, d := .a }
  -- 0x1F-0x20 (R301)
  | .cclr _ _ => { d := .c }
  | .cfrm m _ => { clsOk := 1, d := .c, a := .v (if m.clsBit 0 then 1 else 3), b := .v (if m.clsBit 0 then 1 else 3) }
  | .clobe _ _ => { clsOk := 1, d := .c, a := .v 4, b := .v 1 }
  | .cmix _ _ | .clay _ _ => { d := .c, a := .v 2, b := .v 1 }
  | .cnet m _ => { clsOk := 1, d := .c, a := if m.clsBit 0 then .zero else .v 2 }
  | .csmp _ _ => { d := .v 8, a := .v 6, b := .c }
  | .cevl _ _ => { d := .v 3, a := .v 6, b := .c }
  | .cpdf _ _ => { d := .v 1, a := .v 6, b := .c }
  | .calb _ _ => { d := .v 3, a := .v 3, b := .c }
  | .cspl _ _ => { cache := true, k := true, d := .c, a := .v 2, b := .any }
  | .cfil _ _ => { cache := true, nf := true, k := true, d := .c, a := .v 2, b := .any }
  | .ldt m _ => { clsOk := 15, nf := true, k := true, d := .v (sizeRegs (m.clsField 0 3)), a := .v 2, b := .any,
                  extra := (sizeOf? (m.clsField 0 3)).isSome &&
                           (!m.clsBit 3 || m.clsField 0 3 == 1 || m.clsField 0 3 == 2) }
  | .cfence _ _ => .uni allScopes [.plain] .zero .zero .zero
  -- 0x21-0x22 (R336)
  | .trace m _ => { clsOk := 7, d := if m.clsBit 0 then .zero else .v 6, a := .v 8, b := .s 3 }
  | .tstep _ _ => { d := .v 6 }
  | .hitget m _ => { clsOk := 15, d := .v (match m.clsField 0 3 with | 0 => 1 | 3 => 9 | _ => 3), extra := m.clsField 0 3 ≤ 4 }
  | .hitacc _ _ => { clsOk := 3 }
  | .rast _ _ => { p0 := true, clsOk := 1, d := .v 6, a := .s 12, b := .s 1 }
  | .qdiff _ _ => { clsOk := 1, d := .v 1, a := .v 1 }
  | .resid _ _ => { p0 := true, clsOk := 1, d := .s 1 }
  | .folddef m _ => { p0 := true, clsOk := 1, a := if m.clsBit 0 then .zero else .s 2, b := .s 1 }
  | .fold _ _ => { d := .predDst, a := .v 1 }
  | .foldf m _ => { p0 := true, clsOk := 1, a := if m.clsBit 0 then .zero else .s 1 }
  -- 0x23-0x24 (R365, R377, R378, R406)
  | .blend _ _ => { scopes := [.device], clsOk := 31, a := .v 2, b := .v 4 }
  | .brand m _ => { scopes := [.device], clsOk := 3, a := .v 2, b := .v 1, extra := m.clsField 0 2 ≠ 3 }
  | .phase _ _ => .uni [.device, .system] [.plain] .zero (.s 1) .zero
  | .emit _ _ => { scopes := allScopes, orders := [.plain, .rel], d := .predDst, a := .s 1, b := .v 1 }
  | .pubv _ _ => { Legal.uni allScopes [.plain, .rel] .predDst (.s 1) (.s 4) with clsOk := 1 }
  | .vwait _ _ => .uni allScopes [.plain, .acq] .zero (.s 1) (.s 2)
  | .vchk _ _ => .uni allScopes [.plain, .acq] (.s 1) (.s 1) .zero
  | .vstop _ _ => .uni allScopes [.plain, .rel] .zero (.s 1) .zero
  | .vget _ _ => .uni allScopes [.plain, .acq] (.s 4) (.s 1) .zero
  | .lnch _ _ => .uni allScopes [.plain, .rel] (.s 1) (.s 2) .zero
  | _ => {}

/-- An instruction that the decoder may answer: an encoded instruction that R64 does not forbid. -/
def Instr.wf (i : Instr) : Bool :=
  match i.raw with
  | .half _ _ => true
  | .b _ m _ => m.rep.isNone && (match m.x with | some x => x == {} | none => true)
  | .i _ m f => i.legal.iOk m f
  | .r _ _ m f => i.legal.rOk m f
  | .event => false

end Sys2Proof
end

