-- ==== Sys2Proof/Decode.lean ====
section
/-!
DEFINITION. Decoding of the halfword stream (03_encoding R45-R65), total on any halfwords, and after it the encoder written
from the same tables. What is not an instruction is answered by name, with the MAJ and FN that the fault record takes (R65,
R220).
-/
namespace Sys2Proof

/-- What a sequence of halfwords holds. -/
inductive Decoded where
  /-- the halfwords end inside the instruction: fetch the next one (R45) -/
  | short
  /-- an encoding of R64: illegal instruction, with the MAJ and FN as decoded (R65) -/
  | bad (maj : BitVec 6) (fn : BitVec 3)
  /-- an instruction and how many halfwords it takes, prefixes included -/
  | ok (i : Instr) (len : Nat)
  deriving DecidableEq, Repr, Inhabited

/-- The prefixes as read, before the fields of X are looked at. -/
structure Pfx where
  rep : Option Rep := none
  x   : Option (BitVec 21) := none
  k   : Option (BitVec 21) := none
  deriving DecidableEq, Repr, Inhabited

section Fields

/-- TYPE by number (R57); 15 is reserved. -/
def Ty.ofCode (c : BitVec 4) : Option Ty := match c.toNat with
  | 0 => some .w32 | 1 => some .f16 | 2 => some .bf16 | 3 => some .e4m3 | 4 => some .e5m2 | 5 => some .e3m2
  | 6 => some .e2m3 | 7 => some .e2m1 | 8 => some .i16 | 9 => some .i8 | 10 => some .i4 | 11 => some .n16
  | 12 => some .n8 | 13 => some .n4 | 14 => some .n32 | _ => none
/-- The number of a TYPE (R57). -/
def Ty.code : Ty → BitVec 4
  | .w32 => 0 | .f16 => 1 | .bf16 => 2 | .e4m3 => 3 | .e5m2 => 4 | .e3m2 => 5 | .e2m3 => 6 | .e2m1 => 7
  | .i16 => 8 | .i8 => 9 | .i4 => 10 | .n16 => 11 | .n8 => 12 | .n4 => 13 | .n32 => 14
/-- RND by number (R57); 6 and 7 are reserved. -/
def Rnd.ofCode (c : BitVec 3) : Option Rnd := match c.toNat with
  | 0 => some .rne | 1 => some .rz | 2 => some .rup | 3 => some .rdn | 4 => some .rna | 5 => some .rs | _ => none
/-- The number of a RND (R57). -/
def Rnd.code : Rnd → BitVec 3
  | .rne => 0 | .rz => 1 | .rup => 2 | .rdn => 3 | .rna => 4 | .rs => 5
/-- SCOPE by number (R57, R70); 6 and 7 are reserved. -/
def Scope.ofCode (c : BitVec 3) : Option Scope := match c.toNat with
  | 0 => some .group | 1 => some .team | 2 => some .core | 3 => some .die | 4 => some .device | 5 => some .system
  | _ => none
/-- The number of a SCOPE (R70). -/
def Scope.code : Scope → BitVec 3
  | .group => 0 | .team => 1 | .core => 2 | .die => 3 | .device => 4 | .system => 5
/-- ORDER by number (R57). -/
def Order.ofCode (c : BitVec 2) : Order := match c.toNat with
  | 0 => .plain | 1 => .acq | 2 => .rel | _ => .acqrel
/-- The number of an ORDER (R57). -/
def Order.code : Order → BitVec 2
  | .plain => 0 | .acq => 1 | .rel => 2 | .acqrel => 3
/-- CACHE by number (R57). -/
def Cache.ofCode (c : BitVec 2) : Cache := match c.toNat with
  | 0 => .dflt | 1 => .stream | 2 => .keep | _ => .noalloc
/-- The number of a CACHE (R57). -/
def Cache.code : Cache → BitVec 2
  | .dflt => 0 | .stream => 1 | .keep => 2 | .noalloc => 3
/-- The domain of a domain field (R18). -/
def Domain.ofCode (c : Nat) : Option Domain := match c with
  | 0 => some .ord | 1 => some .cpy | 2 => some .mtx | 3 => some .lob | 4 => some .vis | 5 => some .shp | _ => none
/-- The number of a domain (R18). -/
def Domain.code : Domain → Nat
  | .ord => 0 | .cpy => 1 | .mtx => 2 | .lob => 3 | .vis => 4 | .shp => 5

/-- The modifier word by its fields (R57), none when one holds a reserved value. -/
def XMod.ofPayload (x : BitVec 21) : Option XMod :=
  match Ty.ofCode (x.extractLsb' 0 4), Rnd.ofCode (x.extractLsb' 4 3), Scope.ofCode (x.extractLsb' 8 3) with
  | some ty, some rnd, some sc =>
    some { ty := ty, rnd := rnd, sat := x.getLsbD 7, scope := sc, order := Order.ofCode (x.extractLsb' 11 2),
           cache := Cache.ofCode (x.extractLsb' 13 2), cls := x.extractLsb' 15 5, nf := x.getLsbD 20 }
  | _, _, _ => none

/-- The payload of a modifier word (R57). -/
def XMod.payload (x : XMod) : BitVec 21 :=
  BitVec.ofBool x.nf ++ x.cls ++ x.cache.code ++ x.order.code ++ x.scope.code ++ BitVec.ofBool x.sat ++ x.rnd.code ++
    x.ty.code

/-- The REP payload by its fields (R58), none when a reserved bit is set. -/
def Rep.ofPayload (p : BitVec 21) : Option Rep :=
  if p.extractLsb' 18 3 == 0 && p.extractLsb' 6 9 == 0 then
    some { cnt := p.extractLsb' 0 6, sd := p.getLsbD 15, sa := p.getLsbD 16, sb := p.getLsbD 17 }
  else none

/-- The payload of a REP (R58). -/
def Rep.payload (r : Rep) : BitVec 21 :=
  (0 : BitVec 3) ++ BitVec.ofBool r.sb ++ BitVec.ofBool r.sa ++ BitVec.ofBool r.sd ++ (0 : BitVec 9) ++ r.cnt

end Fields

section Read

/-- MAJ of a 32-bit word (R50). -/
def majOf (w : Word) : BitVec 6 := w.extractLsb' 2 6
/-- The 21-bit payload XP : PL of a prefix word (R55). -/
def payloadOf (w : Word) : BitVec 21 := w.extractLsb' 29 3 ++ w.extractLsb' 11 18
/-- The kind of a prefix word (R55). -/
def kindOf (w : Word) : Nat := (w.extractLsb' 8 3).toNat

/-- The B-form majors (R53). -/
def isB (maj : BitVec 6) : Bool := maj.toNat ≤ 1
/-- The I-form majors (R52). -/
def isI (maj : BitVec 6) : Bool := maj.toNat == 8 || maj.toNat == 10 || maj.toNat == 14 || maj.toNat == 16

/-- The fields of an R-form word (R51). -/
def rFields (w : Word) : RForm :=
  { g := w.extractLsb' 29 3, e := w.getLsbD 1, d := w.extractLsb' 8 6, a := w.extractLsb' 14 6, b := w.extractLsb' 20 6 }
/-- The fields of an I-form word (R52). -/
def iFields (w : Word) : IForm :=
  { g := w.extractLsb' 29 3, e := w.getLsbD 1, d := w.extractLsb' 8 6, a := w.extractLsb' 14 6, imm := w.extractLsb' 20 9 }
/-- The fields of a B-form word (R53). -/
def bFields (w : Word) : BForm := { g := w.extractLsb' 29 3, e := w.getLsbD 1, off := w.extractLsb' 8 21 }
/-- The fields of a 16-bit instruction (R48). -/
def hFields (h : Half) : HForm := { e := h.getLsbD 1, d := h.extractLsb' 6 5, s := h.extractLsb' 11 5 }
/-- FN as decoded: 0 for B- and I-form majors (R220). -/
def fnOf (w : Word) : BitVec 3 := if isB (majOf w) || isI (majOf w) then 0 else w.extractLsb' 26 3

/-- The raw instruction of a 32-bit word that is no prefix (R50-R53). -/
def rawOf (m : Mods) (w : Word) : Raw :=
  if isB (majOf w) then .b (majOf w) m (bFields w)
  else if isI (majOf w) then .i (majOf w) m (iFields w)
  else .r (majOf w) (w.extractLsb' 26 3) m (rFields w)

/-- The prefixes with X by its fields, none on a reserved value (R64). -/
def Pfx.mods (p : Pfx) : Option Mods :=
  match p.x with
  | none => some { rep := p.rep, x := none, k := p.k }
  | some x => (XMod.ofPayload x).map fun xm => { rep := p.rep, x := some xm, k := p.k }

/-- The instruction of a word under its prefixes. Where the prefixes are well formed and the instruction does not accept them, the record has
its own MAJ and FN (R47, R65; DEDUCED, log entry 127). -/
def decodeBody (p : Pfx) (w : Word) (len : Nat) : Decoded :=
  match p.mods with
  | none => .bad (majOf w) (fnOf w)
  | some m =>
    match Instr.ofRaw (rawOf m w) with
    | none => .bad (majOf w) (fnOf w)
    | some i => if i.wf then .ok i len else .bad (majOf w) (fnOf w)

/-- MAJ 0x3F (R55). -/
def prefixMaj : BitVec 6 := 0x3F

/-- One prefix word: the prefixes after it and the kinds that may still follow (`top` is one more than the largest kind
number still allowed: REP is 2, X is 1, K is 0, and they come in falling order, R59); none when it is malformed (R64). -/
def Pfx.add (p : Pfx) (top : Nat) (w : Word) : Option (Pfx × Nat) :=
  if w.getLsbD 1 then none
  else if top ≤ kindOf w then none
  else match kindOf w with
    | 0 => some ({ p with k := some (payloadOf w) }, 0)
    | 1 => some ({ p with x := some (payloadOf w) }, 1)
    | 2 => (Rep.ofPayload (payloadOf w)).map fun r => ({ p with rep := some r }, 2)
    | _ => none

/-- The words from the first halfword on, after `p` and `n` halfwords of prefixes. A prefix before a 16-bit instruction is
malformed (R64). -/
def decodeFrom (p : Pfx) (top n : Nat) : List Half → Decoded
  | [] => .short
  | [lo] => if lo.getLsbD 0 then .short else .bad prefixMaj 0
  | lo :: hi :: t =>
    if lo.getLsbD 0 then
      if majOf (hi ++ lo) == prefixMaj then
        match p.add top (hi ++ lo) with
        | none => .bad prefixMaj 0
        | some (p', top') => decodeFrom p' top' (n + 2) t
      else decodeBody p (hi ++ lo) (n + 2)
    else .bad prefixMaj 0

/-- Decoding of the halfwords at an address (R45): bit 0 of the first gives the length. -/
def decode (hs : List Half) : Decoded :=
  match hs with
  | [] => .short
  | h :: _ =>
    if h.getLsbD 0 then decodeFrom {} 3 0 hs
    else match Instr.ofRaw (.half (h.extractLsb' 2 4) (hFields h)) with
      | some i => .ok i 1
      | none => .bad 0 0

/-- The instruction of a row of spec/opcode_table.json: its first `nbits` bits, then zeros up to the longest instruction
(three prefixes and a word: eight halfwords). -/
def decodeTableWord (nbits w : Nat) : Option Instr :=
  match decode ((List.range 8).map fun k => BitVec.ofNat 16 ((w % 2 ^ nbits) >>> (16 * k))) with
  | .ok i _ => some i
  | _ => none

end Read

section Write

/-- The two halfwords of a word, the low one first (R45). -/
def halves (w : Word) : List Half := [w.extractLsb' 0 16, w.extractLsb' 16 16]

/-- A prefix word (R55). -/
def prefixWord (kind : BitVec 3) (p : BitVec 21) : Word :=
  (p.extractLsb' 18 3 ++ p.extractLsb' 0 18 ++ kind ++ prefixMaj ++ (0 : BitVec 1) ++ (1 : BitVec 1) : BitVec 32)

/-- An R-form word (R51). -/
def rWord (maj : BitVec 6) (fn : BitVec 3) (f : RForm) : Word :=
  (f.g ++ fn ++ f.b ++ f.a ++ f.d ++ maj ++ BitVec.ofBool f.e ++ (1 : BitVec 1) : BitVec 32)
/-- An I-form word (R52). -/
def iWord (maj : BitVec 6) (f : IForm) : Word :=
  (f.g ++ f.imm ++ f.a ++ f.d ++ maj ++ BitVec.ofBool f.e ++ (1 : BitVec 1) : BitVec 32)
/-- A B-form word (R53). -/
def bWord (maj : BitVec 6) (f : BForm) : Word :=
  (f.g ++ f.off ++ maj ++ BitVec.ofBool f.e ++ (1 : BitVec 1) : BitVec 32)
/-- A 16-bit instruction (R48). -/
def hHalf (op : BitVec 4) (f : HForm) : Half :=
  (f.s ++ f.d ++ op ++ BitVec.ofBool f.e ++ (0 : BitVec 1) : BitVec 16)

/-- The prefix halfwords, in the order REP, X, K (R59). -/
def Mods.words (m : Mods) : List Half :=
  (match m.rep with | some r => halves (prefixWord 2 r.payload) | none => []) ++
  ((match m.x with | some x => halves (prefixWord 1 x.payload) | none => []) ++
   (match m.k with | some k => halves (prefixWord 0 k) | none => []))

/-- The halfwords of an instruction; an event has none. -/
def encode (i : Instr) : List Half :=
  match i.raw with
  | .half op f => [hHalf op f]
  | .b maj m f => m.words ++ halves (bWord maj f)
  | .i maj m f => m.words ++ halves (iWord maj f)
  | .r maj fn m f => m.words ++ halves (rWord maj fn f)
  | .event => []

end Write

section Parts

/-- The prefixes of an instruction. -/
def Instr.mods (i : Instr) : Mods :=
  match i.raw with
  | .b _ m _ | .i _ m _ | .r _ _ m _ => m
  | _ => {}

/-- The E bit (R46). -/
def Instr.e (i : Instr) : Bool :=
  match i.raw with
  | .half _ f => f.e | .b _ _ f => f.e | .i _ _ f => f.e | .r _ _ _ f => f.e | .event => false

/-- The guard field (R50); the 16-bit form has guard p0 (R49). -/
def Instr.g (i : Instr) : BitVec 3 :=
  match i.raw with
  | .b _ _ f => f.g | .i _ _ f => f.g | .r _ _ _ f => f.g | _ => 0

/-- The major and FN of the 32-bit instruction a 16-bit op4 is the same as (R49). -/
def halfCode (op : BitVec 4) : Nat × Nat := match op.toNat with
  | 0 => (9, 0) | 1 => (5, 0) | 2 => (5, 1) | 3 => (5, 2) | 4 => (5, 3) | 5 => (5, 4) | 6 => (6, 0) | 7 => (6, 1)
  | 8 => (6, 2) | 9 => (7, 0) | 10 => (17, 0) | 11 => (17, 1) | 12 => (17, 2) | 13 => (17, 3) | 14 => (17, 4) | _ => (8, 0)

/-- MAJ and FN as the fault record takes them (R220); for the 16-bit form, those of the instruction it is the same as
(R49, log entry 11). -/
def Instr.code (i : Instr) : Nat × Nat :=
  match i.raw with
  | .half op _ => halfCode op
  | .b maj _ _ => (maj.toNat, 0)
  | .i maj _ _ => (maj.toNat, 0)
  | .r maj fn _ _ => (maj.toNat, fn.toNat)
  | .event => (0, 0)

/-- The instructions that end their run whatever their E bit says (R47, R105). -/
def Instr.endsRun (i : Instr) : Bool :=
  match i with
  | .hwait _ _ | .tagw _ _ | .vwait _ _ | .mwait _ _ | .vote _ _ | .yield _ _ | .phase _ _ | .mdone _ _ => true
  | _ => false

end Parts

end Sys2Proof
end

