-- ==== Sys2Proof/Machine/Operands.lean ====
section
/-!
DEFINITION. Operand forms: the register fields of an instruction at each repeat (R58, R155), which registers they name and
use (R37, R54), and the budget test over them (R101).
-/
namespace Sys2Proof

/-- Fields of an R-form instruction at repeat i (R58). -/
def RForm.at (f : RForm) (m : Mods) (i : Nat) : RForm :=
  match m.rep with
  | some r => { f with
      d := if r.sd then f.d + BitVec.ofNat 6 i else f.d
      a := if r.sa then f.a + BitVec.ofNat 6 i else f.a
      b := if r.sb then f.b + BitVec.ofNat 6 i else f.b }
  | none => f

/-- Fields of an I-form instruction at repeat i (R58). -/
def IForm.at (f : IForm) (m : Mods) (i : Nat) : IForm :=
  match m.rep with
  | some r => { f with
      d := if r.sd then f.d + BitVec.ofNat 6 i else f.d
      a := if r.sa then f.a + BitVec.ofNat 6 i else f.a }
  | none => f

/-- A register field stays inside the budget, every repeat included (R101). -/
def Fld.inBudget (k : Fld) (b : Nat × Nat × Nat) (f : BitVec 6) (steps : Bool) (cnt : Nat) : Bool :=
  let last := f.toNat + (if steps then cnt else 0)
  match k with
  | .v n => n == 0 || decide (last + n ≤ b.1)
  | .m => decide (last < b.2.1)
  | .c => decide (last < b.2.2)
  | _ => true

/-- Every register that an instruction names lies in the budget (R101). -/
def Instr.inBudget (i : Instr) (b : Nat × Nat × Nat) : Bool :=
  match i.raw with
  | .half _ f => decide (f.d.toNat < b.1) && (match i with | .iaddiW16 _ => true | _ => decide (f.s.toNat < b.1))
  | .r _ _ m f =>
    let cnt := (m.rep.map fun r => r.cnt.toNat).getD 0
    i.legal.d.inBudget b f.d (m.rep.any fun r => r.sd) cnt && i.legal.a.inBudget b f.a (m.rep.any fun r => r.sa) cnt &&
      i.legal.b.inBudget b f.b (m.rep.any fun r => r.sb) cnt
  | .i _ m f =>
    let cnt := (m.rep.map fun r => r.cnt.toNat).getD 0
    i.legal.d.inBudget b f.d (m.rep.any fun r => r.sd) cnt && i.legal.a.inBudget b f.a (m.rep.any fun r => r.sa) cnt
  | _ => true

/-- How an instruction uses the vector registers of its field D: it writes it, reads it, or both. -/
inductive DUse where
  | write | read | both
  deriving DecidableEq, Repr, Inhabited

/-- Field D's use (R37, R146, R163, R179, R187); a conversion that writes part of a word reads the rest (R162). -/
def Instr.dUse : Instr → DUse
  | .bfi _ _ | .imad _ _ | .fma _ _ | .dot2 _ _ | .dot4 _ _ | .dot8 _ _ | .cas _ _ | .pack _ _ => .both
  | .cvt m _ | .cvti m _ | .cvtf m _ => if (cvtSrc (m.clsField 1 4)).count < m.ty.count then .both else .write
  | .st _ _ | .sts _ _ => .read
  | _ => .write

/-- The registers of a field. -/
def Fld.regs (k : Fld) (f : BitVec 6) : List Nat :=
  match k with
  | .v n => (List.range n).map fun j => f.toNat + j
  | _ => []

/-- The vector registers an instruction reads and writes at repeat i, for the twin rules (R104); ACRD, ACWR and EMIT, whose registers
depend on a row word or a pen, take the rules in their own meanings. -/
def Instr.vUse (i : Instr) (rep : Nat) : List Nat × List Nat :=
  match i with
  | .acrd _ _ | .acwr _ _ | .emit _ _ => ([], [])
  | _ => match i.raw with
  | .half op f => match op.toNat with
    | 0 => ([f.s.toNat], [f.d.toNat])
    | 15 => ([f.d.toNat], [f.d.toNat])
    | _ => ([f.d.toNat, f.s.toNat], [f.d.toNat])
  | .r _ _ m f =>
    let f := f.at m rep
    let d := i.legal.d.regs f.d
    let ab := i.legal.a.regs f.a ++ i.legal.b.regs f.b
    match i.dUse with
    | .write => (ab, d)
    | .read => (d ++ ab, [])
    | .both => (d ++ ab, d)
  | .i _ m f =>
    let f := f.at m rep
    (i.legal.a.regs f.a, i.legal.d.regs f.d)
  | _ => ([], [])

/-- Field A as a vector register, where it names one. -/
def Instr.vA (i : Instr) : List Nat :=
  match i.raw with
  | .r _ _ _ f => i.legal.a.regs f.a
  | _ => []

/-- The instructions that have no effect and take no fault in a helper lane, so that they neither read nor write a register there; FOLD drops
the lane (R110). MST and CSPL store as ST does (R217, R309). -/
def Instr.sparesHelpers : Instr → Bool
  | .st _ _ | .mst _ _ | .sts _ _ | .cspl _ _ | .atomAdd _ _ | .atomMin _ _ | .atomMax _ _ | .atomAnd _ _ |
  .atomOr _ _ | .atomXor _ _ | .atomXchg _ _ | .atomFadd _ _ | .cas _ _ | .red _ _ | .blend _ _ | .emit _ _ | .pubv _ _ | .fold _ _ => true
  | _ => false

/-- The vector registers that the instruction reads or writes depend on more than its fields: a row word, a fold mask, a pen's
record size. -/
def Instr.anyV : Instr → Bool
  | .acrd _ _ | .acwr _ _ | .fold _ _ | .emit _ _ => true
  | _ => false

/-- The number of the last repeat. -/
def Instr.lastRep (i : Instr) : Nat := (i.mods.rep.map fun r => r.cnt.toNat).getD 0

end Sys2Proof
end

