-- ==== Sys2Proof/Machine/State.lean ====
section
/-!
DEFINITION. The state of the whole part as plain data, the reasons a step can stop, and the machine right after reset.
Registers of every class are lists with one accessor for reading (`rd`, a missing entry reads the default) and one for
writing (`wr`, which extends the list), so that every register has one home.
-/
namespace Sys2Proof.Machine
open Sys2Proof

section Lists

/-- Read entry i of a register list. -/
def rd {α : Type} [Inhabited α] (l : List α) (i : Nat) : α := l.getD i default

/-- Write entry i of a register list; a list that is too short is extended with default entries. -/
def wr {α : Type} [Inhabited α] : List α → Nat → α → List α
  | [], 0, x => [x]
  | [], n + 1, x => default :: wr [] n x
  | _ :: t, 0, x => x :: t
  | a :: t, n + 1, x => a :: wr t n x

/-- The image of a canonical byte list: addresses strictly rising, no entry 0, which is what an unlisted address reads as
(log entry 2). -/
def Memory.wf : List Host.Cell → Bool
  | [] => true
  | [(_, b)] => b != 0
  | (a, b) :: (a', b') :: t => b != 0 && decide (a < a') && Memory.wf ((a', b') :: t)

end Lists

/-- What the machine stops on. -/
inductive Fault where
  /-- A lane instruction is executed while no issue slot is issuing (`State.cur` is none). Raised by every meaning of an
  encoded instruction; `step` never calls one so. Safe: no run reaches it. -/
  | noIssuer
  deriving DecidableEq, Repr, Inhabited

/-- What the model has no meaning for. -/
inductive Refusal where
  /-- The instruction is not modelled: raised by its arm in Dispatch.lean only. Safe. -/
  | notModelled (mnemonic : String)
  deriving DecidableEq, Repr, Inhabited

section Lanes

/-- A moment register: mean and variance words (R199). -/
structure Moment where
  mean : Word := 0
  var  : Word := 0
  deriving DecidableEq, Repr, Inhabited

/-- A closure image: 64 words (R282). -/
abbrev Closure := List Word

/-- A hit identity (R429). -/
structure HitId where
  inst : Word := 0
  page : Nat := 0
  cidx : Nat := 0
  tri  : Nat := 0
  deriving DecidableEq, Repr, Inhabited

/-- The stepped-traversal query of a lane (R340, R429); `acc` of a query that is neither open nor ended is the committed hit (R339,
R341). One that HITACC has ended is no longer open, and its closest hit is still to be reported (R340, R342). -/
structure Query where
  isOpen : Bool := false
  pend   : Bool := false
  acc    : Bool := false
  last   : Bool := false
  ended  : Bool := false
  ray    : List Word := []
  hdr    : VAddr := 0
  mask   : Byte := 0
  cls    : BitVec 3 := 0
  lastId : HitId := {}
  pendId : HitId := {}
  accId  : HitId := {}
  /-- the exact t of the keys, as fractions; a save does not store them (R429) -/
  lastT  : Option (Int × Nat) := none
  pendT  : Option (Int × Nat) := none
  accT   : Option (Int × Nat) := none
  /-- the result and the attributes of the pending and the accepted or committed hit, as they were met; a save does not store
  them either -/
  pendW  : List Word := []
  accW   : List Word := []
  deriving DecidableEq, Repr, Inhabited

/-- A condition on which an instruction at its issue point waits; `Cond.holds` (Ops.lean) says what each means. -/
inductive Cond where
  | sqEmpty | sqRoom (n : Nat)
  /-- none of these stores stands in the group's store queue or unpropagated in its core's view (R77, R78) -/
  | storesGone (ids : List Nat)
  /-- no unpropagated write at all in the core's view (R74) -/
  | viewClean
  /-- no unpropagated write to these lines in the core's view (R76) -/
  | linesClean (lines : List Nat)
  | unowned (keys : List LineKey)
  /-- no line of these bytes of the context is owned (R17) -/
  | rangeFree (va : VAddr) (n : Nat)
  /-- the core's view can give the line: it holds a copy or may refresh it (R72) -/
  | readable (lines : List Nat)
  /-- every fabric operation of these entries has been delivered (R74) -/
  | fabricDone (ids : List Nat)
  | entriesDone (ids : List Nat)
  /-- these entries have completed all their line writes (R78) -/
  | writesDone (ids : List Nat)
  /-- the residency-feedback writes of the group's traversals numbered below `upto` have been taken, and propagated where `wide` (R78) -/
  | feedbackDone (wide : Bool) (upto : Nat)
  | copyRoom | tableRoom | recordRoom (mat : Bool) | holdRoom (lines : List (Nat × Nat))
  | tileFree (tiles : List Nat)
  /-- none of these lobe operations and traversals is in flight -/
  | flightsDone (ids : List Nat)
  | phaseOff (off : Nat) (parity : Bool)
  | tags (mask : BitVec 64) (any : Bool)
  | board (tile : Word) (ver : Nat)
  | twinFull (regs : List (Nat × Nat))
  | gathered
  | serialTaken (n : Nat)
  | resumed
  | never
  deriving DecidableEq, Repr, Inhabited

/-- What a lane's instruction waits for: the conditions, those of them that were taken when it first reached the issue
point, when, and the park threshold in cycles (R113). -/
structure WaitRec where
  conds : List Cond
  snap  : List Cond
  since : BitVec 64
  park  : Option Nat
  /-- the park threshold has passed (R113) -/
  expired : Bool := false
  deriving DecidableEq, Repr, Inhabited

/-- What the record of a lane's class 3 or class 9 fault would say of it, kept until its fault-queue entry is resolved: a denied replay takes a
protection fault with it (R220, R222). `code` stands where MAJ and FN are not the instruction's own (R259). -/
structure Owed where
  entry : Nat
  code  : Option (Nat × Nat) := none
  kind  : Nat
  info  : Nat
  va    : BitVec 64
  deriving DecidableEq, Repr, Inhabited

/-- One lane (R87, R141, R429). -/
structure Lane where
  present  : Bool := false
  exited   : Bool := false
  held     : Bool := false
  helper   : Bool := false
  trapHeld : Bool := false
  pc       : Code := 0
  meet     : Option Code := none
  preds    : BitVec 8 := 0
  v        : List Word := []
  s        : List Word := []
  m        : List Moment := []
  c        : List Closure := []
  fpctl    : Word := 0
  fpstat   : Word := 0
  mmode    : Word := 0
  mstat    : Word := 0
  rngPos   : BitVec 64 := 0
  repi     : Nat := 0
  query    : Query := {}
  /-- a merge of differing copies in a STRICT launch: the next instruction takes class 13 (R99) -/
  owesDiv  : Bool := false
  /-- the fault-queue entry was denied: the replay takes a protection fault (R222) -/
  denied   : Bool := false
  owed     : Option Owed := none
  wait     : Option WaitRec := none
  /-- its instruction has posted a traversal and leaves when every ray of it has landed (R339) -/
  flying   : Bool := false
  /-- the instruction at its PC has waited for a twin register to fill, in this repeat or an earlier one: it ends its run (R105) -/
  twinWait : Bool := false
  /-- block, group and lane as which a deterministic launch takes this lane's writes (R376) -/
  home     : Nat × Nat × Nat := (0, 0, 0)
  deriving DecidableEq, Repr, Inhabited

end Lanes

section Groups

/-- The words of a fault record: xfault words 0 to 3 and xfaultva (R220). -/
structure FaultRec where
  w0 : Word := 0
  w1 : Word := 0
  w2 : Word := 0
  w3 : Word := 0
  va : BitVec 64 := 0
  deriving DecidableEq, Repr, Inhabited

/-- One lane's bytes of a store-queue entry; `phys` is the physical address or the scratchpad offset. -/
structure SqSlot where
  lane : Nat
  addr : VAddr
  phys : Nat
  data : List Byte
  home : Nat × Nat × Nat := (0, 0, 0)
  deriving DecidableEq, Repr, Inhabited

/-- A store-queue entry (R67, R72, R428). -/
structure SqEntry where
  id      : Nat
  scratch : Bool
  size    : Nat
  order   : Order
  scope   : Scope
  cache   : Cache
  link    : Nat := 0
  /-- the entries with fabric operations that the group had posted before the store, where its release counts them (R74) -/
  fab     : List Nat := []
  slots   : List SqSlot
  deriving DecidableEq, Repr, Inhabited

/-- Trap state (R223): the lanes in the handler, the lanes of the path that took the fault, and the address after the
faulting instruction. -/
structure TrapState where
  mask : BitVec 32
  act  : BitVec 32
  next : Code
  deriving DecidableEq, Repr, Inhabited

/-- The writer of record of a twin register (R103). -/
inductive Writer where
  | producer | consumer | engine
  deriving DecidableEq, Repr, Inhabited

/-- One twin register of one lane: value, full bit, writer of record, and a write whose full bit waits for the stores before
it (R103, R198). -/
structure TwinReg where
  val    : Word := 0
  full   : Bool := false
  writer : Writer := .producer
  pend   : Option (Word × List Nat) := none
  deriving DecidableEq, Repr, Inhabited

/-- A muster handler in progress, with the frame captured at the MUSTER trap (R421, R422); the twin registers' part of it stands with the
pair (`Twin.frame`). -/
structure Handler where
  frame     : List Lane
  trap      : Option TrapState
  start     : BitVec 64
  runPos    : Nat
  sdiv      : Bool
  rngKey    : List Word
  rngStream : BitVec 64
  frec      : FaultRec
  /-- the handler is running; when it is not, the group waits to be saved -/
  running   : Bool
  deriving DecidableEq, Repr, Inhabited

/-- One group (R87-R109, R141, R173, R220, R425). -/
structure Group where
  consumer  : Bool := false
  lanes     : List Lane := []
  sq        : List SqEntry := []
  runPos    : Nat := 0
  sdiv      : Bool := false
  /-- for each slice, a lane of the path it presents (R90); `Group.keepPres` (Ops.lean) keeps it one while the path goes on there -/
  pres      : List Nat := [0, 4, 8, 12, 16, 20, 24, 28]
  /-- for each slice, the PC of the path that last ran there, from which it rotates (R91) -/
  ran       : List Code := []
  rngKey    : List Word := []
  rngStream : BitVec 64 := 0
  frec      : FaultRec := {}
  trap      : Option TrapState := none
  cycleHi   : Word := 0
  copies    : Nat := 0
  mats      : Nat := 0
  yielded   : Bool := false
  /-- the serial-phase number whose barrier this group has arrived at (R378) -/
  phased    : Option Nat := none
  slotNo    : Nat := 0
  /-- base of the group in its core's register file, in rows of 32 words, and the store register at which its closures begin: both are
  given at placement (R14, R282) -/
  rbase     : Nat := 0
  cbase     : Nat := 0
  /-- the slice that was granted last, for the rotation of R108. A group begins with 7, so that the rotation starts at slice 0: R108 does not
  say where it starts (DESIGN CHOICE, log entry 101) -/
  lastSlice : Nat := 7
  handler   : Option Handler := none
  /-- MDONE descriptor: the four bits and the resume code; saved groups have one (R228) -/
  desc      : Option (Word × Word) := none
  overran   : Bool := false
  /-- stopped by BKPT for the debugger (R226) -/
  broken    : Bool := false
  ended     : Bool := false
  deriving DecidableEq, Repr, Inhabited

end Groups

section Teams

/-- Where a team comes from (R385, R353, R405). -/
inductive Origin where
  | grid (x y z : Nat)
  | fold (entry : Nat) (key : Word)
  | pen (i : Nat)
  deriving DecidableEq, Repr, Inhabited

/-- Where a team stands (R385, R386, R391). -/
inductive Place where
  | queued
  | resident (core : Nat)
  | saved
  | ended
  deriving DecidableEq, Repr, Inhabited

/-- Whether and why a team leaves its core (R391, R420). -/
inductive Leave where
  | no | park | muster
  deriving DecidableEq, Repr, Inhabited

/-- A twin pair: the two group numbers and 8 registers for each lane (lane-major). `frame` is their part of the muster frames: what the
registers are but for what a muster handler of the pair has done to them since its trap (R421, R424, R425). -/
structure Twin where
  prod  : Nat
  cons  : Nat
  regs  : List TwinReg
  frame : Option (List TwinReg) := none
  deriving DecidableEq, Repr, Inhabited

/-- Where a run of bytes lies for an engine. -/
inductive Loc where
  | mem (phys : Nat) (va : VAddr)
  | sp (team off : Nat)
  | remote (device handle off : Nat)
  deriving DecidableEq, Repr, Inhabited

/-- One contiguous piece of a copy: later pieces stand over earlier ones (R239, R241, R243). -/
structure Seg where
  src : Loc
  dst : Loc
  len : Nat
  deriving DecidableEq, Repr, Inhabited

/-- A recorded arrival of one group at a collective (R234, R256): its pieces, or an empty slice (R233). -/
structure Arrival where
  group : Nat
  empty : Bool
  segs  : List Seg
  bytes : Nat
  /-- the operand words of the slice, from which a restored context makes its pieces again (R425, R430) -/
  ops   : List Word := []
  /-- block, group and lane as which a deterministic launch takes what the slice writes (R376) -/
  home  : Nat × Nat × Nat := (0, 0, 0)
  deriving DecidableEq, Repr, Inhabited

/-- What all slices of a collective agree on (R235, R256): FN, X and the completion word, or the block and its address. -/
structure Accord where
  fn    : Nat
  x     : Option XMod
  word  : Word
  block : List Word := []
  vaddr : VAddr := 0
  paddr : Nat := 0
  deriving DecidableEq, Repr, Inhabited

/-- An arrival record (R234, R256): the number of the collective, what the slices agree on once one is not empty, and the
arrivals. -/
structure ArrRec where
  number : Nat
  accord : Option Accord
  arrs   : List Arrival
  deriving DecidableEq, Repr, Inhabited

/-- An engine failure recorded for a team (R247, R259). -/
structure EngFault where
  id     : Nat
  group  : Option Nat
  tag    : Option Nat
  hurdle : Option Nat
  cls    : Nat
  maj    : Nat
  fn     : Nat
  kind   : Nat
  info   : Nat
  va     : VAddr
  scope  : Scope
  /-- the matrix entry that is posted again after a class 9 resolution (R259, R457) -/
  entry  : Option Nat
  /-- on a hurdle: the phase in which the completion was counted has flipped (R194, R247) -/
  flipped : Bool := false
  deriving DecidableEq, Repr, Inhabited

/-- A PUSHW that arrived before its target was placed (R244): grid position, group, first register, and for each register
the words of the 32 lanes. -/
structure Push where
  x     : Nat
  y     : Nat
  z     : Nat
  group : Nat
  r0    : Nat
  words : List (List Word)
  deriving DecidableEq, Repr, Inhabited

/-- A completion that a wait on a tag or hurdle observes: its scope; on a hurdle, whether its phase has flipped (R83, R194). -/
structure Seen where
  tag     : Option Nat
  hurdle  : Option Nat
  scope   : Scope
  flipped : Bool := false
  deriving DecidableEq, Repr, Inhabited

/-- One team (R100, R191, R195, R386-R391, R425). -/
structure Team where
  id        : Nat
  vdev      : Nat
  launch    : Nat
  origin    : Origin
  place     : Place := .queued
  groups    : List Group := []
  sp        : List Host.Cell := []
  /-- where its carve-out begins in the core's scratchpad, in bytes: given at placement (R14, R386) -/
  spBase    : Nat := 0
  tags      : BitVec 64 := 0
  counts    : List Nat := []
  seen      : List Seen := []
  copyRecs  : List ArrRec := []
  matRecs   : List ArrRec := []
  efaults   : List EngFault := []
  twins     : List Twin := []
  musterPc  : BitVec 64 := 0
  budget    : Word := 0
  /-- what the team's tiles were when another owner claimed them, or at a move (R261): tile and its words -/
  images    : List (Nat × List Word) := []
  /-- residency order (R108), and the order in which it was queued (R385) -/
  resOrder  : Nat := 0
  queuedAt  : Nat := 0
  /-- teams placed in the partition since it was queued or eligible, and the core reserved for it once it is aged (R390) -/
  age       : Nat := 0
  reserved  : Option Nat := none
  eligible  : Bool := false
  atHead    : Bool := false
  /-- it lost its core to a lender that took a cluster back, and waits for another (R436) -/
  reclaimed : Bool := false
  hasArea   : Bool := false
  started   : Bool := false
  /-- the core that it was saved from (R80) -/
  lastCore  : Nat := 0
  /-- the team is to leave its core: parked (R113, R222) or mustered (R420) -/
  leaving   : Leave := .no
  /-- the fault-queue entries whose resolution wakes the team: one for each of its groups that has faulted (R222) -/
  wakeEntries : List Nat := []
  deriving DecidableEq, Repr, Inhabited

end Teams

section Launches

/-- The launch record by its fields (R381). -/
structure LaunchRec where
  code    : BitVec 64 := 0
  trape   : Word := 0x80000000
  prio    : Nat := 0
  det     : Bool := false
  strict  : Bool := false
  drove   : Bool := false
  errdep  : Bool := false
  notify  : Bool := false
  gm1     : Nat := 0
  lm1     : Nat := 0
  roles   : BitVec 8 := 0
  tags    : Nat := 0
  scr     : Nat := 0
  pv      : Nat := 0
  pm      : Nat := 0
  pc      : Nat := 0
  cv      : Nat := 0
  cm      : Nat := 0
  cc      : Nat := 0
  tscr    : Nat := 0
  twins   : List (BitVec 8) := []
  gx      : Nat := 1
  gy      : Nat := 1
  gz      : Nat := 1
  deps    : List Nat := []
  drvid   : Nat := 0
  drvn    : Nat := 1
  w       : Nat := 1
  h       : Nat := 1
  spat    : Nat := 0
  mbudget : Word := 0
  mpc     : BitVec 64 := 0
  foldt   : BitVec 64 := 0
  fovf    : BitVec 64 := 0
  fovfsz  : Nat := 0
  pent    : BitVec 64 := 0
  boardt  : BitVec 64 := 0
  ring    : BitVec 64 := 0
  branda  : BitVec 64 := 0
  brandsz : Nat := 0
  seed    : List Word := []
  drvlist : BitVec 64 := 0
  args    : List Word := []
  rsvd    : Bool := false
  deriving DecidableEq, Repr, Inhabited

/-- A spilled lane in a fold bin: its carried registers with their numbers as MASK stood at the spill, its place in the overflow
area when it lies there, and the block, group and lane it acts as (R350, R352, R376). -/
structure FoldRec where
  words : List Word
  regs  : List Nat
  home  : Nat × Nat × Nat
  ovf   : Option Nat
  deriving DecidableEq, Repr, Inhabited

/-- A fold bin: fold-table entry, key and records in arrival order (R350-R352). -/
structure Bin where
  entry : Nat
  key   : Word
  recs  : List FoldRec
  deriving DecidableEq, Repr, Inhabited

/-- A pen record: its bytes, the board, tile and subscription that delivered it, and its place in the overflow area when it lies
there (R403, R409). -/
structure PenRec where
  data : List Byte
  src  : Option (Nat × Nat × Nat)
  ovf  : Option Nat
  deriving DecidableEq, Repr, Inhabited

/-- The state of one subscription of a tile (R402). -/
structure SubState where
  dver  : Nat := 0
  aver  : Nat := 0
  dqual : Word := 0x7F800000
  deriving DecidableEq, Repr, Inhabited

/-- A board entry that has left its reset value (R402). -/
structure Tile where
  board   : Nat
  tile    : Nat
  ver     : Nat := 0
  final   : Bool := false
  stopped : Bool := false
  qual    : Word := 0x7F800000
  data    : BitVec 64 := 0
  prod    : Word := 0
  subs    : List SubState := []
  deriving DecidableEq, Repr, Inhabited

/-- The brand of a line in a deterministic launch (R376): the owner block (none: declared shared with no owner), whether it
is shared, the blocks whose BRAND.PRIV and BRAND.SHR declare it, the phase image, and, where the brand has spilled, its place in the brand area
in entries of 16 bytes. -/
structure Brand where
  line     : Nat
  owner    : Option Nat
  shared   : Bool
  declOwn  : List Nat
  declShr  : List Nat
  image    : List Byte
  slot     : Option Nat := none
  deriving DecidableEq, Repr, Inhabited

/-- An atomic's operation, by the FN of R186; CAS carries the compared value (R187). -/
inductive AtomOp where
  | add (s : Bool) | min (s : Bool) | max (s : Bool) | and | or | xor | xchg | fadd (t : Ty) | cas (old : Nat)
  deriving DecidableEq, Repr, Inhabited

/-- A deferred access (R86): bytes to write, with whether they end a store step that covers their whole line (R364), an atomic's operation
with its operand, or a blend with its source. -/
inductive DefOp where
  | write (cells : List Host.Cell) (whole : Bool)
  | atom (addr size : Nat) (op : AtomOp) (b : Nat)
  | blend (addr fmt eq : Nat) (src : List Word)
  deriving DecidableEq, Repr, Inhabited

/-- A deferred access with the key that orders it in its block's buffer. -/
structure Deferred where
  key : Nat × Nat × Nat
  seq : Nat
  op  : DefOp
  deriving DecidableEq, Repr, Inhabited

/-- A held ordered blend (R369). -/
structure HeldBlend where
  token : Nat
  seq   : Nat
  /-- the core that issued it: the step updates that core's copy (R76) -/
  core  : Nat
  home  : Nat × Nat × Nat
  addr  : Nat
  fmt   : Nat
  eq    : Nat
  src   : List Word
  deriving DecidableEq, Repr, Inhabited

/-- A drove launch's stage at a member and at the leader (R392-R394). -/
structure Drove where
  members : List Nat
  rank    : Nat
  leaderVdev : Nat
  gen     : Option Nat := none
  acks    : List (Nat × Nat) := []
  refused : Bool := false
  started : Bool := false
  failed  : Bool := false
  deriving DecidableEq, Repr, Inhabited

/-- A launch: its record, number, progress, and what belongs to it in the commons and the shepherds (R381-R389, R398). -/
structure Launch where
  key      : Nat
  num      : Nat
  vdev     : Nat
  lrec     : LaunchRec
  host     : Bool
  conn     : Nat := 0
  corr     : Nat := 0
  nextTeam : Nat := 0
  formSeq  : Nat := 0
  errRec   : Option FaultRec := none
  /-- the status with which the shepherd or management ends the launch (R383) -/
  ending   : Option Nat := none
  /-- teams placed in the partition since the launch became ready, and the core reserved for its next grid team (R390) -/
  age      : Nat := 0
  reserved : Option Nat := none
  /-- the tables as read at acceptance; a use reads this or memory until INVD (R229) -/
  foldTab  : List (List Byte) := []
  /-- the last valid copy of each fold entry (R349) -/
  foldGood : List (List Byte) := []
  penTab   : List (List Byte) := []
  /-- which pens the last use of the table found in force: what is owed to one that is so again is retried (R409) -/
  penLive  : List Bool := []
  boardTab : List (List Byte) := []
  bins     : List Bin := []
  pens     : List (List PenRec) := []
  tiles    : List Tile := []
  brands   : List Brand := []
  dbs      : List Deferred := []
  phases   : Nat := 0
  finalPhase : Bool := false
  blends   : List HeldBlend := []
  pushes   : List Push := []
  ordered  : Bool := false
  /-- the keys of the residency filter (R326, R430) -/
  filter   : List (Nat × Nat) := []
  drv      : Option Drove := none
  deriving DecidableEq, Repr, Inhabited

end Launches

section Engines

/-- What holds a matrix request back that a class 9 fault has stopped (R259, R457): its failure is recorded, or has been queued
under a number, or has been resolved and the request waits to be posted again. -/
inductive Hold where
  | no | recorded | queued (entry : Nat) | resolved
  deriving DecidableEq, Repr, Inhabited

/-- A matrix request (R258-R260, R269-R274): its block as read at issue with its address and physical place, the live rows still
to be computed, and the row progress it was posted with. -/
structure MatReq where
  fn      : Nat
  block   : List Word
  vaddr   : VAddr
  paddr   : Nat
  rows    : List Nat
  rprog   : Nat
  /-- the tiles have been claimed (R261); a pass has been granted (R252) -/
  claimed : Bool := false
  granted : Bool := false
  /-- virtual pages that a pass has touched, with their physical pages (R257) -/
  trans   : List (Nat × Nat) := []
  /-- the fault that has stopped a pass: class and address (R258) -/
  stop    : Option (Nat × VAddr) := none
  /-- the row progress still to be written to the block (R258, R260) -/
  rp      : Option Nat := none
  hold    : Hold := .no
  deriving DecidableEq, Repr, Inhabited

/-- An ACST entry (R279): its tile, format and columns, for each row the places of its bytes, the next row, and the bytes of earlier row
blocks that stand to be written. -/
structure AcstReq where
  tile    : Nat
  fmt     : Nat
  cols    : Nat
  rows    : List (List (Loc × Nat))
  next    : Nat := 0
  cells   : List Host.Cell := []
  claimed : Bool := false
  granted : Bool := false
  deriving DecidableEq, Repr, Inhabited

/-- What an engine entry does. -/
inductive Work where
  | copy (fn : Nat) (segs : List Seg) (bytes : Nat)
  | push (x y z group r0 n src : Nat)
  | mat (r : MatReq)
  | acst (r : AcstReq)
  deriving DecidableEq, Repr, Inhabited

/-- A posted engine entry (R67, R81): `reads` and `writes` are the lines still to be read and written, `buf` what has been
read, `maps` its translations kept from issue. -/
structure Entry where
  id      : Nat
  copyEng : Bool
  unit    : Nat
  team    : Nat
  /-- the groups that posted it, the poster first -/
  groups  : List Nat
  home    : Nat × Nat × Nat
  scope   : Scope
  cache   : Cache := .dflt
  tag     : Option Nat
  hurdle  : Option Nat
  work    : Work
  reads   : List LineKey := []
  writes  : List LineKey := []
  buf     : List (LineKey × List Byte) := []
  /-- bytes that have come from a remote window, by where they begin there (R245); none where the part refused them (R247) -/
  rbuf    : List (Loc × List Byte) := []
  /-- source lines that could not be read (R247) -/
  failed  : List LineKey := []
  /-- the first failure: class, KIND and address (R247) -/
  fail    : Option (Nat × Nat × VAddr) := none
  age     : Nat := 0
  agedAt  : Nat := 0
  prio    : Nat := 0
  deriving DecidableEq, Repr, Inhabited

/-- What a traversal has come to: the words and the query that its lane takes, or the fault that its ray met (R328, R338). -/
structure Landing where
  words : List Word := []
  query : Query := {}
  fault : Option (Nat × VAddr) := none
  deriving DecidableEq, Repr, Inhabited

/-- A lobe operation, or the traversal of one lane's ray, in flight (R27, R328): the splinter of the instruction, what was captured
at issue, and what the engine has read. -/
structure Flight where
  id     : Nat
  /-- the rays of one instruction share a batch -/
  batch  : Nat
  vis    : Bool
  team   : Nat
  group  : Nat
  core   : Nat
  act    : BitVec 32
  pc     : Code
  len    : Nat
  instr  : Instr
  /-- operands by lane -/
  args   : List (Nat × List Word)
  /-- lobe operations: the tables' translations kept from issue -/
  maps   : List (VAddr × Nat) := []
  /-- destination register and count -/
  dest   : Nat × Nat
  /-- traversals: the query as it stood at issue -/
  query  : Query := {}
  /-- traversals: the lines read so far (R335); one that could not be read is held as one byte, its class -/
  lines  : List (Nat × List Byte) := []
  /-- traversals: the keys offered so far (R325, R335) -/
  offered : List (VAddr × Nat) := []
  landing : Option Landing := none
  deriving DecidableEq, Repr, Inhabited

/-- A fabric operation in flight (R85, R245): a put of bytes to, or a get of bytes from, a window of a remote part. -/
structure FabOp where
  id     : Nat
  team   : Nat
  group  : Nat
  entry  : Nat
  device : Nat
  handle : Nat
  off    : Nat
  get    : Bool
  len    : Nat
  data   : List Byte
  deriving DecidableEq, Repr, Inhabited

/-- One write in a core's view that has not propagated: the store it belongs to, whose it is, and its bytes by physical
address. -/
structure CvWrite where
  id    : Nat
  team  : Nat
  group : Nat
  home  : Nat × Nat × Nat
  cells : List Host.Cell
  /-- a residency-feedback write of the VIS domain, with the traversal that caused it (R335) -/
  vis   : Option Nat := none
  /-- the store step that it is the last part of covers the whole line (R364) -/
  whole : Bool := false
  deriving DecidableEq, Repr, Inhabited

/-- A line of a core's view: the copy, and the unpropagated writes oldest first (R67, R72). -/
structure CvLine where
  line : Nat
  copy : Option (List Byte) := none
  pend : List CvWrite := []
  deriving DecidableEq, Repr, Inhabited

/-- What a slot has been granted to: team, group and the slice that leads the splinter (R107). -/
structure Grant where
  team  : Nat
  group : Nat
  slice : Nat
  deriving DecidableEq, Repr, Inhabited

/-- A core (R67, R107, R299, R387). -/
structure Core where
  id    : Nat
  cv    : List CvLine := []
  lc    : List (Nat × List Byte) := []
  wc    : List (Nat × VAddr × List Byte) := []
  slots : List (Option Grant) := [none, none, none, none]
  last  : List (Option (Nat × Nat)) := [none, none, none, none]
  cycle : BitVec 64 := 0
  scr   : Nat := 0
  deriving DecidableEq, Repr, Inhabited

/-- An accumulator tile that is held: cluster, tile, owner team and 128 x 128 words row by row (R261); an unlisted tile is
free. -/
structure TileHold where
  cluster : Nat
  tile    : Nat
  team    : Nat
  words   : List Word
  deriving DecidableEq, Repr, Inhabited

/-- A reserved residency-feedback write (R335). -/
structure Feedback where
  slot  : Nat
  vdev  : Nat
  team  : Nat
  group : Nat
  /-- the core that traces: the write enters its view; and the traversal that caused it -/
  core  : Nat
  flight : Nat
  /-- block, group and lane as which a deterministic launch takes the write (R376) -/
  home  : Nat × Nat × Nat := (0, 0, 0)
  addr  : Nat
  data  : List Byte
  deriving DecidableEq, Repr, Inhabited

end Engines

section Hub

/-- A fault-queue entry (R222). -/
structure FqEntry where
  num    : Nat
  team   : Nat
  group  : Nat
  frec   : FaultRec
  open_  : Bool
  deriving DecidableEq, Repr, Inhabited

/-- A window of a virtual device (R443). -/
structure Window where
  handle : Nat
  body   : WinBody
  deriving DecidableEq, Repr, Inhabited

/-- A message from the part (R442). -/
structure OutMsg where
  conn   : Nat
  vdev   : Nat
  type   : Nat
  seq    : Nat := 0
  corr   : Nat := 0
  status : Nat := 0
  body   : List Byte := []
  deriving DecidableEq, Repr, Inhabited

/-- A virtual device (R437, R438, R446). -/
structure Vdev where
  id       : Nat
  cfg      : VdevCfg
  launchNo : Nat := 1
  gens     : List Nat := []
  wins     : List Window := []
  attest   : List Byte := []
  attestN  : Nat := 0
  faultq   : List FqEntry := []
  fqNum    : Nat := 1
  waiting  : List OutMsg := []
  exec     : List Nat := []
  done     : List (Nat × Nat) := []
  debugger : Bool := false
  sched    : Bool := true
  /-- copies of drove launches that the device has refused, by DRVID and CORR (R394) -/
  refused  : List (Nat × Nat) := []
  /-- the device has been deleted, and its launches have still to end (R438, R445) -/
  ending   : Bool := false
  deriving DecidableEq, Repr, Inhabited

/-- A line of a window access that is still to be taken (R85, R443): its window offset, physical address and bytes. -/
structure XferOp where
  id   : Nat
  off  : Nat
  phys : Nat
  len  : Nat
  data : List Byte
  deriving DecidableEq, Repr, Inhabited

/-- A WWRITE or WREAD in progress (R443, R445): the lines left, what a read has gathered, and whether a line failed. -/
structure Xfer where
  write : Bool
  vdev  : Nat
  corr  : Nat
  ops   : List XferOp
  got   : List (Nat × List Byte) := []
  bad   : Bool := false
  deriving DecidableEq, Repr, Inhabited

/-- A connection (R441, R445): the next SEQ in each direction, the window access in progress, and the part of a code segment that has
come, with its virtual device and the CORR of its last message (R446), and the part of a team context that has come, with its team (R430,
R440). -/
structure Conn where
  id      : Nat
  key     : PeerKey
  nextIn  : Nat := 0
  nextOut : Nat := 0
  xfer    : Option Xfer := none
  seg     : List Byte := []
  segVdev : Nat := 0
  segCorr : Nat := 0
  img     : List Byte := []
  imgTeam : Nat := 0
  /-- messages of the part in flight, and those that wait until fewer than 1024 are (R440) -/
  flying  : Nat := 0
  held    : List OutMsg := []
  deriving DecidableEq, Repr, Inhabited

/-- An entry of the event recorder (R453). -/
structure Event where
  seq   : Nat
  unit  : Nat
  cycle : BitVec 64
  cls   : Nat
  vdev  : Option Nat
  data  : List Word
  deriving DecidableEq, Repr, Inhabited

/-- Who owns a page, or whose key it is that Akgium holds: a partition-table entry (R432), the firmware (R448, R449), a virtual device or
management, whose keys it derives for their connections (R440, R441, R448). -/
inductive KeyOwner where
  | part (i : Nat)
  | firmware
  | vdev (v : Nat)
  | management
  deriving DecidableEq, Repr, Inhabited

/-- A cluster that is lent: the borrower and the lender are partition-table entries (R435). -/
structure Loan where
  cluster  : Nat
  borrower : Nat
  lender   : Nat
  deriving DecidableEq, Repr, Inhabited

/-- How far the part has come up, in the order of bring-up (R452); or it is in recovery (R451), or core power has been removed. -/
inductive Power where
  | rails | bootCode | akgium | firmware | ports | memory | running | recovery | off
  deriving DecidableEq, Repr, Inhabited

end Hub

/-- How the issue of an instruction has ended. -/
inductive Out where
  | pending | done | diverged | waiting | faulted | ended
  deriving DecidableEq, Repr, Inhabited

/-- The issue in progress: whose instruction, its lanes, its address and length, the repeat, and how it has ended. -/
structure Cur where
  core  : Nat
  slot  : Nat
  team  : Nat
  group : Nat
  act   : BitVec 32
  pc    : Code
  len   : Nat
  rep   : Nat
  /-- the instruction is a twin read that has waited: it ends its run (R105) -/
  twinWaited : Bool := false
  out   : Out := .pending
  deriving DecidableEq, Repr, Inhabited

/-- The whole part. -/
structure State where
  cores    : List Core
  teams    : List Team
  launches : List Launch
  mem      : List Host.Cell
  entries  : List Entry
  tiles    : List TileHold
  flights  : List Flight
  fq       : List FabOp
  errLines : List Nat
  errPages : List Nat
  retired  : List Nat
  decoded  : List (Nat × List Bool)
  fmtRegs  : List FmtReg
  owner    : List (Nat × KeyOwner)
  vdevs    : List Vdev
  parts    : List (Nat × Partition)
  lent     : List Loan
  conns    : List Conn
  outbox   : List OutMsg
  feedback : List Feedback
  events   : List Event
  eventSeq : Nat
  /-- events that have occurred and have not reached the recorder yet, in the order in which they occurred; they have no SEQ yet (R454) -/
  noted    : List Event
  /-- the cycle counters of the units other than cores, each its own, by unit number (R2, R453, R454); an unlisted one stands at 0 -/
  clocks   : List (Nat × BitVec 64)
  /-- correctable errors that each slice has counted (R363); an unlisted slice has counted none -/
  errCounts : List (Nat × Nat)
  /-- the 512-bit keys that Akgium has generated and holds (R448, R449) -/
  keys     : List (KeyOwner × BitVec 512)
  /-- teams that have been placed, for the order of residency (R108, R436) -/
  resSeq   : Nat
  portsUp  : BitVec 16
  power    : Power
  secVer   : Nat
  minVer   : Nat
  image    : List Byte
  recBuf   : List Byte
  nextId   : Nat
  agenda   : List Move
  tick     : Nat
  cur      : Option Cur
  deriving DecidableEq, Repr, Inhabited

/-- The part right after reset (R452, R453 and the reset values of INVENTORY.md): nothing runs, nothing is mapped. -/
def State.reset : State where
  cores := []
  teams := []
  launches := []
  mem := []
  entries := []
  tiles := []
  flights := []
  fq := []
  errLines := []
  errPages := []
  retired := []
  decoded := []
  fmtRegs := []
  owner := []
  vdevs := []
  parts := []
  lent := []
  conns := []
  outbox := []
  feedback := []
  events := []
  eventSeq := 0
  noted := []
  clocks := []
  errCounts := []
  keys := []
  resSeq := 0
  portsUp := 0xFFFF
  power := .rails
  secVer := 0
  minVer := 0
  image := []
  recBuf := []
  nextId := 1
  agenda := []
  tick := 0
  cur := none

end Sys2Proof.Machine
end

