-- ==== Sys2Proof/Machine/Ops.lean ====
section
/-!
DEFINITION. The named operations over the state that every meaning uses: bytes of memory, the look-ups of teams, groups and
lanes, register reads and writes, PC movement (R87-R99), the ends of runs (R105-R108), taking a fault and entering the trap
handler (R219-R224), and the frame in which a lane instruction issues.
-/
namespace Sys2Proof.Machine
open Sys2Proof

/-- The outcome of a step of this machine. -/
abbrev Res := Host.Outcome State Fault Refusal

section Bytes

/-- A byte of a canonical byte list; an unlisted address reads as 0 (log entry 2). -/
def Memory.get : List Host.Cell → Nat → Byte
  | [], _ => 0
  | (k, b) :: t, a => if k = a then b else if a < k then 0 else Memory.get t a

/-- Put a byte in front of a canonical tail: a zero is not listed. -/
def Memory.cons (a : Nat) (b : Byte) (t : List Host.Cell) : List Host.Cell := if b = 0 then t else (a, b) :: t

/-- Write one byte, keeping the canonical form. -/
def Memory.set : List Host.Cell → Nat → Byte → List Host.Cell
  | [], a, b => Memory.cons a b []
  | (k, c) :: t, a, b =>
    if k = a then Memory.cons a b t
    else if a < k then Memory.cons a b ((k, c) :: t)
    else (k, c) :: Memory.set t a b

/-- Write a list of (address, byte), the last one standing. -/
def Memory.setAll (m : List Host.Cell) (cs : List Host.Cell) : List Host.Cell :=
  cs.foldl (fun m c => Memory.set m c.1 c.2) m

/-- n bytes from an address on. -/
def Memory.read (m : List Host.Cell) (a n : Nat) : List Byte := (List.range n).map fun i => Memory.get m (a + i)

/-- Bytes at consecutive addresses as cells. -/
def cellsAt (a : Nat) (bs : List Byte) : List Host.Cell := (List.range bs.length).zip bs |>.map fun p => (a + p.1, p.2)

/-- The number of a little-endian byte list (00_scope). -/
def leNat : List Byte → Nat
  | [] => 0
  | b :: t => b.toNat + 256 * leNat t

/-- n little-endian bytes of a number. -/
def leBytes : Nat → Nat → List Byte
  | 0, _ => []
  | n + 1, x => BitVec.ofNat 8 x :: leBytes n (x / 256)

/-- The words of a byte list, low byte first; a last partial word is filled with zeros. -/
def wordsOf : Nat → List Byte → List Word
  | 0, _ => []
  | n + 1, bs => BitVec.ofNat 32 (leNat (bs.take 4)) :: wordsOf n (bs.drop 4)

/-- The bytes of words. -/
def bytesOf (ws : List Word) : List Byte := ws.flatMap fun w => leBytes 4 w.toNat

/-- Line number of a physical address (R68). -/
def lineOf (a : Nat) : Nat := a / 128

end Bytes

section Sorting

/-- Insert into a sorted list, after what stands equal to it. -/
def insertBy {α : Type} (before : α → α → Bool) (x : α) : List α → List α
  | [] => [x]
  | a :: t => if before x a then x :: a :: t else a :: insertBy before x t
/-- A stable sort; `before` is the strict order. -/
def sortBy {α : Type} (before : α → α → Bool) (l : List α) : List α := l.foldl (fun acc x => insertBy before x acc) []

end Sorting

section Bits

/-- Lane l of a mask. -/
def inMask (m : BitVec 32) (l : Nat) : Bool := m.getLsbD l
/-- The lanes of a mask in increasing order. -/
def lanesOf (m : BitVec 32) : List Nat := (List.range 32).filter (inMask m)
/-- The mask of the lanes that satisfy p. -/
def maskOf (p : Nat → Bool) : BitVec 32 :=
  (List.range 32).foldl (fun m l => if p l then m ||| (1#32 <<< l) else m) 0
/-- The lowest lane of a mask, 0 when there is none. -/
def lowest (m : BitVec 32) : Nat := (lanesOf m).headD 0
/-- Bits [lo+n-1:lo] of a word as a number. -/
def bits (w : Word) (lo n : Nat) : Nat := (w.toNat >>> lo) % 2 ^ n
/-- A 64-bit value from two registers. -/
def pair (lo hi : Word) : BitVec 64 := hi ++ lo

end Bits

section Lookup

/-- The team of an id. -/
def State.team? (s : State) (id : Nat) : Option Team := s.teams.find? fun t => t.id == id
/-- Apply f to the team of an id. -/
def State.modTeam (s : State) (id : Nat) (f : Team → Team) : State :=
  { s with teams := s.teams.map fun t => if t.id == id then f t else t }
/-- The group g of a team; a group that does not exist reads as the default one, which has no present lane. -/
def State.group (s : State) (tm g : Nat) : Group :=
  match s.team? tm with
  | some t => rd t.groups g
  | none => default
/-- Apply f to group g of a team. -/
def Team.modGroup (t : Team) (g : Nat) (f : Group → Group) : Team := { t with groups := wr t.groups g (f (rd t.groups g)) }
/-- Apply f to group g of team tm. -/
def State.modGroup (s : State) (tm g : Nat) (f : Group → Group) : State := s.modTeam tm fun t => t.modGroup g f
/-- Lane l of a group. -/
def State.lane (s : State) (tm g l : Nat) : Lane := rd (s.group tm g).lanes l
/-- Apply f to every lane of a mask. -/
def Group.mapLanes (gr : Group) (m : BitVec 32) (f : Nat → Lane → Lane) : Group :=
  { gr with lanes := (List.range 32).map fun l => if inMask m l then f l (rd gr.lanes l) else rd gr.lanes l }
/-- Apply f to every lane of a mask of a group. -/
def State.mapLanes (s : State) (tm g : Nat) (m : BitVec 32) (f : Nat → Lane → Lane) : State :=
  s.modGroup tm g fun gr => gr.mapLanes m f

/-- The launch of a key. -/
def State.launch? (s : State) (key : Nat) : Option Launch := s.launches.find? fun l => l.key == key
/-- Apply f to the launch of a key. -/
def State.modLaunch (s : State) (key : Nat) (f : Launch → Launch) : State :=
  { s with launches := s.launches.map fun l => if l.key == key then f l else l }
/-- The launch of a team. -/
def State.launchOf (s : State) (tm : Nat) : Launch :=
  match s.team? tm with
  | some t => (s.launch? t.launch).getD default
  | none => default

/-- A core; one that nothing has touched is in its reset state. -/
def State.core (s : State) (c : Nat) : Core := (s.cores.find? fun x => x.id == c).getD { id := c }
/-- Put a core's new state. -/
def State.setCore (s : State) (k : Core) : State :=
  if s.cores.any (fun x => x.id == k.id) then { s with cores := s.cores.map fun x => if x.id == k.id then k else x }
  else { s with cores := k :: s.cores }
/-- Apply f to a core. -/
def State.modCore (s : State) (c : Nat) (f : Core → Core) : State := s.setCore (f (s.core c))

/-- The virtual device of a number. -/
def State.vdev? (s : State) (v : Nat) : Option Vdev := s.vdevs.find? fun d => d.id == v
/-- Apply f to a virtual device. -/
def State.modVdev (s : State) (v : Nat) (f : Vdev → Vdev) : State :=
  { s with vdevs := s.vdevs.map fun d => if d.id == v then f d else d }
/-- The virtual device of a team. -/
def State.vdevOf (s : State) (tm : Nat) : Nat := match s.team? tm with | some t => t.vdev | none => 0
/-- The core on which a team is resident. -/
def Team.core? (t : Team) : Option Nat := match t.place with | .resident c => some c | _ => none
/-- A choice that the spec leaves open, by its purpose and number within a step. -/
def State.flip (s : State) (purpose i : Nat) : Bool := Config.coin (s.tick * 2 ^ 24 + purpose * 2 ^ 20 + i)
/-- The next fresh identifier, and the state that has used it. -/
def State.fresh (s : State) : Nat × State := (s.nextId, { s with nextId := s.nextId + 1 })
/-- Cluster of a core and die of a core (R14). -/
def clusterOf (core : Nat) : Nat := core / 4
def dieOf (core : Nat) : Nat := core / 160

/-- The part's device number as the fields that carry it show it: 24 bits whose upper three are zero (R6). -/
def deviceNo : Nat := Config.deviceNumber.toNat
/-- The HBM4E stack of a physical address: granules of 4 KiB over the twelve stacks (R13). -/
def stackOf (a : Nat) : Nat := a / 4096 % 12
/-- The compute die of a stack (R13). -/
def dieOfStack (st : Nat) : Nat := st / 3
/-- The home slice of line x, 0 to 255 (R3, R360): an HBM4E line lies on one of the 64 slices of the die whose stack holds it,
every other line on any slice. That die d has slices 64d to 64d + 63 is DEDUCED from the counts of R3 (log entry 82). -/
def homeSlice (x : Nat) : Nat :=
  if 128 * x < 0x00C000000000 then 64 * dieOfStack (stackOf (128 * x)) + Config.sliceChoice x % 64 else Config.sliceChoice x % 256

end Lookup

section Paths

/-- A lane that may issue: present, not exited, not held, not held by a trap, its instruction not in flight. -/
def Lane.live (l : Lane) : Bool := l.present && !l.exited && !l.held && !l.trapHeld && !l.flying

/-- Two lanes are on one path: the same PC and repeat index (R89, R155; log entry 6). -/
def Lane.samePath (a b : Lane) : Bool := a.pc == b.pc && a.repi == b.repi

/-- The lanes of the path of lane l. -/
def Group.path (g : Group) (l : Nat) : BitVec 32 :=
  maskOf fun k => (rd g.lanes k).live && (rd g.lanes l).live && (rd g.lanes k).samePath (rd g.lanes l)

/-- The splinter of slice sl: the lanes of its presented path in the slices that present the same path (R90). -/
def Group.splinter (g : Group) (sl : Nat) : BitVec 32 :=
  let p := g.path (rd g.pres sl)
  maskOf fun l => inMask p l && inMask p (rd g.pres (l / 4))

/-- The lanes of a slice that may issue. -/
def Group.liveIn (g : Group) (sl : Nat) : List Nat := ((List.range 4).map fun k => 4 * sl + k).filter fun l => (rd g.lanes l).live

/-- The path of lane l waits to be gathered by VOTE or PHASE (R138). -/
def Group.gathering (g : Group) (l : Nat) : Bool :=
  (lanesOf (g.path l)).any fun k => match (rd g.lanes k).wait with | some w => w.conds.contains .gathered | none => false

/-- The lane of slice sl whose path is gathered next: of the group's gathering paths with lanes there, the one with the lowest lane.
Every slice goes by the one order, so that two paths never hold each other's slices back (R111; DESIGN CHOICE, log entry 83). -/
def Group.gatherLane (g : Group) (sl : Nat) : Option Nat :=
  ((List.range 32).filter g.gathering).findSome? fun k => (g.liveIn sl).find? fun l => inMask (g.path k) l

/-- Rotation (R91): among the slice's candidates, the lane whose PC is next above `from`, wrapping to the lowest PC. -/
def Group.rotate (g : Group) (cands : List Nat) (frm : Code) : Option Nat :=
  let better (a b : Nat) : Nat := if (rd g.lanes b).pc.toNat < (rd g.lanes a).pc.toNat then b else a
  let least (ls : List Nat) : Option Nat := match ls with | [] => none | h :: t => some (t.foldl better h)
  match least (cands.filter fun l => decide (frm.toNat < (rd g.lanes l).pc.toNat)) with
  | some l => some l
  | none => least cands

end Paths

section Registers

/-- The twin pair that group g of a team belongs to, with its place among the team's twins (R103). -/
def Team.twinOf (t : Team) (g : Nat) : Option (Nat × Twin) :=
  ((List.range t.twins.length).zip t.twins).find? fun p => p.2.prod == g || p.2.cons == g

/-- The place of v(56 + k) of lane l in a twin store. -/
def twinIx (l k : Nat) : Nat := 8 * l + k

/-- Read vr of lane l of group g: v56-v63 of a twin are the pair's registers (R103). -/
def Team.rdV (t : Team) (g l r : Nat) : Word :=
  if 56 ≤ r then
    match t.twinOf g with
    | some (_, tw) => (rd tw.regs (twinIx l (r - 56))).val
    | none => rd (rd (rd t.groups g).lanes l).v r
  else rd (rd (rd t.groups g).lanes l).v r

/-- Read vr of a lane. -/
def State.rdV (s : State) (tm g l r : Nat) : Word := match s.team? tm with | some t => t.rdV g l r | none => 0

/-- What one lane writes: v, s and predicate registers, and a change of its other fields. -/
structure Fx where
  v : List (Nat × Word) := []
  s : List (Nat × Word) := []
  p : List (Nat × Bool) := []
  other : Lane → Lane := id

/-- Write predicates; p0 ignores writes (R54). -/
def setPreds (ps : BitVec 8) (w : List (Nat × Bool)) : BitVec 8 :=
  w.foldl (fun ps x => if x.1 = 0 then ps else if x.2 then ps ||| (1#8 <<< x.1) else ps &&& ~~~(1#8 <<< x.1)) ps

/-- Read a predicate; p0 reads true (R50). -/
def Lane.pred (l : Lane) (p : Nat) : Bool := p == 0 || l.preds.getLsbD p

/-- Write a list of registers. -/
def wrs {α : Type} [Inhabited α] (l : List α) (ws : List (Nat × α)) : List α := ws.foldl (fun l w => wr l w.1 w.2) l

/-- One lane after its writes; `tw` says that v56-v63 are not the lane's own. -/
def Fx.onLane (f : Fx) (tw : Bool) (l : Lane) : Lane :=
  f.other { l with v := wrs l.v (f.v.filter fun w => !(tw && decide (56 ≤ w.1))), s := wrs l.s f.s, preds := setPreds l.preds f.p }

/-- A twin register after a write by a twin (R104, R198): the full bit waits for the stores enqueued before it. -/
def TwinReg.write (r : TwinReg) (w : Writer) (x : Word) (stores : List Nat) : TwinReg :=
  if stores.isEmpty then { r with val := x, full := true, writer := w, pend := none }
  else { r with val := x, writer := w, pend := some (x, stores) }

/-- A group runs its muster handler. -/
def Group.handling (g : Group) : Bool := match g.handler with | some h => h.running | none => false

/-- A change of a pair's registers; what the program or an engine does, and no muster handler, belongs to the frames too (R421, R431). -/
def Twin.act (tw : Twin) (handling : Bool) (f : List TwinReg → List TwinReg) : Twin :=
  { tw with regs := f tw.regs, frame := if handling then tw.frame else tw.frame.map f }

/-- Twin registers after the writes of the lanes of a mask. -/
def twinWrites (w : Writer) (m : BitVec 32) (fx : Nat → Fx) (stores : List Nat) (regs : List TwinReg) : List TwinReg :=
  (lanesOf m).foldl (fun rs l =>
    ((fx l).v.filter fun x => decide (56 ≤ x.1 ∧ x.1 < 64)).foldl (fun rs x =>
      let ix := twinIx l (x.1 - 56)
      wr rs ix ((rd rs ix).write w x.2 stores)) rs) regs

/-- Apply what the lanes of a mask write. -/
def Team.applyFx (t : Team) (g : Nat) (m : BitVec 32) (fx : Nat → Fx) : Team :=
  match t.twinOf g with
  | none => t.modGroup g fun gr => gr.mapLanes m fun l ln => (fx l).onLane false ln
  | some (k, tw) =>
    let w : Writer := if tw.prod == g then .producer else .consumer
    let stores := (rd t.groups g).sq.map fun e => e.id
    { t.modGroup g fun gr => gr.mapLanes m fun l ln => (fx l).onLane true ln with
      twins := t.twins.set k (tw.act (rd t.groups g).handling (twinWrites w m fx stores)) }

/-- Apply what the lanes of a mask of a group write. -/
def State.applyFx (s : State) (tm g : Nat) (m : BitVec 32) (fx : Nat → Fx) : State := s.modTeam tm fun t => t.applyFx g m fx

/-- The words v(r) to v(r + n - 1) of a lane. -/
def State.rdVs (s : State) (tm g l r n : Nat) : List Word := (List.range n).map fun k => s.rdV tm g l (r + k)

/-- Words written to v(r) on. -/
def vWrites (r : Nat) (ws : List Word) : List (Nat × Word) := ((List.range ws.length).zip ws).map fun p => (r + p.1, p.2)

end Registers

section Moving

/-- A lane that has not exited and whose PC arrives at an address; it becomes held where its MEET names it, unless its PC has not left
that address (R93, R94). -/
def Lane.goto (l : Lane) (a : Code) : Lane :=
  if l.exited then l else { l with pc := a, repi := 0, wait := none, twinWait := false, held := l.meet == some a && l.pc != a }

/-- Two lanes' copies of the s-file differ in some register (R99). -/
def Lane.sDiffers (a b : Lane) : Bool := (List.range 64).any fun r => rd a.s r != rd b.s r

/-- The addresses at which lanes are held and every lane that has not exited and names the address is held there (R94). -/
def Group.releasable (g : Group) (a : Code) : Bool :=
  (List.range 32).all fun l => !((rd g.lanes l).present && !(rd g.lanes l).exited && (rd g.lanes l).meet == some a) ||
    (rd g.lanes l).held

/-- The held lanes whose condition of release holds (R94). -/
def Group.freed (g : Group) : BitVec 32 := maskOf fun l => (rd g.lanes l).held && g.releasable (rd g.lanes l).pc

/-- Release every held set whose condition holds (R94); a run starts there (R106). -/
def Group.release (g : Group) : Group :=
  { g.mapLanes g.freed fun _ ln => { ln with held := false } with runPos := if g.freed == 0 then g.runPos else 0 }

/-- Merging (R96, R99): the lanes of one path take the copy of its lowest lane; copies that differed set xsdiv and, in a
STRICT launch, owe the merged path a divergent-uniform fault. -/
def Group.merge (g : Group) (strict : Bool) : Group :=
  let leader (l : Nat) : Nat := lowest (g.path l)
  let differs (l : Nat) : Bool := (rd g.lanes l).live && decide (leader l ≠ l) && (rd g.lanes l).sDiffers (rd g.lanes (leader l))
  let bad := maskOf differs
  if bad == 0 then g
  else
    let owed := maskOf fun l => (rd g.lanes l).live && (lanesOf (g.path l)).any (inMask bad)
    { g.mapLanes owed fun l ln => { ln with s := (rd g.lanes (leader l)).s, owesDiv := ln.owesDiv || strict } with sdiv := true }

/-- Whether two live lanes of the group are on different paths, or a held set is about to be released: otherwise nothing can
merge. -/
def Group.mayMerge (g : Group) (act : BitVec 32) : Bool :=
  (List.range 32).any fun l => (rd g.lanes l).present && !(rd g.lanes l).exited && !inMask act l

/-- What slice sl presents while lanes of a splinter that issues go on there: their path, whichever of them had stood for it (R90, R91). -/
def Group.keepLane (g : Group) (act : BitVec 32) (sl : Nat) : Nat :=
  if (rd g.lanes (rd g.pres sl)).live then rd g.pres sl
  else (((List.range 4).map fun k => 4 * sl + k).find? fun l => inMask act l && (rd g.lanes l).live).getD (rd g.pres sl)

/-- Every slice of a splinter goes on presenting its path while lanes of it go on there. -/
def Group.keepPres (g : Group) (act : BitVec 32) : Group := { g with pres := (List.range 8).map (g.keepLane act) }

/-- What follows every change of PCs, exits and MEETs: releases, merges, and the end of the group (R94, R96, R134). -/
def Group.settle (g : Group) (act : BitVec 32) (strict : Bool) : Group :=
  let g1 := if g.mayMerge act || (List.range 32).any (fun l => (rd g.lanes l).held) then (g.release).merge strict else g
  { g1.keepPres act with ended := (List.range 32).all fun l => !(rd g1.lanes l).present || (rd g1.lanes l).exited }

/-- Settle the group of the issue. -/
def State.settle (s : State) (c : Cur) : State :=
  s.modGroup c.team c.group fun g => g.settle c.act (s.launchOf c.team).lrec.strict

end Moving

section Code

/-- An address as 56 bits, canonical when bits [63:56] equal bit 55 (R130, R177). -/
def canonical (a : BitVec 64) : Bool := a == BitVec.signExtend 64 (a.extractLsb' 0 56)

/-- Code base of a team's launch (R130). -/
def State.codeBase (s : State) (tm : Nat) : Code := (s.launchOf tm).lrec.code.extractLsb' 0 56

/-- The address of a code value (R130): code base + 2 * sext. -/
def codeAddr (base : Code) (v : Word) : Code := base + (BitVec.signExtend 56 v) * 2

/-- The code value of an address (R130), in halfwords from the code base: of a distance that 32 bits cannot say, the low 32 bits (DESIGN
CHOICE, log entry 128). -/
def codeValue (base a : Code) : Word := ((a - base).sshiftRight 1).extractLsb' 0 32

/-- The address after the instruction of the issue. -/
def Cur.next (c : Cur) : Code := c.pc + BitVec.ofNat 56 (2 * c.len)

end Code

section Regions

/-- What the physical map holds at an address (R12). -/
inductive PhysKind where
  | hbm | lpddr | decoded | reserved | window
  deriving DecidableEq, Repr, Inhabited

/-- The physical map (R12). -/
def physKind (a : Nat) : PhysKind :=
  if a < 0x00C000000000 then .hbm
  else if a < 0x010000000000 then .reserved
  else if a < 0x028000000000 then .lpddr
  else if a < 0x040000000000 then .reserved
  else if a < 0x080000000000 then .decoded
  else if a < 0xFFFF000000000 then .reserved
  else if a < 0x10000000000000 then .window
  else .reserved

/-- Record size of a region (R127); 0 for a register that is off. -/
def recBytes (fmt : Nat) : Nat := match fmt with | 1 => 17 | 2 | 3 => 25 | 4 => 33 | _ => 0

/-- The first record of a decoded line and the packed bytes of its four records: from and length (R371). -/
def packedOf (r : FmtReg) (y : Nat) : Nat × Nat × Nat :=
  let k := (128 * y - r.dbase) / 32
  (k, r.pbase + k * recBytes r.fmt, 4 * recBytes r.fmt)

/-- The memory controller of a physical address: the HBM4E stacks' are 0 to 11 (R13), the hub's four for LPDDR6 are 12 to 15, and which of these
has a line is a free choice (R371; log entry 140). -/
def controllerOf (a : Nat) : Option Nat :=
  match physKind a with
  | .hbm => some (stackOf a)
  | .lpddr => some (12 + Config.lpddrController (a / 128) % 4)
  | _ => none

/-- The packed bytes of the four records of line y lie in the memory of register i's controller, which holds 16 registers (R371; DEDUCED, log entry
140). -/
def regCovers (i : Nat) (r : FmtReg) (y : Nat) : Bool :=
  let p := packedOf r y
  (List.range 3).all fun k => controllerOf (p.2.1 + min (64 * k) (p.2.2 - 1)) == some (i / 16)

/-- The region in force whose decoded window holds line y, its packed records lying within the controller's memory (R371). -/
def State.regionOf (s : State) (y : Nat) : Option (Nat × FmtReg) :=
  ((List.range s.fmtRegs.length).zip s.fmtRegs).find? fun p =>
    p.2.fmt != 0 && decide (p.2.dbase ≤ 128 * y) && decide (128 * y < p.2.dbase + 32 * p.2.nrec) && regCovers p.1 p.2 y

/-- The decoded lines that CP holds a value of and whose records lie in line x (R374). -/
def State.packedOver (s : State) (x : Nat) : List Nat :=
  (s.decoded.map Prod.fst).filter fun y => match s.regionOf y with
    | some (_, r) => let p := packedOf r y; decide (p.2.1 < 128 * x + 128) && decide (128 * x < p.2.1 + p.2.2)
    | none => false

end Regions

section Ordering

/-- OWN(x) is not empty (R67, R81). -/
def State.ownedKey (s : State) (k : LineKey) : Bool := s.entries.any fun e => e.writes.contains k

/-- An access to the line is held: it is owned, or a decoded line that has to be encoded first is (R82, R374). -/
def State.owned (s : State) (k : LineKey) : Bool :=
  s.ownedKey k || match k with
    | .mem x => (s.packedOver x).any fun y => s.ownedKey (.mem y)
    | .sp _ _ => false

/-- The lines of memory to which an access is held: those that an engine entry owns, and the packed lines of an owned decoded one
(R82, R374). -/
def State.ownedLines (s : State) : List Nat :=
  s.entries.flatMap fun e => e.writes.flatMap fun k => match k with
    | .sp _ _ => []
    | .mem x => x :: (match (if s.decoded.any fun d => d.1 == x then s.regionOf x else none) with
      | some (_, r) => (List.range 3).map fun i => lineOf ((packedOf r x).2.1 + min (64 * i) ((packedOf r x).2.2 - 1))
      | none => [])

/-- Some line of n bytes of a context from va on is owned: an access of the part to them is held (R17). -/
def State.rangeOwned (s : State) (v : Nat) (va : VAddr) (n : Nat) : Bool :=
  let lo := va.toNat % 2 ^ 56
  match s.vdevs.find? fun d => d.id == v with
  | none => false
  | some d => s.ownedLines.any fun x => d.cfg.maps.any fun m =>
      let a := (m.vpage + (x / 512 - m.ppage)) * 65536 + x % 512 * 128
      m.valid && decide (m.ppage ≤ x / 512) && decide (x / 512 < m.ppage + m.units) && decide (a < lo + n) && decide (lo < a + 128)

/-- The line of a core's view; a line without a copy or writes is not listed. -/
def Core.line (k : Core) (x : Nat) : CvLine := (k.cv.find? fun l => l.line == x).getD { line := x }

/-- Put a line of a core's view; what holds nothing is dropped. -/
def Core.setLine (k : Core) (l : CvLine) : Core :=
  let rest := k.cv.filter fun y => !(y.line == l.line)
  { k with cv := if l.copy.isNone && l.pend.isEmpty then rest else l :: rest }

/-- The core of a team, 0 when it is not resident. -/
def State.coreOf (s : State) (tm : Nat) : Nat := match s.team? tm with | some t => t.core?.getD 0 | none => 0

/-- Byte of a team's scratchpad. -/
def State.spByte (s : State) (tm a : Nat) : Byte := match s.team? tm with | some t => Memory.get t.sp a | none => 0

/-- The store ids that stand unpropagated in the view of a core. -/
def Core.pendIds (k : Core) : List Nat := k.cv.flatMap fun l => l.pend.map fun w => w.id

/-- The tile numbers that an engine entry names (R262). -/
def Work.tiles : Work → List Nat
  | .mat r => if r.fn == 3 then [bits (rd r.block 7) 8 5, bits (rd r.block 7) 8 5 + 1] else [bits (rd r.block 7) 8 5]
  | .acst r => [r.tile]
  | _ => []

/-- A matrix request that a class 9 fault has stopped and that has not been posted again (R457). -/
def Entry.parked (e : Entry) : Bool := match e.work with | .mat r => r.hold != .no | _ => false

/-- The pieces of an entry's work. -/
def Work.segs : Work → List Seg
  | .copy _ segs _ => segs
  | _ => []

/-- The line that a place lies in. -/
def Loc.key? : Loc → Option LineKey
  | .mem p _ => some (.mem (lineOf p))
  | .sp t o => some (.sp t (o / 128))
  | .remote .. => none

/-- The window line that a place of a remote part lies in: device, handle and line. -/
def Loc.window? : Loc → Option (Nat × Nat × Nat)
  | .remote d h o => some (d, h, o / 128)
  | _ => none

/-- The pieces of an entry reach a remote part. -/
def Work.remote (w : Work) : Bool :=
  w.segs.any fun g => match g.src, g.dst with | .remote .., _ => true | _, .remote .. => true | _, _ => false

/-- A put of the entry has not entered FQ yet: a source of it is still to be read (R85). -/
def Entry.unsent (e : Entry) : Bool :=
  e.work.segs.any fun g => match g.dst, g.src.key? with | .remote .., some k => e.reads.contains k | _, _ => false

/-- The entry has completed all its line writes (R78): a request has no pass and no row progress left to write, a push writes its
windows at Complete. -/
def Entry.written (e : Entry) : Bool :=
  match e.work with
  | .copy .. => e.writes.isEmpty && !e.unsent
  | .acst _ => e.writes.isEmpty
  | .mat r => !r.granted && r.rp.isNone && (r.rows.isEmpty || r.stop.isSome)
  | .push .. => false

/-- A tile's board entry; one that nothing has published or stopped stands at its reset value (R402). -/
def Launch.tile (l : Launch) (b t : Nat) : Tile :=
  (l.tiles.find? fun e => e.board == b && e.tile == t).getD { board := b, tile := t, subs := [{}, {}, {}, {}] }

/-- The grid-linear index of a team (R141, R368). -/
def gridIndex (r : LaunchRec) (x y z : Nat) : Nat := x + r.gx * (y + r.gy * z)

/-- Number of grid teams of a launch. -/
def LaunchRec.gridSize (l : LaunchRec) : Nat := l.gx * l.gy * l.gz

/-- The order token of a team (R368). -/
def State.token? (s : State) (tm : Nat) : Option Nat :=
  match s.team? tm with
  | some t => (match t.origin with | .grid x y z => some (gridIndex (s.launchOf tm).lrec x y z) | _ => none)
  | none => none

/-- The retire watermark W of a launch (R368); none lies above every token. -/
def State.watermark (s : State) (l : Launch) : Option Nat :=
  let live := (s.teams.filter fun t => t.launch == l.key && t.place != .ended).filterMap fun t => s.token? t.id
  let all := if l.nextTeam < l.lrec.gridSize then l.nextTeam :: live else live
  all.foldl (fun acc n => match acc with | none => some n | some m => some (min m n)) none

/-- A token lies at or below W. -/
def State.tokenDue (s : State) (l : Launch) (n : Nat) : Bool := match s.watermark l with | some w => decide (n ≤ w) | none => true

/-- What each waiting condition means, for the lanes `act` of group g of team tm. -/
def Cond.holds (s : State) (tm g : Nat) (act : BitVec 32) : Cond → Bool
  | .sqEmpty => (s.group tm g).sq.isEmpty
  | .sqRoom n => (s.group tm g).sq.length + n ≤ 32
  | .storesGone ids =>
    !((s.group tm g).sq.any fun e => ids.contains e.id) && !(s.cores.any fun k => k.pendIds.any ids.contains)
  | .viewClean => (s.core (s.coreOf tm)).pendIds.isEmpty
  | .linesClean ls => ls.all fun x => ((s.core (s.coreOf tm)).line x).pend.isEmpty
  | .unowned ks => ks.all fun k => !s.owned k
  | .rangeFree va n => !s.rangeOwned (s.vdevOf tm) va n
  | .readable ls => ls.all fun x =>
      !s.owned (.mem x) && (((s.core (s.coreOf tm)).line x).copy.isSome || ((s.core (s.coreOf tm)).line x).pend.isEmpty)
  | .fabricDone ids => !(s.fq.any fun o => ids.contains o.entry) && !(s.entries.any fun e => ids.contains e.id && e.unsent)
  | .entriesDone ids => !(s.entries.any fun e => ids.contains e.id)
  | .writesDone ids => !(s.entries.any fun e => ids.contains e.id && !(e.written && !(s.fq.any fun o => o.entry == e.id && !o.get)))
  | .feedbackDone wide upto => !(s.feedback.any fun f => f.team == tm && f.group == g && decide (f.flight < upto)) &&
      !(wide && s.cores.any fun k => k.cv.any fun l => l.pend.any fun w => w.team == tm && w.group == g &&
        match w.vis with | some n => decide (n < upto) | none => false)
  | .copyRoom => (s.entries.filter fun e => e.copyEng && e.unit == s.coreOf tm).length < 32
  | .tableRoom => (s.entries.filter fun e => !e.copyEng && !e.parked && e.unit == clusterOf (s.coreOf tm)).length < 32
  | .recordRoom mat => match s.team? tm with
      | some t => if mat then t.matRecs.length < 4 else t.copyRecs.length < 8
      | none => true
  | .holdRoom need => (match s.token? tm with | some n => s.tokenDue (s.launchOf tm) n | none => true) || need.all fun p =>
      ((s.launches.flatMap fun l => l.blends).filter fun b => homeSlice (lineOf b.addr) == homeSlice p.1).length + p.2
        ≤ 4096
  | .tileFree ts => !(s.entries.any fun e => e.team == tm && e.work.tiles.any ts.contains)
  | .flightsDone ids => !(s.flights.any fun f => ids.contains f.id)
  | .phaseOff off par => (s.spByte tm (off + 8)).getLsbD 0 != par
  | .tags m any => match s.team? tm with
      | some t => if m == 0 then true else if any then t.tags &&& m != 0 else t.tags &&& m == m
      | none => true
  | .board tw ver =>
      let e := (s.launchOf tm).tile (bits tw 24 4) (bits tw 0 24)
      decide (ver < e.ver) || e.final || e.stopped
  | .twinFull rs => match s.team? tm with
      | some t => match t.twinOf g with
        | some (_, tw) => rs.all fun p => (rd tw.regs (twinIx p.1 p.2)).full
        | none => true
      | none => true
  | .gathered => (lanesOf act).all fun l => (s.group tm g).path l == act
  | .serialTaken n => decide (n < (s.launchOf tm).phases)
  | .resumed => !(s.group tm g).broken
  | .never => false

/-- Every condition of a list. -/
def State.allHold (s : State) (tm g : Nat) (act : BitVec 32) (cs : List Cond) : Bool := cs.all fun c => c.holds s tm g act

end Ordering

section Runs

/-- A failure of a matrix request ends the wait at once; one of a copy or an ACST is taken when the wait would be left
(R247, R259, R279). -/
def EngFault.early (e : EngFault) : Bool := e.maj == 0x1D

/-- A recorded failure that a wait on these tags, or on this hurdle, of a group takes (R247, R259): of a copy or an ACST, one whose completion
would release the wait: its tag is among those that are `set`, or on a hurdle its completion has contributed to a flip. -/
def EngFault.hits (e : EngFault) (g : Nat) (tags set : BitVec 64) (hoff : Option Nat) : Bool :=
  (match e.group with | some k => k == g | none => true) &&
    ((match e.tag with | some t => tags.getLsbD t && (e.early || set.getLsbD t) | none => false) ||
      (e.hurdle.isSome && e.hurdle == hoff && e.flipped))

/-- A wait ends on a recorded failure instead of its condition (R247, R259); behind a stopped request it does so for every group of the
owner (R457). -/
def Cond.failed (s : State) (tm g : Nat) (c : Cond) : Bool :=
  let recs := match s.team? tm with | some t => t.efaults | none => []
  match c with
  | .tags m _ => recs.any fun e => e.early && e.hits g m 0 none
  | .tileFree ts => recs.any fun q =>
      s.entries.any fun e => e.team == tm && e.parked && e.work.tiles.any ts.contains && q.entry == some e.id
  | _ => false

end Runs

section Faults

/-- What an instruction faults with (R220). -/
structure FaultInfo where
  cls  : Nat
  mask : BitVec 32
  kind : Nat := 0
  info : Nat := 0
  va   : BitVec 64 := 0
  /-- MAJ and FN where they are not the issuing instruction's own (R247, R259) -/
  code : Option (Nat × Nat) := none
  /-- the addresses of the lanes, where each has its own -/
  vas  : List (Nat × BitVec 64) := []
  deriving DecidableEq, Repr, Inhabited

/-- The six words of a record (R220). -/
def mkRec (cls maj fn repi kind info : Nat) (mask : BitVec 32) (pc : Code) (va : BitVec 64) : FaultRec :=
  { w0 := BitVec.ofNat 32 (cls % 256 + maj % 64 * 2 ^ 8 + fn % 8 * 2 ^ 14 + repi % 64 * 2 ^ 17 + kind % 16 * 2 ^ 23)
    w1 := mask
    w2 := pc.extractLsb' 0 32
    w3 := BitVec.ofNat 8 info ++ pc.extractLsb' 32 24
    va := va }

/-- CLASS of a record. -/
def FaultRec.cls (r : FaultRec) : Nat := bits r.w0 0 8
/-- REPI of a record. -/
def FaultRec.repi (r : FaultRec) : Nat := bits r.w0 17 6
/-- The address in a record. -/
def FaultRec.pc (r : FaultRec) : Code := r.w3.extractLsb' 0 24 ++ r.w2
/-- The 24 bytes of a record (R443, R453). -/
def FaultRec.bytes (r : FaultRec) : List Byte := bytesOf [r.w0, r.w1, r.w2, r.w3, r.va.extractLsb' 0 32, r.va.extractLsb' 32 32]

/-- An event occurs: it is under way to the recorder (R453, R454). -/
def State.log (s : State) (unit : Nat) (cycle : BitVec 64) (cls : Nat) (vdev : Option Nat) (data : List Word) : State :=
  { s with noted := s.noted ++ [{ seq := 0, unit := unit, cycle := cycle, cls := cls, vdev := vdev, data := data }] }

/-- The hub writes an event into the recorder and gives it its SEQ (R453): 4096 entries, the oldest replaced. -/
def State.record (s : State) (e : Event) : State :=
  { s with
    events := (s.events ++ [{ e with seq := s.eventSeq % 2 ^ 48 }]).drop (s.events.length + 1 - 4096)
    eventSeq := s.eventSeq + 1 }

/-- Events reach the recorder, those of one unit in the order in which they occurred and those of different units in any order (R454; DESIGN
CHOICE, log entry 102): which of them have reached it by now is a free choice. -/
def State.recordEvents (s : State) : State :=
  if s.noted.isEmpty then s
  else
    let go (acc : State × List Event) (p : Nat × Event) : State × List Event :=
      if acc.2.any (fun q => q.unit == p.2.unit) || !s.flip 7 p.1 then (acc.1, acc.2 ++ [p.2]) else (acc.1.record p.2, acc.2)
    let r := ((List.range s.noted.length).zip s.noted).foldl go (s, [])
    { r.1 with noted := r.2 }

/-- Every event that has occurred reaches the recorder (R453): before power or state is lost (R452). -/
def State.flushEvents (s : State) : State := { s.noted.foldl State.record s with noted := [] }

/-- A unit's cycle counter goes on by an amount; it has 64 bits and never runs over (R454). -/
def goOn (t by_ : BitVec 64) : BitVec 64 := if t.toNat + by_.toNat < 2 ^ 64 then t + by_ else t

/-- A unit's own cycle counter; one that is not listed stands at 0 (R2). -/
def State.unitClock (s : State) (unit : Nat) : BitVec 64 :=
  match s.clocks.find? fun p => p.1 == unit with | some p => p.2 | none => 0

/-- Log an event of a unit that is no core; that unit's own counter, and no other, has gone on by a free amount (R2, R454). -/
def State.logUnit (s : State) (unit cls : Nat) (vdev : Option Nat) (data : List Word) : State :=
  let t := goOn (s.unitClock unit) (Config.elapsed s.tick)
  { (s.log unit t cls vdev data) with clocks := (unit, t) :: s.clocks.filter fun p => p.1 != unit }

/-- Before its counter is seen, a core's counter has gone on by a free amount (R2; log entry 3). -/
def State.tickCore (s : State) (core : Nat) : State :=
  s.modCore core fun k => { k with cycle := goOn k.cycle (Config.elapsed s.tick) }

/-- Log an event of a core with its own counter (R453, R454). -/
def State.logCore (s : State) (core cls : Nat) (vdev : Option Nat) (data : List Word) : State :=
  let s1 := s.tickCore core
  s1.log core (s1.core core).cycle cls vdev data

/-- Log a fault record (R223, R453). -/
def State.logRec (s : State) (core vdev : Nat) (r : FaultRec) : State :=
  s.logCore core 1 (some vdev) [r.w0, r.w1, r.w2, r.w3, r.va.extractLsb' 0 32, r.va.extractLsb' 32 32]

/-- Keep the first fault record of a launch (R223). -/
def State.keepRec (s : State) (key : Nat) (r : FaultRec) : State :=
  s.modLaunch key fun l => { l with errRec := some (l.errRec.getD r) }

/-- Stop every group of a team: no further instruction issues (R223). What it has stored and posted runs on. -/
def Team.stop (t : Team) : Team :=
  { t with groups := t.groups.map fun g =>
      let g' : Group := g.mapLanes 0xFFFFFFFF fun _ l =>
        { l with exited := true, held := false, trapHeld := false, flying := false, wait := none }
      { g' with ended := true, broken := false, handler := none } }

/-- Free the issue slots that a team holds. -/
def State.freeSlots (s : State) (tm : Nat) : State :=
  { s with cores := s.cores.map fun k =>
      { k with slots := k.slots.map fun x => match x with | some gr => if gr.team == tm then none else x | none => none } }

/-- The shepherd ends a team on a fault (R223, R224). Of a double fault's two records the second, which ends the team, is the one that may
become the launch's error status (DESIGN CHOICE, log entry 115). -/
def State.endTeamOnFault (s : State) (tm : Nat) (r : FaultRec) : State :=
  let v := s.vdevOf tm
  let c := s.coreOf tm
  let key := match s.team? tm with | some t => t.launch | none => 0
  (((s.logRec c v r).keepRec key r).modTeam tm Team.stop).freeSlots tm

/-- Enter the trap handler with a record (R223): the lanes of the mask go to the trap entry, every other lane is held where it stands: those of a
TRAP's path whose guard is false at the TRAP itself, which they issue again after TRET (R226; DEDUCED, log entry 131). -/
def Group.enterTrap (g : Group) (r : FaultRec) (entry : Code) (st : TrapState) : Group :=
  { g with
    frec := r
    trap := some st
    runPos := 0
    lanes := (List.range 32).map fun l =>
      let ln := rd g.lanes l
      if inMask st.mask l then { ln with pc := entry, repi := 0, wait := none, twinWait := false }
      else { ln with trapHeld := ln.present && !ln.exited }
    pres := (List.range 8).map fun sl =>
      match ((List.range 4).map fun k => 4 * sl + k).filter (inMask st.mask) with | l :: _ => l | [] => rd g.pres sl }

/-- The muster handler is over (R424): every item of the frame returns; what the handler wrote to v, m and c registers stands. -/
def Group.endHandler (g : Group) : Group :=
  match g.handler with
  | none => g
  | some h =>
    { g with
      lanes := (List.range 32).map fun l =>
        { rd h.frame l with v := (rd g.lanes l).v, m := (rd g.lanes l).m, c := (rd g.lanes l).c, wait := none }
      trap := h.trap, runPos := h.runPos, sdiv := h.sdiv, rngKey := h.rngKey, rngStream := h.rngStream, frec := h.frec
      ended := false
      handler := some { h with running := false } }

/-- The twin part of a muster frame is captured at the MUSTER trap of a group (R421): the pair's registers as they stand, unless the other
group of the pair is in its handler and the frame has begun. -/
def Team.frameTwins (t : Team) (g : Nat) : Team :=
  match t.twinOf g with
  | some (k, tw) => { t with twins := t.twins.set k { tw with frame := some (tw.frame.getD tw.regs) } }
  | none => t

/-- The full bits and writers of record of a group's twin pair return from the frame (R421, R424, R425) once no handler of the pair runs any
more; values that a handler wrote stand, as those of the other v registers do. While the other group of the pair is still in its handler the
bits stay as that handler uses them (DESIGN CHOICE, log entry 103). -/
def Team.unframeTwins (g : Nat) (t : Team) : Team :=
  match t.twinOf g with
  | some (k, tw) =>
    if (rd t.groups tw.prod).handling || (rd t.groups tw.cons).handling then t
    else
      let back (fs : List TwinReg) : List TwinReg := (List.range fs.length).map fun i => { rd fs i with val := (rd tw.regs i).val }
      { t with twins := t.twins.set k { tw with regs := match tw.frame with | some fs => back fs | none => tw.regs, frame := none } }
  | none => t

/-- A fault inside a muster handler abandons it, as an overrun does, and is logged, not delivered (R423). -/
def State.abandonHandler (s : State) (tm g : Nat) (r : FaultRec) : State :=
  let s1 := s.logRec (s.coreOf tm) (s.vdevOf tm) r
  let s2 := s1.logCore (s.coreOf tm) 7 (some (s.vdevOf tm)) []
  (s2.modGroup tm g fun gr => { gr.endHandler with overran := true }).modTeam tm (Team.unframeTwins g)

/-- Deliver a fault of delivery H, or TRAP or BKPT, with its record (R223, R224). -/
def State.deliver (s : State) (tm g : Nat) (r : FaultRec) (st : TrapState) : State :=
  let gr := s.group tm g
  if (match gr.handler with | some h => h.running | none => false) then s.abandonHandler tm g r
  else match gr.trap with
  | some _ => (s.logRec (s.coreOf tm) (s.vdevOf tm) gr.frec).endTeamOnFault tm r
  | none =>
    let te := (s.launchOf tm).lrec.trape
    if te == 0x80000000 then (s.modGroup tm g fun gr => { gr with frec := r }).endTeamOnFault tm r
    else s.modGroup tm g fun gr => gr.enterTrap r (codeAddr (s.codeBase tm) te) st

/-- Apply f to a connection. -/
def State.modConn (s : State) (id : Nat) (f : Conn → Conn) : State :=
  { s with conns := s.conns.map fun c => if c.id == id then f c else c }

/-- Messages of one direction of a connection that may be in flight (R440). -/
def inFlight : Nat := 1024

/-- Send on a connection (R440, R442): the message takes the next SEQ; while 1024 are in flight, or no port is up, it waits. -/
def State.sendOn (s : State) (conn : Nat) (msg : OutMsg) : State :=
  match s.conns.find? fun c => c.id == conn with
  | none => s
  | some c =>
    let m : OutMsg := { msg with conn := conn, seq := c.nextOut % 2 ^ 32 }
    if c.held.isEmpty && decide (c.flying < inFlight) && s.portsUp != 0 then
      { s.modConn conn fun x => { x with nextOut := x.nextOut + 1, flying := x.flying + 1 } with outbox := s.outbox ++ [m] }
    else s.modConn conn fun x => { x with nextOut := x.nextOut + 1, held := x.held ++ [m] }

/-- The peer has acknowledged n messages of a connection: as many that wait follow (R440). -/
def State.acked (s : State) (conn n : Nat) : State :=
  match s.conns.find? fun c => c.id == conn with
  | none => s
  | some c =>
    let out := if s.portsUp == 0 then [] else c.held.take (inFlight - (c.flying - n))
    { s.modConn conn fun x => { x with flying := x.flying - n + out.length, held := x.held.drop out.length } with outbox := s.outbox ++ out }

/-- What the peers have acknowledged by now: how many messages is a free choice (R440; log entry 110). -/
def State.transport (s : State) : State :=
  (s.conns.map fun c => (c.id, (Config.freeWord (s.tick * 4096 + c.id)).toNat % (c.flying + 1))).foldl (fun s p => s.acked p.1 p.2) s

/-- Release the messages withheld for a virtual device, in posting order, while it is scheduled and its tenant endpoint has a
connection open (R439, R441); which of several connections takes them is this model's choice (log entry 12). -/
def State.releaseOut (s : State) (v : Nat) : State :=
  match s.vdev? v, s.conns.find? fun c => c.key == .tenant v with
  | some d, some c =>
    if !d.sched then s
    else d.waiting.foldl (fun s m => s.sendOn c.id m) (s.modVdev v fun d => { d with waiting := [] })
  | _, _ => s

/-- Post a message for a virtual device's host (R439). -/
def State.postOut (s : State) (v type : Nat) (body : List Byte) : State :=
  (s.modVdev v fun d => { d with waiting := d.waiting ++ [{ conn := 0, vdev := v, type := type, body := body }] }).releaseOut v

/-- Put a record into the tenant's fault queue and park the team until the entry is resolved (R222). -/
def State.queueFault (s : State) (tm g : Nat) (r : FaultRec) : State :=
  let v := s.vdevOf tm
  let num := match s.vdev? v with | some d => d.fqNum | none => 0
  let s1 := s.modVdev v fun d =>
    { d with
      fqNum := d.fqNum + 1
      faultq := d.faultq ++ [{ num := num, team := tm, group := g, frec := r, open_ := true }] }
  (s1.postOut v 0x0A (leBytes 4 num ++ r.bytes)).modTeam tm fun t => { t with leaving := .park, wakeEntries := t.wakeEntries ++ [num] }

/-- The number that the next fault-queue entry of a team's virtual device takes (R222). -/
def State.queueNo (s : State) (tm : Nat) : Nat := match s.vdev? (s.vdevOf tm) with | some d => d.fqNum | none => 0

/-- What a denied replay of the fault in lane l would record (R220, R222); a row-progress fault is the matrix engine's, domain 2 (R18). -/
def FaultInfo.owed (f : FaultInfo) (entry l : Nat) : Owed :=
  { entry := entry, code := f.code, kind := f.kind, info := if f.cls = 9 then 2 else f.info
    va := match f.vas.find? fun p => p.1 == l with | some p => p.2 | none => f.va }

/-- Deliver a fault of delivery P (R222, R224): the record, a fault-queue entry and the park; the instruction replays. -/
def State.parkOnFault (s : State) (tm g : Nat) (r : FaultRec) (st : TrapState) (f : FaultInfo) : State :=
  let gr := s.group tm g
  if (match gr.handler with | some h => h.running | none => false) then s.abandonHandler tm g r
  else match gr.trap with
  | some _ => (s.logRec (s.coreOf tm) (s.vdevOf tm) gr.frec).endTeamOnFault tm r
  | none => (s.queueFault tm g r).modGroup tm g fun gr =>
      Group.mapLanes { gr with frec := r } st.act fun k l =>
        { l with
          wait := some { conds := [.never], snap := [], since := 0, park := none }
          owed := if inMask st.mask k then some (f.owed (s.queueNo tm) k) else none }

/-- TAKING A FAULT (R219-R224): ONE operation for every class. `c` is the issue, maj and fn as decoded. -/
def State.takeFault (s : State) (c : Cur) (code : Nat × Nat) (f : FaultInfo) : State :=
  let k := f.code.getD code
  let r := mkRec f.cls k.1 k.2 c.rep f.kind f.info f.mask c.pc f.va
  let st : TrapState := { mask := f.mask, act := c.act, next := c.next }
  let s1 := if f.cls == 3 || f.cls == 9 then s.parkOnFault c.team c.group r st f else s.deliver c.team c.group r st
  { s1 with cur := some { c with out := .faulted } }

/-- A handler of the group has been left: its run's end keeps the run position that came back with the frame (R425). -/
def State.leftHandler (s : State) (c : Cur) : Bool :=
  match (s.group c.team c.group).handler with | some h => !h.running | none => false

/-- RETURN FROM A FAULT (R227): clear trap state, release the held lanes, and resume the lanes of MASK, also those that another path of the
handler had left held at a meeting address or with a traversal in flight. -/
def Group.trapReturn (g : Group) (st : TrapState) (skip : Bool) : Group :=
  let soft := g.frec.cls == 16 || g.frec.cls == 17
  let g0 := g.mapLanes st.mask fun _ l => { l with held := false, flying := false }
  let g1 : Group := { g0 with trap := none, runPos := 0, lanes := g0.lanes.map fun l => { l with trapHeld := false } }
  if soft then g1.mapLanes st.mask fun _ l => l.goto st.next
  else if skip then g1.mapLanes (st.mask ||| st.act) fun _ l => l.goto st.next
  else g1.mapLanes st.mask fun _ l => { l with pc := g.frec.pc, repi := g.frec.repi, wait := none }

end Faults

section Issue

/-- How an instruction leaves, or does not leave, its issue point. -/
inductive Act where
  /-- it has its effect; the PC advances -/
  | done (s : State)
  /-- it has its effect and moves each lane of the splinter; `div` when it is divergent (R92) -/
  | jump (s : State) (target : Nat → Code) (div : Bool)
  /-- it takes a fault before any effect -/
  | fault (f : FaultInfo)
  /-- it stays at the issue point until the conditions hold; `snap` are those taken now -/
  | wait (conds snap : List Cond) (park : Option Nat)
  /-- it has posted traversals and stays until they have landed (R339) -/
  | hold (s : State)
  /-- it has moved the lanes itself -/
  | moved (s : State) (o : Out)
  /-- it takes a fault before any effect, but that the access has left a note: the sticky bit of a region (R372) -/
  | noted (note : State → State) (f : FaultInfo)

/-- Budgets of a role (R100, R381): v, m and c registers; there are 64 v registers (02_notation). -/
def LaunchRec.budget (l : LaunchRec) (consumer : Bool) : Nat × Nat × Nat :=
  let m (k : Nat) : Nat := match k with | 0 => 0 | 1 => 4 | 2 => 8 | _ => 16
  if consumer then (min 64 (8 * (l.cv + 1)), m l.cm, l.cc) else (min 64 (8 * (l.pv + 1)), m l.pm, l.pc)

/-- Budgets of the group of an issue. -/
def State.budget (s : State) (tm g : Nat) : Nat × Nat × Nat := (s.launchOf tm).lrec.budget (s.group tm g).consumer

/-- The lanes of the splinter whose guard is true (R50). -/
def State.guarded (s : State) (c : Cur) (g : BitVec 3) : BitVec 32 :=
  maskOf fun l => inMask c.act l && (s.lane c.team c.group l).pred g.toNat

/-- The twin registers, as (lane, number), that the lanes read as other than the writer of record (R104). -/
def Team.twinReads (t : Team) (g : Nat) (m : BitVec 32) (rs : List Nat) : List (Nat × Nat) :=
  match t.twinOf g with
  | none => []
  | some (_, tw) =>
    let me : Writer := if tw.prod == g then .producer else .consumer
    (lanesOf m).flatMap fun l => (rs.filter fun r => decide (56 ≤ r ∧ r < 64)).filterMap fun r =>
      if (rd tw.regs (twinIx l (r - 56))).writer == me then none else some (l, r - 56)

/-- The lanes whose twin write finds its register full (R104). -/
def Team.twinMisuse (t : Team) (g : Nat) (m : BitVec 32) (ws : List Nat) : BitVec 32 :=
  match t.twinOf g with
  | none => 0
  | some (_, tw) => maskOf fun l => inMask m l && ws.any fun r => decide (56 ≤ r ∧ r < 64) && (rd tw.regs (twinIx l (r - 56))).full

/-- Set empty what a twin read has taken (R104). -/
def Team.twinTake (t : Team) (g : Nat) (rs : List (Nat × Nat)) : Team :=
  match t.twinOf g with
  | none => t
  | some (k, tw) =>
    let take (l : List TwinReg) (p : Nat × Nat) : List TwinReg := wr l (twinIx p.1 p.2) { rd l (twinIx p.1 p.2) with full := false }
    { t with twins := t.twins.set k (tw.act (rd t.groups g).handling fun regs => rs.foldl take regs) }

/-- What the lanes of the splinter have recorded while waiting at this instruction: the conditions taken when it first came to
the issue point, none when it comes for the first time. -/
def State.recorded (s : State) (c : Cur) : Option WaitRec :=
  (lanesOf c.act).findSome? fun l => (s.lane c.team c.group l).wait

/-- Go on when every condition holds: the stable ones, and those taken at the first arrival (R77); otherwise wait. A wait that took no
such conditions, as one for an operand, leaves them to be taken when the instruction comes to wait on them. An instruction that waits on
conditions it has taken holds its group's issue point (`State.holdsIp`), so that nothing of the group issues between that arrival and its
effect. -/
def State.need (s : State) (c : Cur) (conds snap : List Cond) (park : Option Nat) (k : Act) : Act :=
  let sn := match s.recorded c with | some w => if w.snap.isEmpty then snap else w.snap | none => snap
  if s.allHold c.team c.group c.act (conds ++ sn) then k else .wait conds sn park

/-- An instruction has issued to its end: it counts in the run position (R106), the lanes of its splinter go where they go, and what that
brings about follows. -/
def State.arrive (s : State) (c : Cur) (f : Nat → Lane → Lane) : State :=
  ((s.mapLanes c.team c.group c.act f).modGroup c.team c.group fun g => { g with runPos := g.runPos + 1 }).settle c

/-- The run ends after this instruction (R105, R106): by its E bit, by what it is, by having waited for a twin register, where no lane of its
splinter goes on in the run, and where BKPT has stopped the group for the debugger: the run then ends there and a new one starts when the group
is resumed (the last is this model's choice, log entry 104). A lane that has arrived at its meeting address does not go on in the run, also
where it has been released at once; one that has branched from there to itself has not arrived (R93, R94). -/
def State.runOver (s : State) (i : Instr) (c : Cur) : Bool :=
  let g := s.group c.team c.group
  let met (ln : Lane) : Bool := ln.meet == some ln.pc && ln.pc != c.pc
  let left := (lanesOf c.act).any fun l => (rd g.lanes l).live && !met (rd g.lanes l)
  i.e || i.endsRun || c.twinWaited || !left || g.ended || g.broken

/-- The instruction has had its effect (R87, R155): the next repeat stands before it, or its lanes arrive at the next
instruction. -/
def State.advance (s : State) (i : Instr) (c : Cur) : State :=
  if c.rep < i.lastRep then
    { s.mapLanes c.team c.group c.act (fun _ l => { l with repi := c.rep + 1, wait := none }) with
      cur := some { c with out := .done } }
  else
    { s.arrive c (fun _ l => l.goto c.next) with cur := some { c with out := .done } }

/-- The instruction has had its effect and each lane of the splinter arrives at its target (R92, R132). -/
def State.jumpTo (s : State) (c : Cur) (tgt : Nat → Code) (div : Bool) : State :=
  { s.arrive c (fun k l => l.goto (tgt k)) with
    cur := some { c with out := if div then .diverged else .done } }

/-- The instruction stays at its issue point (R77, R113). -/
def State.standBy (s : State) (c : Cur) (conds snap : List Cond) (park : Option Nat) : State :=
  let since := (s.core c.core).cycle
  let old := s.recorded c
  let w : WaitRec := { conds := conds ++ snap, snap := snap, since := (old.map WaitRec.since).getD since, park := park,
                       expired := (old.map WaitRec.expired).getD false }
  let twin := w.conds.any fun x => match x with | .twinFull _ => !x.holds s c.team c.group c.act | _ => false
  { s.mapLanes c.team c.group c.act (fun _ l => { l with wait := some w, twinWait := l.twinWait || twin }) with
    cur := some { c with out := .waiting } }

/-- The instruction holds IP(g) while it waits (R77, R78, R84, R230): its run does not end and no other path of the group issues. FENCE, XFENCE
and CFENCE do, INVD does, and so does an EMIT, PUBV or VSTOP while it waits for the stores that came before it (R407). -/
def State.holdsIp (s : State) (c : Cur) (i : Instr) : Bool :=
  match i with
  | .fence _ _ | .xfence _ _ | .cfence _ _ | .invd _ _ => true
  | _ => match s.recorded c with | some w => !w.snap.isEmpty | none => false

/-- The instruction has posted traversals and stays until they have landed (R339). -/
def State.holdOn (s : State) (c : Cur) : State :=
  { s.mapLanes c.team c.group c.act (fun _ l => { l with wait := none, flying := true }) with cur := some { c with out := .waiting } }

/-- Put an instruction's outcome into the state. -/
def Act.finish (a : Act) (i : Instr) (c : Cur) (s : State) : State :=
  match a with
  | .done s' => s'.advance i c
  | .jump s' tgt div => s'.jumpTo c tgt div
  | .fault f => s.takeFault c i.code f
  | .wait conds snap park => s.standBy c conds snap park
  | .hold s' => s'.holdOn c
  | .moved s' o => { s'.settle c with cur := some { c with out := o } }
  | .noted note f => (note s).takeFault c i.code f

/-- The lobe operations in flight whose results have yet to land in a register that the instruction names in a lane of its splinter
(R9, R27): it waits for them. -/
def State.pendingOn (s : State) (c : Cur) (i : Instr) : List Nat :=
  let use := i.vUse c.rep
  let names (f : Flight) : Bool := i.anyV || (use.1 ++ use.2).any fun r => decide (f.dest.1 ≤ r) && decide (r < f.dest.1 + f.dest.2)
  (s.flights.filter fun f => !f.vis && f.team == c.team && f.group == c.group && f.act &&& c.act != 0 && names f).map fun f => f.id

/-- The lanes in which an instruction acts on v registers: those whose guard is true, without the helper lanes where it has no effect there
(R50, R110). -/
def State.acting (s : State) (c : Cur) (i : Instr) : BitVec 32 :=
  maskOf fun l => inMask (s.guarded c i.g) l && !(i.sparesHelpers && (s.lane c.team c.group l).helper)

/-- The lanes whose vA an instruction reads as a source for others, whatever their guard: for SHFL all of its splinter (R139, R140); for QDIFF,
in a quad that is wholly active, the guarded lanes and their neighbours (R346). -/
def State.sources (s : State) (c : Cur) (i : Instr) : BitVec 32 :=
  match i with
  | .shfl _ _ => c.act
  | .qdiff m f => maskOf fun l => ((List.range 4).all fun k => inMask c.act (4 * (l / 4) + k)) &&
      (inMask (s.guarded c f.g) l || inMask (s.guarded c f.g) (l ^^^ if m.clsBit 0 then 2 else 1))
  | _ => 0

/-- The twin registers that the instruction reads as other than their writer of record, as (lane, number) (R104). -/
def State.twinNeeds (s : State) (t : Team) (c : Cur) (i : Instr) : List (Nat × Nat) :=
  let a := t.twinReads c.group (s.sources c i) i.vA
  a ++ (t.twinReads c.group (s.acting c i) (i.vUse c.rep).1).filter fun p => !a.contains p

/-- The splinter has waited for a twin register to fill, in this repeat of the instruction or an earlier one (R105). -/
def State.twinHasWaited (s : State) (c : Cur) : Bool := (lanesOf c.act).any fun l => (s.lane c.team c.group l).twinWait

/-- INFO of an illegal-instruction fault: a copy-engine instruction that fails the test of register ranges and reserved fields records
domain 1, any other 0 (R220, R238; log entry 31). -/
def illegalInfo (maj : Nat) : Nat := if maj = 0x1C then 1 else 0

/-- THE FRAME of every lane instruction: the tests that come before its own entry (R101, R99, R104), then `body` on the state
in which twin reads have been taken. -/
def issue (i : Instr) (s : State) (body : Cur → State → Act) : Res :=
  match s.cur with
  | none => .fault .noIssuer
  | some c =>
    let illegal : Act := .fault { cls := 1, mask := c.act, info := illegalInfo i.code.1 }
    if !i.inBudget (s.budget c.team c.group) then .next (illegal.finish i c s)
    else match s.team? c.team with
    | none => .next (illegal.finish i c s)
    | some t =>
      let busy := s.pendingOn c i
      if !busy.isEmpty then .next ((Act.wait [.flightsDone busy] [] none).finish i c s)
      else if t.twins.isEmpty then .next ((body c s).finish i c s)
      else
        let bad := t.twinMisuse c.group (s.acting c i) (i.vUse c.rep).2
        let reads := s.twinNeeds t c i
        if bad != 0 then .next ((Act.fault { cls := 11, mask := bad }).finish i c s)
        else
          let wt : Cond := .twinFull reads
          if !wt.holds s c.team c.group c.act then .next ((Act.wait [wt] [] none).finish i c s)
          else
            let c' := { c with twinWaited := s.twinHasWaited c }
            .next ((body c' (s.modTeam c.team fun t => t.twinTake c.group reads)).finish i c' s)

/-- The illegal-instruction fault of the whole splinter. -/
def illegalAct (c : Cur) : Act := .fault { cls := 1, mask := c.act }

/-- A lane-wise instruction that only computes: its guarded lanes write what `fx` gives. -/
def lanewise (c : Cur) (s : State) (g : BitVec 3) (fx : Nat → Fx) : Act :=
  .done (s.applyFx c.team c.group (s.guarded c g) fx)

/-- The splinter holds only helper lanes: a group-uniform instruction has no effect (R110). -/
def State.onlyHelpers (s : State) (c : Cur) : Bool := (lanesOf c.act).all fun l => (s.lane c.team c.group l).helper

/-- Read sr of the path's copy: every lane of the splinter holds the same (R97). -/
def State.rdS (s : State) (c : Cur) (r : Nat) : Word := rd (s.lane c.team c.group (lowest c.act)).s r

/-- A uniform instruction: the path's copy takes the writes, in every lane of the splinter (R63, R97, R110). -/
def uniform (c : Cur) (s : State) (fx : Fx) : Act :=
  if s.onlyHelpers c then .done s else .done (s.applyFx c.team c.group c.act fun _ => fx)

end Issue

end Sys2Proof.Machine
end

