-- ==== Sys2Proof/Machine/Flags.lean ====
section
/-!
DEFINITION. Number formats and the computation of results and flags (06_lane_numbers R115-R129): sub-elements, integer
fitting, exact values, Round with its flags, exact sums, and the generator whose words stochastic rounding draws (R173, R174).
-/
namespace Sys2Proof

section Subs

/-- Width of a sub-element's value (R115, R116, R118). -/
def Ty.width : Ty → Nat
  | .w32 | .n32 => 32
  | .f16 | .bf16 | .i16 | .n16 => 16
  | .e4m3 | .e5m2 | .i8 | .n8 => 8
  | .e3m2 | .e2m3 => 6
  | .e2m1 | .i4 | .n4 => 4

/-- Width of the container of a sub-element (R115). -/
def Ty.slot (t : Ty) : Nat := 32 / t.count

/-- Sub(w, T, j): sub-element j as raw bits (R115, R125). -/
def sub (t : Ty) (w : Word) (j : Nat) : Nat := (w.toNat >>> (t.slot * j)) % 2 ^ t.width

/-- The bits of a word that lie above the values in the containers: they are written as 0 (R115). -/
def Ty.gap : Ty → Word
  | .e3m2 | .e2m3 => 0xC0C0C0C0
  | _ => 0

/-- Put(w, T, j, bits): the word is written whole, so the bits above every 6-bit value are 0 (R115, R125). -/
def put (t : Ty) (w : Word) (j : Nat) (x : Nat) : Word :=
  let m : Word := BitVec.ofNat 32 ((2 ^ t.slot - 1) <<< (t.slot * j)) ||| t.gap
  (w &&& ~~~m) ||| BitVec.ofNat 32 ((x % 2 ^ t.width) <<< (t.slot * j))

/-- A whole word from its sub-elements (R115). -/
def pack (t : Ty) (xs : List Nat) : Word :=
  ((List.range xs.length).zip xs).foldl (fun w p => put t w p.1 p.2) 0

/-- The signed integer formats (R116); TYPE 0 is I32. -/
def Ty.signed : Ty → Bool
  | .w32 | .i16 | .i8 | .i4 => true
  | _ => false

/-- Int(bits, T) (R146). -/
def Ty.int (t : Ty) (x : Nat) : Int :=
  if t.signed && decide (2 ^ (t.width - 1) ≤ x) then (x : Int) - 2 ^ t.width else x

/-- The ends of a format's range (R116). -/
def Ty.minInt (t : Ty) : Int := if t.signed then -(2 ^ (t.width - 1)) else 0
def Ty.maxInt (t : Ty) : Int := if t.signed then 2 ^ (t.width - 1) - 1 else 2 ^ t.width - 1

/-- The low bits of an integer as a natural number. -/
def wrapInt (w : Nat) (n : Int) : Nat := (n % (2 ^ w : Int)).toNat

/-- Saturate(n, T, sat) as bits (R117, R125). -/
def saturate (t : Ty) (sat : Bool) (n : Int) : Nat :=
  wrapInt t.width (if sat then max t.minInt (min t.maxInt n) else n)

end Subs

namespace Machine

section Values

/-- An exact value (R118, R125): a sign, and a magnitude as a fraction; the denominator is never 0. -/
inductive Val where
  | nan
  | inf (neg : Bool)
  | fin (neg : Bool) (n d : Nat)
  deriving DecidableEq, Repr, Inhabited

/-- A floating-point format (R118). -/
structure Fmt where
  e      : Nat
  f      : Nat
  bias   : Nat
  hasInf : Bool
  /-- 0: none; 1: E all ones and M not zero; 2: the one encoding of E4M3 -/
  nans   : Nat
  deriving DecidableEq, Repr, Inhabited

/-- The formats of R118. -/
def fmtOf : Ty → Fmt
  | .f16 => ⟨5, 10, 15, true, 1⟩
  | .bf16 => ⟨8, 7, 127, true, 1⟩
  | .e4m3 => ⟨4, 3, 7, false, 2⟩
  | .e5m2 => ⟨5, 2, 15, true, 1⟩
  | .e3m2 => ⟨3, 2, 3, false, 0⟩
  | .e2m3 => ⟨2, 3, 1, false, 0⟩
  | .e2m1 => ⟨2, 1, 1, false, 0⟩
  | _ => ⟨8, 23, 127, true, 1⟩

/-- The exponent of the smallest normal (R122). -/
def Fmt.emin (F : Fmt) : Int := 1 - (F.bias : Int)
/-- The canonical NaN (R118). -/
def Fmt.canon (F : Fmt) : Nat :=
  if F.nans = 2 then 2 ^ (F.e + F.f) - 1 else (2 ^ F.e - 1) * 2 ^ F.f + 2 ^ (F.f - 1)
/-- The encoding of the largest finite value (R118). -/
def Fmt.maxEnc (F : Fmt) : Nat :=
  if F.hasInf then (2 ^ F.e - 1) * 2 ^ F.f - 1 else if F.nans = 2 then 2 ^ (F.e + F.f) - 2 else 2 ^ (F.e + F.f) - 1
/-- The sign bit. -/
def Fmt.signBit (F : Fmt) (neg : Bool) : Nat := if neg then 2 ^ (F.e + F.f) else 0
/-- The encoding of an infinity. -/
def Fmt.infEnc (F : Fmt) : Nat := (2 ^ F.e - 1) * 2 ^ F.f

/-- n * 2^k as a fraction. -/
def scale2 (n d : Nat) (k : Int) : Nat × Nat := if 0 ≤ k then (n * 2 ^ k.toNat, d) else (n, d * 2 ^ (-k).toNat)

/-- Widen(bits, F): the exact value of an encoding (R118, R125). -/
def widen (F : Fmt) (x : Nat) : Val :=
  let neg := decide (2 ^ (F.e + F.f) ≤ x % 2 ^ (F.e + F.f + 1))
  let E := (x >>> F.f) % 2 ^ F.e
  let M := x % 2 ^ F.f
  if F.nans = 1 ∧ E = 2 ^ F.e - 1 ∧ M ≠ 0 then .nan
  else if F.nans = 2 ∧ E = 2 ^ F.e - 1 ∧ M = 2 ^ F.f - 1 then .nan
  else if F.hasInf ∧ E = 2 ^ F.e - 1 then .inf neg
  else if E = 0 then
    let p := scale2 M 1 (F.emin - F.f)
    .fin neg p.1 p.2
  else
    let p := scale2 (2 ^ F.f + M) 1 ((E : Int) - F.bias - F.f)
    .fin neg p.1 p.2

/-- Floor(Log2(n / d)) for a positive fraction. -/
def floorLog2 (n d : Nat) : Int :=
  let k : Int := (Nat.log2 n : Int) - Nat.log2 d
  let p := scale2 d 1 k
  if p.1 ≤ n * p.2 then k else k - 1

/-- Whether a value is zero. -/
def Val.isZero : Val → Bool
  | .fin _ n _ => n == 0
  | _ => false
/-- The sign of a value. -/
def Val.neg? : Val → Bool
  | .nan => false
  | .inf s => s
  | .fin s _ _ => s
/-- The negated value. -/
def Val.negate : Val → Val
  | .nan => .nan
  | .inf s => .inf !s
  | .fin s n d => .fin (!s) n d
/-- The magnitude. -/
def Val.abs : Val → Val
  | .nan => .nan
  | .inf _ => .inf false
  | .fin _ n d => .fin false n d

/-- An integer as a value. -/
def Val.ofInt (i : Int) : Val := .fin (decide (i < 0)) i.natAbs 1
/-- 1. -/
def Val.one : Val := .fin false 1 1
/-- +0. -/
def Val.zero : Val := .fin false 0 1

/-- The exact product, and whether it is 0 * infinity (R128). -/
def Val.mul (a b : Val) : Val × Bool :=
  match a, b with
  | .nan, _ | _, .nan => (.nan, false)
  | .inf s, .inf t => (.inf (s != t), false)
  | .inf s, .fin t n _ => if n = 0 then (.nan, true) else (.inf (s != t), false)
  | .fin s n _, .inf t => if n = 0 then (.nan, true) else (.inf (s != t), false)
  | .fin s n d, .fin t n' d' => (.fin (s != t) (n * n') (d * d'), false)

/-- A value times 2^k. -/
def Val.mul2 (a : Val) (k : Int) : Val :=
  match a with
  | .fin s n d => let p := scale2 n d k; .fin s p.1 p.2
  | a => a

/-- 1 / a for a finite non-zero value. -/
def Val.recip : Val → Val
  | .fin s n d => .fin s d n
  | a => a

/-- The signed numerator over a given denominator. -/
def signedNum (neg : Bool) (n : Nat) : Int := if neg then -(n : Int) else n

/-- The exact sum of two finite values, zero positive. -/
def addFin (a b : Int × Nat) : Int × Nat := (a.1 * b.2 + b.1 * a.2, a.2 * b.2)

/-- SumExact (R128): the terms, each with whether it is a product 0 * infinity; answers the sum and whether IV is set. -/
def sumTerms (rdn : Bool) (ts : List (Val × Bool)) : Val × Bool :=
  let vs := ts.map Prod.fst
  let pos := vs.contains (.inf false)
  let neg := vs.contains (.inf true)
  let iv := ts.any Prod.snd || (pos && neg)
  if vs.contains .nan || iv then (.nan, iv)
  else if pos then (.inf false, false)
  else if neg then (.inf true, false)
  else
    let r := vs.foldl (fun acc v => match v with | .fin s n d => addFin acc (signedNum s n, d) | _ => acc) ((0 : Int), 1)
    if r.1 = 0 then
      (.fin (rdn || vs.all fun v => v.neg?) 0 1, false)
    else (.fin (decide (r.1 < 0)) r.1.natAbs r.2, false)

/-- SumExact of plain values. -/
def sumExact (rdn : Bool) (vs : List Val) : Val × Bool := sumTerms rdn (vs.map fun v => (v, false))

/-- a < b on values that are not NaN; -0 equals +0. -/
def Val.lt (a b : Val) : Bool :=
  match a, b with
  | .nan, _ | _, .nan => false
  | .inf s, .inf t => s && !t
  | .inf s, .fin .. => s
  | .fin .., .inf t => !t
  | .fin s n d, .fin t n' d' => decide (signedNum s n * d' < signedNum t n' * d)
/-- a = b on values; NaN equals nothing. -/
def Val.eqv (a b : Val) : Bool :=
  match a, b with
  | .nan, _ | _, .nan => false
  | .inf s, .inf t => s == t
  | .fin s n d, .fin t n' d' => decide (signedNum s n * d' = signedNum t n' * d)
  | _, _ => false
/-- a ≤ b. -/
def Val.le (a b : Val) : Bool := a.lt b || a.eqv b
/-- NaN. -/
def Val.isNan : Val → Bool
  | .nan => true
  | _ => false
/-- An infinity. -/
def Val.isInf : Val → Bool
  | .inf _ => true
  | _ => false

end Values

section Rounding

/-- The flags of xfpstat (R120). -/
def flagIV : Word := 1
def flagDZ : Word := 2
def flagOF : Word := 4
def flagUF : Word := 8
def flagNX : Word := 16
def flagSV : Word := 32

/-- The up-test of R122 for a remainder r of den (0 ≤ r < den), a grid number n and the sign. -/
def roundUp (mode : Rnd) (neg : Bool) (n r den : Nat) (w : Word) : Bool :=
  match mode with
  | .rne => decide (den < 2 * r) || (decide (2 * r = den) && n % 2 == 1)
  | .rna => decide (den ≤ 2 * r)
  | .rz => false
  | .rup => decide (0 < r) && !neg
  | .rdn => decide (0 < r) && neg
  | .rs => decide (w.toNat < r * 2 ^ 32 / den)

/-- ToInf(mode, sign) (R122). -/
def toInf (mode : Rnd) (neg : Bool) : Bool :=
  match mode with
  | .rne | .rna | .rs => true
  | .rz => false
  | .rup => !neg
  | .rdn => neg

/-- The encoding of n steps of the grid at exponent e: n * 2^(e - f), which lies on the format's grid. -/
def Fmt.encode (F : Fmt) (n : Nat) (e : Int) : Nat :=
  if n < 2 ^ F.f then n
  else if n < 2 ^ (F.f + 1) then ((e + F.bias).toNat) * 2 ^ F.f + (n - 2 ^ F.f)
  else ((e + 1 + F.bias).toNat) * 2 ^ F.f

/-- Round (R122): the encoding and the flags it sets; `w` is the word that RS draws. -/
def roundTo (F : Fmt) (mode : Rnd) (sat ftz : Bool) (w : Word) (x : Val) : Nat × Word :=
  match x with
  | .nan => if F.nans ≠ 0 then (F.canon, 0) else (0, flagIV)
  | .inf s => if F.hasInf && !sat then (F.signBit s + F.infEnc, 0) else (F.signBit s + F.maxEnc, flagSV)
  | .fin s n d =>
    if n = 0 then (F.signBit s, 0)
    else
      let e := max (floorLog2 n d) F.emin
      let p := scale2 n d (F.f - e)
      let k := p.1 / p.2
      let r := p.1 % p.2
      let m := if roundUp mode s k r p.2 w then k + 1 else k
      let enc := F.encode m e
      if F.maxEnc < enc then
        if F.hasInf && !sat && toInf mode s then (F.signBit s + F.infEnc, flagOF ||| flagNX)
        else (F.signBit s + F.maxEnc, flagOF ||| flagNX ||| flagSV)
      else if enc < 2 ^ F.f && ftz && F.f == 23 then (F.signBit s, flagUF ||| flagNX)
      else if r = 0 then (F.signBit s + enc, 0)
      else (F.signBit s + enc, flagNX ||| (if enc < 2 ^ F.f then flagUF else 0))

/-- Round to F32 under RNE with no saturation, no flush, no flags and no word (R167). -/
def rne32 (x : Val) : Nat := (roundTo (fmtOf .w32) .rne false false 0 x).1
/-- The value of an F32 encoding. -/
def f32 (x : Nat) : Val := widen (fmtOf .w32) x
/-- The F32 value nearest a value. -/
def r32 (x : Val) : Val := f32 (rne32 x)

/-- RoundInt(x, mode) of a finite value (R125): the integer's magnitude; the sign is the value's. -/
def roundInt (mode : Rnd) (w : Word) (s : Bool) (n d : Nat) : Nat :=
  if roundUp mode s (n / d) (n % d) d w then n / d + 1 else n / d

/-- IsNegVar (R125). -/
def isNegVar (x : Val) : Bool := x.lt .zero

/-- Flush a subnormal F32 input (R124). -/
def flushIn (ftz : Bool) (t : Ty) (x : Nat) : Nat :=
  if ftz && t == .w32 && (x >>> 23) % 256 == 0 then x / 2 ^ 31 * 2 ^ 31 else x

/-- Floor of the square root, b bits. -/
def isqrtGo (n : Nat) : Nat → Nat → Nat
  | 0, r => r
  | b + 1, r => let r' := r + 2 ^ b; isqrtGo n b (if r' * r' ≤ n then r' else r)
/-- Floor of the square root. -/
def isqrt (n : Nat) : Nat := isqrtGo n (Nat.log2 n / 2 + 1) 0

/-- The square root of a fraction to beyond every bit that a Round can look at: exact when it is rational on that grid, else
the middle of the grid interval that holds it (R165; log entry 7). -/
def sqrtVal (n d : Nat) : Val :=
  let k := 128 + Nat.log2 d
  let t := n * d * 4 ^ k
  let r := isqrt t
  if r * r = t then .fin false r (d * 2 ^ k) else .fin false (2 * r + 1) (2 * d * 2 ^ k)

end Rounding

section Generator

/-- A 32-bit left rotation. -/
def rotl (x : Word) (k : Nat) : Word := x.rotateLeft k

/-- The ChaCha quarter round of RFC 8439 on words a, b, c, d of the state. -/
def quarter (st : List Word) (a b c d : Nat) : List Word :=
  let x := rd st a; let y := rd st b; let z := rd st c; let u := rd st d
  let x := x + y; let u := rotl (u ^^^ x) 16
  let z := z + u; let y := rotl (y ^^^ z) 12
  let x := x + y; let u := rotl (u ^^^ x) 8
  let z := z + u; let y := rotl (y ^^^ z) 7
  wr (wr (wr (wr st a x) b y) c z) d u

/-- A double round: columns, then diagonals. -/
def doubleRound (st : List Word) : List Word :=
  let st := quarter (quarter (quarter (quarter st 0 4 8 12) 1 5 9 13) 2 6 10 14) 3 7 11 15
  quarter (quarter (quarter (quarter st 0 5 10 15) 1 6 11 12) 2 7 8 13) 3 4 9 14

/-- Block(K, P, stream) (R173): eight rounds. -/
def chachaBlock (key : List Word) (pos stream : BitVec 64) : List Word :=
  let st : List Word := [0x61707865, 0x3320646E, 0x79622D32, 0x6B206574] ++ (List.range 8).map (rd key) ++
    [pos.extractLsb' 0 32, pos.extractLsb' 32 32, stream.extractLsb' 0 32, stream.extractLsb' 32 32]
  let out := doubleRound (doubleRound (doubleRound (doubleRound st)))
  (List.range 16).map fun i => rd out i + rd st i

/-- What a lane draws with: key, stream and lane number (R174). -/
structure Gen where
  key    : List Word
  stream : BitVec 64
  lane   : Nat

/-- What a lane's computation has left behind: its generator position and the flags set. -/
structure Eff where
  pos   : BitVec 64
  flags : Word := 0

/-- Draw one word (R174). -/
def Gen.draw (g : Gen) (e : Eff) : Word × Eff :=
  (rd (chachaBlock g.key e.pos g.stream) (g.lane % 16), { e with pos := e.pos + 1 })

/-- Round with its drawn word and its flags (R122, R123). -/
def Gen.round (g : Gen) (F : Fmt) (mode : Rnd) (sat ftz : Bool) (e : Eff) (x : Val) : Nat × Eff :=
  match mode with
  | .rs =>
    let (w, e1) := g.draw e
    let (r, fl) := roundTo F mode sat ftz w x
    (r, { e1 with flags := e1.flags ||| fl })
  | _ =>
    let (r, fl) := roundTo F mode sat ftz 0 x
    (r, { e with flags := e.flags ||| fl })

/-- Set a flag. -/
def Eff.set (e : Eff) (f : Word) : Eff := { e with flags := e.flags ||| f }
/-- Set a flag when a condition holds. -/
def Eff.setIf (e : Eff) (c : Bool) (f : Word) : Eff := if c then e.set f else e

/-- The rounding mode and flush of an instruction of majors 0x11-0x14 and 0x1A (R121). -/
def fpModeOf (m : Mods) (ctl : Word) : Rnd × Bool :=
  match m.x with
  | some x => (x.rnd, x.cls.getLsbD 0)
  | none => ((match bits ctl 1 3 with | 0 => .rne | 1 => .rz | 2 => .rup | 3 => .rdn | 4 => .rna | _ => .rs), ctl.getLsbD 0)

end Generator

end Machine
end Sys2Proof
end

