-- ==== Sys2Proof/Machine/IntOps.lean ====
section
/-!
DEFINITION. The integer and move instructions: majors 0x05 to 0x10 and the 16-bit form (07_lane_control_integer R146-R155).
-/
namespace Sys2Proof.Machine
open Sys2Proof

section Words

/-- Compute sub-element by sub-element on integers and fit (R146). -/
def perSub (t : Ty) (sat : Bool) (op : Int → Int → Int → Int) (a b d : Word) : Word :=
  pack t ((List.range t.count).map fun j =>
    saturate t sat (op (t.int (sub t a j)) (t.int (sub t b j)) (t.int (sub t d j))))

/-- Compute sub-element by sub-element on bits. -/
def perBits (t : Ty) (op : Nat → Nat → Nat) (a b : Word) : Word :=
  pack t ((List.range t.count).map fun j => op (sub t a j) (sub t b j))

/-- SHL (R148): exact, then fitted; a count of the width or more of a value that is not 0 lies outside every range. -/
def shlInt (t : Ty) (a : Int) (c : Nat) : Int := if a = 0 then 0 else a * 2 ^ (min c (2 * t.width))
/-- SHRL (R148). -/
def shrlBits (a c : Nat) : Nat := if 32 ≤ c then 0 else a >>> c
/-- SHRA (R148): all sign bits when the count reaches the width. Signedness affects it, so that a value of an unsigned type, whose sign
is never negative, is filled with zeros (DEDUCED, log entry 84). -/
def shraBits (t : Ty) (a c : Nat) : Nat := wrapInt t.width (t.int a / 2 ^ (min c t.width))
/-- ROT (R148). -/
def rotBits (t : Ty) (a c : Nat) : Nat :=
  let w := t.width
  let k := c % w
  (a <<< k) % 2 ^ w + a >>> (w - k)
/-- BFX (R148). -/
def bfxWord (t : Ty) (a b : Word) : Word :=
  let n := min (bits b 8 6) 32
  let o := bits b 0 5
  let x := (a.toNat >>> o) % 2 ^ n
  if n = 0 then 0
  else BitVec.ofInt 32 (if t.signed && decide (2 ^ (n - 1) ≤ x) then (x : Int) - 2 ^ n else x)
/-- BFI (R148). -/
def bfiWord (a b d : Word) : Word :=
  let n := min (bits b 8 6) 32
  let o := bits b 0 5
  let m : Word := BitVec.ofNat 32 ((2 ^ n - 1) <<< o)
  (d &&& ~~~m) ||| (BitVec.ofNat 32 (a.toNat <<< o) &&& m)
/-- Number of one bits among the low w. -/
def popcount (x : Nat) : Nat → Nat
  | 0 => 0
  | w + 1 => popcount x w + (if x.testBit w then 1 else 0)
/-- Number of leading zeros of a w-bit value. -/
def leadingZeros (x : Nat) : Nat → Nat
  | 0 => 0
  | w + 1 => if x.testBit w then 0 else leadingZeros x w + 1
/-- The bits of a w-bit value in reverse order. -/
def revBits (x : Nat) : Nat → Nat
  | 0 => 0
  | w + 1 => revBits (x / 2) w + (x % 2) * 2 ^ w
/-- IMULH (R149): the high w bits of the 2w-bit product. -/
def mulHigh (t : Ty) (a b : Int) : Int := a * b / 2 ^ t.width
/-- ISET's condition (R150). -/
def intCond (cc : Nat) (a b : Int) : Bool :=
  match cc with
  | 0 => decide (a = b) | 1 => decide (a ≠ b) | 2 => decide (a < b) | 3 => decide (a ≤ b) | 4 => decide (b < a)
  | _ => decide (b ≤ a)
/-- ISET over every sub-element (R150). -/
def isetWord (t : Ty) (cc : Nat) (a b : Word) : Bool :=
  (List.range t.count).all fun j => intCond cc (t.int (sub t a j)) (t.int (sub t b j))
/-- IADDC (R149): the sum and the carry out. -/
def addCarry (a b : Word) (ci : Bool) : Word × Bool :=
  let n := a.toNat + b.toNat + ci.toNat
  (BitVec.ofNat 32 n, decide (2 ^ 32 ≤ n))
/-- EXT (R150). -/
def extWord (t : Ty) (a : Word) (j : Nat) : Word := BitVec.ofInt 32 (t.int (sub t a j))
/-- MOVI (R150): under a packed TYPE the immediate is fitted to each sub-element. -/
def moviWord (t : Ty) (sat : Bool) (imm : Int) : Word :=
  pack t ((List.range t.count).map fun _ => saturate t sat imm)
/-- The immediate of an I-form instruction (R52). -/
def immOf (m : Mods) (imm : BitVec 9) : Int :=
  match m.k with
  | some k => (k ++ imm : BitVec 30).toInt
  | none => imm.toInt
/-- The predicate writes of a predicate destination (R54); `free` is what one predicate named in both parts takes, which the
spec does not state (log entry 8). -/
def predWrites (free : Bool) (d : BitVec 6) (b : Bool) : List (Nat × Bool) :=
  if d.toNat % 8 = d.toNat / 8 then [(d.toNat % 8, free)] else [(d.toNat % 8, b), (d.toNat / 8, !b)]

/-- What each three-operand integer instruction computes from A, B and the old D (R147-R149). -/
inductive IntOp where
  | add | sub | and | or | xor | min | max | shl | shrl | shra | rot | bfx | bfi | popc | clz | mul | mulh | mad | lea
  | brev | abs | neg | mov | not | ext
  deriving DecidableEq, Repr, Inhabited

/-- The result word of an integer operation; `j` is field B as a number (EXT). -/
def IntOp.word (o : IntOp) (m : Mods) (j : Nat) (a b d : Word) : Word :=
  let t := m.ty
  match o with
  | .add => perSub t m.sat (fun a b _ => a + b) a b d
  | .sub => perSub t m.sat (fun a b _ => a - b) a b d
  | .and => a &&& b
  | .or => a ||| b
  | .xor => a ^^^ b
  | .min => perSub t false (fun a b _ => if b < a then b else a) a b d
  | .max => perSub t false (fun a b _ => if a < b then b else a) a b d
  | .shl => pack t ((List.range t.count).map fun i => saturate t m.sat (shlInt t (t.int (Sys2Proof.sub t a i)) (Sys2Proof.sub t b i)))
  | .shrl => perBits t shrlBits a b
  | .shra => perBits t (shraBits t) a b
  | .rot => perBits t (rotBits t) a b
  | .bfx => bfxWord t a b
  | .bfi => bfiWord a b d
  | .popc => perBits t (fun x _ => popcount x t.width) a b
  | .clz => perBits t (fun x _ => leadingZeros x t.width) a b
  | .mul => perSub t m.sat (fun a b _ => a * b) a b d
  | .mulh => perSub t false (fun a b _ => mulHigh t a b) a b d
  | .mad => perSub t m.sat (fun a b d => a * b + d) a b d
  | .lea => perSub t m.sat (fun a b _ => a + b * 2 ^ m.clsField 0 3) a b d
  | .brev => perBits t (fun x _ => revBits x t.width) a b
  | .abs => perSub t m.sat (fun a _ _ => (a.natAbs : Int)) a b d
  | .neg => perSub t m.sat (fun a _ _ => -a) a b d
  | .mov => a
  | .not => ~~~a
  | .ext => extWord t a j

end Words

section Forms

/-- An integer instruction on vector registers (R146). -/
def intV (o : IntOp) (i : Instr) (m : Mods) (f : RForm) (s : State) : Res :=
  issue i s fun c s =>
    let f := f.at m c.rep
    let r (l : Nat) (x : BitVec 6) : Word := s.rdV c.team c.group l x.toNat
    lanewise c s f.g fun l => { v := [(f.d.toNat, o.word m f.b.toNat (r l f.a) (r l f.b) (r l f.d))] }

/-- The same on the path's uniform registers (R152). -/
def intU (o : IntOp) (i : Instr) (m : Mods) (f : RForm) (s : State) : Res :=
  issue i s fun c s =>
    let f := f.at m c.rep
    let r (x : BitVec 6) : Word := s.rdS c x.toNat
    uniform c s { s := [(f.d.toNat, o.word m f.b.toNat (r f.a) (r f.b) (r f.d))] }

/-- The 16-bit form: A = D, B = S, guard p0, no prefix (R49). -/
def intH (o : IntOp) (i : Instr) (f : HForm) (s : State) : Res :=
  issue i s fun c s =>
    let r (l : Nat) (x : BitVec 5) : Word := s.rdV c.team c.group l x.toNat
    lanewise c s 0 fun l => { v := [(f.d.toNat, o.word {} 0 (r l f.d) (r l f.s) (r l f.d))] }

end Forms

section Meanings

/-- IADD (R147). -/
def execIadd (m : Mods) (f : RForm) (s : State) : Res := intV .add (.iadd m f) m f s
/-- ISUB (R147). -/
def execIsub (m : Mods) (f : RForm) (s : State) : Res := intV .sub (.isub m f) m f s
/-- IAND (R147). -/
def execIand (m : Mods) (f : RForm) (s : State) : Res := intV .and (.iand m f) m f s
/-- IOR (R147). -/
def execIor (m : Mods) (f : RForm) (s : State) : Res := intV .or (.ior m f) m f s
/-- IXOR (R147). -/
def execIxor (m : Mods) (f : RForm) (s : State) : Res := intV .xor (.ixor m f) m f s
/-- IMIN (R147). -/
def execImin (m : Mods) (f : RForm) (s : State) : Res := intV .min (.imin m f) m f s
/-- IMAX (R147). -/
def execImax (m : Mods) (f : RForm) (s : State) : Res := intV .max (.imax m f) m f s
/-- SHL (R148). -/
def execShl (m : Mods) (f : RForm) (s : State) : Res := intV .shl (.shl m f) m f s
/-- SHRL (R148). -/
def execShrl (m : Mods) (f : RForm) (s : State) : Res := intV .shrl (.shrl m f) m f s
/-- SHRA (R148). -/
def execShra (m : Mods) (f : RForm) (s : State) : Res := intV .shra (.shra m f) m f s
/-- ROT (R148). -/
def execRot (m : Mods) (f : RForm) (s : State) : Res := intV .rot (.rot m f) m f s
/-- BFX (R148). -/
def execBfx (m : Mods) (f : RForm) (s : State) : Res := intV .bfx (.bfx m f) m f s
/-- BFI (R148). -/
def execBfi (m : Mods) (f : RForm) (s : State) : Res := intV .bfi (.bfi m f) m f s
/-- POPC (R148). -/
def execPopc (m : Mods) (f : RForm) (s : State) : Res := intV .popc (.popc m f) m f s
/-- CLZ (R148). -/
def execClz (m : Mods) (f : RForm) (s : State) : Res := intV .clz (.clz m f) m f s
/-- IMUL (R149). -/
def execImul (m : Mods) (f : RForm) (s : State) : Res := intV .mul (.imul m f) m f s
/-- IMULH (R149). -/
def execImulh (m : Mods) (f : RForm) (s : State) : Res := intV .mulh (.imulh m f) m f s
/-- IMAD (R149). -/
def execImad (m : Mods) (f : RForm) (s : State) : Res := intV .mad (.imad m f) m f s
/-- LEA (R149). -/
def execLea (m : Mods) (f : RForm) (s : State) : Res := intV .lea (.lea m f) m f s
/-- BREV (R149). -/
def execBrev (m : Mods) (f : RForm) (s : State) : Res := intV .brev (.brev m f) m f s
/-- IABS (R149). -/
def execIabs (m : Mods) (f : RForm) (s : State) : Res := intV .abs (.iabs m f) m f s
/-- INEG (R149). -/
def execIneg (m : Mods) (f : RForm) (s : State) : Res := intV .neg (.ineg m f) m f s
/-- MOV (R150). -/
def execMov (m : Mods) (f : RForm) (s : State) : Res := intV .mov (.mov m f) m f s
/-- INOT (R150). -/
def execInot (m : Mods) (f : RForm) (s : State) : Res := intV .not (.inot m f) m f s
/-- EXT (R150). -/
def execExt (m : Mods) (f : RForm) (s : State) : Res := intV .ext (.ext m f) m f s
/-- ISEL (R147): the selecting predicate is X.CLS[17:15]. -/
def execIsel (m : Mods) (f : RForm) (s : State) : Res :=
  issue (.isel m f) s fun c s =>
    let f := f.at m c.rep
    lanewise c s f.g fun l =>
      let p := (s.lane c.team c.group l).pred (m.clsField 0 3)
      { v := [(f.d.toNat, if p then s.rdV c.team c.group l f.a.toNat else s.rdV c.team c.group l f.b.toNat)] }
/-- IADDC (R149, R151): the carry predicate is X.CLS[17:15]; with 0 the carry in is 0. -/
def execIaddc (m : Mods) (f : RForm) (s : State) : Res :=
  issue (.iaddc m f) s fun c s =>
    let f := f.at m c.rep
    let p := m.clsField 0 3
    lanewise c s f.g fun l =>
      let r := addCarry (s.rdV c.team c.group l f.a.toNat) (s.rdV c.team c.group l f.b.toNat)
        (p != 0 && (s.lane c.team c.group l).pred p)
      { v := [(f.d.toNat, r.1)], p := [(p, r.2)] }
/-- ISET (R150, R151). -/
def execIset (m : Mods) (f : RForm) (s : State) : Res :=
  issue (.iset m f) s fun c s =>
    let f := f.at m c.rep
    lanewise c s f.g fun l =>
      { p := predWrites (s.flip 0 0) f.d (isetWord m.ty (m.clsField 0 3) (s.rdV c.team c.group l f.a.toNat) (s.rdV c.team c.group l f.b.toNat)) }
/-- PLOP (R150, R151): bit a + 2b of the truth table X.CLS[18:15]. -/
def execPlop (m : Mods) (f : RForm) (s : State) : Res :=
  issue (.plop m f) s fun c s =>
    let f := f.at m c.rep
    lanewise c s f.g fun l =>
      let ln := s.lane c.team c.group l
      let k := (ln.pred f.a.toNat).toNat + 2 * (ln.pred f.b.toNat).toNat
      { p := predWrites (s.flip 0 0) f.d (m.clsBit k) }
/-- IADDI (R150). -/
def execIaddi (m : Mods) (f : IForm) (s : State) : Res :=
  issue (.iaddi m f) s fun c s =>
    let f := f.at m c.rep
    lanewise c s f.g fun l =>
      let a := s.rdV c.team c.group l f.a.toNat
      { v := [(f.d.toNat, perSub m.ty m.sat (fun a _ _ => a + immOf m f.imm) a a a)] }
/-- MOVI (R150). -/
def execMovi (m : Mods) (f : IForm) (s : State) : Res :=
  issue (.movi m f) s fun c s =>
    let f := f.at m c.rep
    lanewise c s f.g fun _ => { v := [(f.d.toNat, moviWord m.ty m.sat (immOf m f.imm))] }
/-- Uniform IADD (R152). -/
def execIaddU (m : Mods) (f : RForm) (s : State) : Res := intU .add (.iaddU m f) m f s
/-- Uniform ISUB (R152). -/
def execIsubU (m : Mods) (f : RForm) (s : State) : Res := intU .sub (.isubU m f) m f s
/-- Uniform IAND (R152). -/
def execIandU (m : Mods) (f : RForm) (s : State) : Res := intU .and (.iandU m f) m f s
/-- Uniform IOR (R152). -/
def execIorU (m : Mods) (f : RForm) (s : State) : Res := intU .or (.iorU m f) m f s
/-- Uniform IXOR (R152). -/
def execIxorU (m : Mods) (f : RForm) (s : State) : Res := intU .xor (.ixorU m f) m f s
/-- Uniform IMIN (R152). -/
def execIminU (m : Mods) (f : RForm) (s : State) : Res := intU .min (.iminU m f) m f s
/-- Uniform IMAX (R152). -/
def execImaxU (m : Mods) (f : RForm) (s : State) : Res := intU .max (.imaxU m f) m f s
/-- Uniform SHL (R152). -/
def execShlU (m : Mods) (f : RForm) (s : State) : Res := intU .shl (.shlU m f) m f s
/-- Uniform SHRL (R152). -/
def execShrlU (m : Mods) (f : RForm) (s : State) : Res := intU .shrl (.shrlU m f) m f s
/-- Uniform SHRA (R152). -/
def execShraU (m : Mods) (f : RForm) (s : State) : Res := intU .shra (.shraU m f) m f s
/-- Uniform ROT (R152). -/
def execRotU (m : Mods) (f : RForm) (s : State) : Res := intU .rot (.rotU m f) m f s
/-- Uniform BFX (R152). -/
def execBfxU (m : Mods) (f : RForm) (s : State) : Res := intU .bfx (.bfxU m f) m f s
/-- Uniform BFI (R152). -/
def execBfiU (m : Mods) (f : RForm) (s : State) : Res := intU .bfi (.bfiU m f) m f s
/-- Uniform POPC (R152). -/
def execPopcU (m : Mods) (f : RForm) (s : State) : Res := intU .popc (.popcU m f) m f s
/-- Uniform CLZ (R152). -/
def execClzU (m : Mods) (f : RForm) (s : State) : Res := intU .clz (.clzU m f) m f s
/-- Uniform IMUL (R152). -/
def execImulU (m : Mods) (f : RForm) (s : State) : Res := intU .mul (.imulU m f) m f s
/-- Uniform IMULH (R152). -/
def execImulhU (m : Mods) (f : RForm) (s : State) : Res := intU .mulh (.imulhU m f) m f s
/-- Uniform IMAD (R152). -/
def execImadU (m : Mods) (f : RForm) (s : State) : Res := intU .mad (.imadU m f) m f s
/-- Uniform LEA (R152). -/
def execLeaU (m : Mods) (f : RForm) (s : State) : Res := intU .lea (.leaU m f) m f s
/-- Uniform BREV (R152). -/
def execBrevU (m : Mods) (f : RForm) (s : State) : Res := intU .brev (.brevU m f) m f s
/-- Uniform IABS (R152). -/
def execIabsU (m : Mods) (f : RForm) (s : State) : Res := intU .abs (.iabsU m f) m f s
/-- Uniform INEG (R152). -/
def execInegU (m : Mods) (f : RForm) (s : State) : Res := intU .neg (.inegU m f) m f s
/-- Uniform MOV (R152). -/
def execMovU (m : Mods) (f : RForm) (s : State) : Res := intU .mov (.movU m f) m f s
/-- Uniform INOT (R152). -/
def execInotU (m : Mods) (f : RForm) (s : State) : Res := intU .not (.inotU m f) m f s
/-- Uniform EXT (R152). -/
def execExtU (m : Mods) (f : RForm) (s : State) : Res := intU .ext (.extU m f) m f s
/-- Uniform IADDC (R152): carry in from the lowest active lane, carry out to every active lane. -/
def execIaddcU (m : Mods) (f : RForm) (s : State) : Res :=
  issue (.iaddcU m f) s fun c s =>
    let f := f.at m c.rep
    let p := m.clsField 0 3
    let r := addCarry (s.rdS c f.a.toNat) (s.rdS c f.b.toNat)
      (p != 0 && (s.lane c.team c.group (lowest c.act)).pred p)
    uniform c s { s := [(f.d.toNat, r.1)], p := [(p, r.2)] }
/-- Uniform ISET (R63, R152): the result goes to the predicate of every active lane. -/
def execIsetU (m : Mods) (f : RForm) (s : State) : Res :=
  issue (.isetU m f) s fun c s =>
    let f := f.at m c.rep
    uniform c s { p := predWrites (s.flip 0 0) f.d (isetWord m.ty (m.clsField 0 3) (s.rdS c f.a.toNat) (s.rdS c f.b.toNat)) }
/-- Uniform IADDI (R152). -/
def execIaddiU (m : Mods) (f : IForm) (s : State) : Res :=
  issue (.iaddiU m f) s fun c s =>
    let f := f.at m c.rep
    let a := s.rdS c f.a.toNat
    uniform c s { s := [(f.d.toNat, perSub m.ty m.sat (fun a _ _ => a + immOf m f.imm) a a a)] }
/-- Uniform MOVI (R152). -/
def execMoviU (m : Mods) (f : IForm) (s : State) : Res :=
  issue (.moviU m f) s fun c s =>
    let f := f.at m c.rep
    uniform c s { s := [(f.d.toNat, moviWord m.ty m.sat (immOf m f.imm))] }
/-- 16-bit IADD (R49, R153). -/
def execIaddW16 (f : HForm) (s : State) : Res := intH .add (.iaddW16 f) f s
/-- 16-bit ISUB (R49, R153). -/
def execIsubW16 (f : HForm) (s : State) : Res := intH .sub (.isubW16 f) f s
/-- 16-bit IAND (R49, R153). -/
def execIandW16 (f : HForm) (s : State) : Res := intH .and (.iandW16 f) f s
/-- 16-bit IOR (R49, R153). -/
def execIorW16 (f : HForm) (s : State) : Res := intH .or (.iorW16 f) f s
/-- 16-bit IXOR (R49, R153). -/
def execIxorW16 (f : HForm) (s : State) : Res := intH .xor (.ixorW16 f) f s
/-- 16-bit SHL (R49, R153). -/
def execShlW16 (f : HForm) (s : State) : Res := intH .shl (.shlW16 f) f s
/-- 16-bit SHRL (R49, R153). -/
def execShrlW16 (f : HForm) (s : State) : Res := intH .shrl (.shrlW16 f) f s
/-- 16-bit SHRA (R49, R153). -/
def execShraW16 (f : HForm) (s : State) : Res := intH .shra (.shraW16 f) f s
/-- 16-bit IMUL (R49, R153). -/
def execImulW16 (f : HForm) (s : State) : Res := intH .mul (.imulW16 f) f s
/-- 16-bit MOV (R49): S to D. -/
def execMovW16 (f : HForm) (s : State) : Res :=
  issue (.movW16 f) s fun c s => lanewise c s 0 fun l => { v := [(f.d.toNat, s.rdV c.team c.group l f.s.toNat)] }
/-- 16-bit IADDI (R49): S as a signed 5-bit immediate. -/
def execIaddiW16 (f : HForm) (s : State) : Res :=
  issue (.iaddiW16 f) s fun c s =>
    lanewise c s 0 fun l => { v := [(f.d.toNat, s.rdV c.team c.group l f.d.toNat + BitVec.signExtend 32 f.s)] }

end Meanings

end Sys2Proof.Machine
end

