-- ==== Sys2Proof/Machine/Control.lean ====
section
/-!
DEFINITION. Control flow, meeting, voting, shuffling and the special registers: majors 0x00 to 0x04 but for FN 3-7 of 0x03
(07_lane_control_integer R130-R145).
-/
namespace Sys2Proof.Machine
open Sys2Proof

section Branches

/-- The target of a B-form instruction (R53). -/
def bTarget (m : Mods) (f : BForm) (pc : Code) : Code :=
  match m.k with
  | some k => pc + (BitVec.signExtend 56 (k ++ f.off : BitVec 42)) * 2
  | none => pc + (BitVec.signExtend 56 f.off) * 2

/-- Some lane of a mask is outside the other and some inside (R92). -/
def splits (act m : BitVec 32) : Bool := m != 0 && m != act

/-- Lanes of a mask go to their targets, the others to the next instruction (R132); divergent as R92 says. R92 names BRX and CALLX for
unequal targets; that a RET whose lanes compute unequal targets is divergent too is DEDUCED (log entry 85). -/
def branchTo (c : Cur) (s : State) (m : BitVec 32) (tgt : Nat → Code) : Act :=
  let uneven := (lanesOf m).any fun l => tgt l != tgt (lowest m)
  .jump s (fun l => if inMask m l then tgt l else c.next) (splits c.act m || uneven)

/-- BRA (R132). -/
def execBra (m : Mods) (f : BForm) (s : State) : Res :=
  issue (.bra m f) s fun c s => branchTo c s (s.guarded c f.g) fun _ => bTarget m f c.pc
/-- CALL (R132): v7 takes the code value of the next instruction. -/
def execCall (m : Mods) (f : BForm) (s : State) : Res :=
  issue (.call m f) s fun c s =>
    let g := s.guarded c f.g
    let link := codeValue (s.codeBase c.team) c.next
    branchTo c (s.applyFx c.team c.group g fun _ => { v := [(7, link)] }) g fun _ => bTarget m f c.pc
/-- BRX (R132). -/
def execBrx (m : Mods) (f : RForm) (s : State) : Res :=
  issue (.brx m f) s fun c s =>
    let base := s.codeBase c.team
    branchTo c s (s.guarded c f.g) fun l => codeAddr base (s.rdV c.team c.group l f.a.toNat)
/-- CALLX (R132): vA is read before vD is written. -/
def execCallx (m : Mods) (f : RForm) (s : State) : Res :=
  issue (.callx m f) s fun c s =>
    let base := s.codeBase c.team
    let g := s.guarded c f.g
    branchTo c (s.applyFx c.team c.group g fun _ => { v := [(f.d.toNat, codeValue base c.next)] }) g
      fun l => codeAddr base (s.rdV c.team c.group l f.a.toNat)
/-- RET (R132). -/
def execRet (m : Mods) (f : RForm) (s : State) : Res :=
  issue (.ret m f) s fun c s =>
    let base := s.codeBase c.team
    branchTo c s (s.guarded c f.g) fun l => codeAddr base (s.rdV c.team c.group l f.a.toNat)

/-- EXIT (R134). -/
def execExit (m : Mods) (f : RForm) (s : State) : Res :=
  issue (.exit m f) s fun c s =>
    .done (s.mapLanes c.team c.group (s.guarded c f.g) fun _ l => { l with exited := true, wait := none })
/-- YIELD (R135): the mark that RUN_GRANT looks at; the run ends (R105). -/
def execYield (m : Mods) (f : RForm) (s : State) : Res :=
  issue (.yield m f) s fun c s =>
    .done (if s.guarded c f.g == 0 then s else s.modGroup c.team c.group fun g => { g with yielded := true })
/-- NOP (R136). -/
def execNop (m : Mods) (f : RForm) (s : State) : Res := issue (.nop m f) s fun _ s => .done s

end Branches

section Meeting

/-- The label of MEET (R137). -/
def meetTarget (m : Mods) (f : RForm) (pc : Code) : Code :=
  match m.k with
  | some k => pc + (BitVec.signExtend 56 (k ++ f.b ++ f.a : BitVec 33)) * 2
  | none => pc + (BitVec.signExtend 56 (f.b ++ f.a : BitVec 12)) * 2

/-- A meeting address as a signed offset in halfwords from another address; 0x8000_0000 is none (R95, R141). -/
def meetOffset (meet : Option Code) (frm : Code) : Word :=
  match meet with
  | some a => codeValue frm a
  | none => 0x80000000

/-- MEET (R95, R137). -/
def execMeet (m : Mods) (f : RForm) (s : State) : Res :=
  issue (.meet m f) s fun c s =>
    let a := meetTarget m f c.pc
    lanewise c s f.g fun l =>
      { v := [(f.d.toNat, meetOffset (s.lane c.team c.group l).meet a)], other := fun ln => { ln with meet := some a } }
/-- MEETR (R95, R137). -/
def execMeetr (m : Mods) (f : RForm) (s : State) : Res :=
  issue (.meetr m f) s fun c s =>
    lanewise c s f.g fun l =>
      let v := s.rdV c.team c.group l f.a.toNat
      { other := fun ln => { ln with meet := if v == 0x80000000 then none else ln.meet.map fun a => codeAddr a v } }

/-- VOTE (R138): issues once its whole path is in the splinter. -/
def execVote (m : Mods) (f : RForm) (s : State) : Res :=
  issue (.vote m f) s fun c s =>
    s.need c [.gathered] [] none <|
      let g := s.guarded c f.g
      let ballot : Word := maskOf fun l => inMask g l && (s.lane c.team c.group l).pred f.a.toNat
      lanewise c s f.g fun _ => { v := [(f.d.toNat, ballot)] }

/-- The source lane of SHFL (R140). -/
def shflSrc (mode z l b : Nat) : Nat :=
  let base := l - l % z
  match mode with
  | 0 => base + b % z
  | 1 => if b ≤ l - base then l - b else l
  | 2 => if l + b < base + z then l + b else l
  | _ => base + ((l - base) ^^^ (b % z))

/-- SHFL (R139, R140). -/
def execShfl (m : Mods) (f : RForm) (s : State) : Res :=
  issue (.shfl m f) s fun c s =>
    let z := if m.clsField 2 3 = 0 then 32 else 2 ^ m.clsField 2 3
    lanewise c s f.g fun l =>
      let b := match m.k with | some k => k.toNat % 32 | none => (s.rdV c.team c.group l f.b.toNat).toNat
      let src := shflSrc (m.clsField 0 2) z l b
      { v := [(f.d.toNat, s.rdV c.team c.group (if inMask c.act src then src else l) f.a.toNat)] }

end Meeting

section Special

/-- The group's stores that have not been performed at a scope (R80): those queued, and for DIE and wider those in the core's
view that have not propagated. Each of the 16 linked entries of a CSPL counts while it is queued, and the one write that they become
counts once (DESIGN CHOICE, log entry 142). -/
def State.unacked (s : State) (tm g : Nat) (sc : Nat) : Nat :=
  let q := (s.group tm g).sq.map fun e => e.id
  let v := s.cores.flatMap fun k => k.cv.flatMap fun l =>
    (l.pend.filter fun w => w.vis.isNone && w.team == tm && w.group == g).map fun w => w.id
  if sc < 3 then q.length else (q ++ v).eraseDups.length

/-- The value of a special register in a lane (R141). -/
def State.special (s : State) (c : Cur) (l n : Nat) : Word :=
  let gr := s.group c.team c.group
  let ln := rd gr.lanes l
  let t := (s.team? c.team).getD { id := 0, vdev := 0, launch := 0, origin := .grid 0 0 0 }
  let r := (s.launchOf c.team).lrec
  let w (x : Nat) : Word := BitVec.ofNat 32 x
  let grid (f : Nat → Nat → Nat → Nat) : Word := match t.origin with | .grid x y z => w (f x y z) | _ => 0xFFFFFFFF
  match n with
  | 0 => w l
  | 1 => w (l / 4)
  | 2 => w c.group
  | 3 => grid fun x y z => gridIndex r x y z
  | 4 => w gr.consumer.toNat
  | 5 => grid fun x _ _ => x
  | 6 => grid fun _ y _ => y
  | 7 => grid fun _ _ z => z
  | 8 => w c.core
  | 9 => w (clusterOf c.core)
  | 10 => w (dieOf c.core)
  | 11 => w deviceNo
  | 12 => meetOffset ln.meet c.pc
  | 13 => c.act
  | 14 => ln.fpctl
  | 15 => ln.fpstat
  | 16 => ln.mmode
  | 17 => ln.mstat
  | 18 => t.tags.extractLsb' 0 32
  | 19 => w c.rep
  | 20 => (s.core c.core).cycle.extractLsb' 0 32
  | 21 => gr.cycleHi
  | 22 => w gr.sdiv.toNat
  | 23 => w ln.helper.toNat
  | 32 => ln.rngPos.extractLsb' 0 32
  | 33 => ln.rngPos.extractLsb' 32 32
  | 34 => gr.rngStream.extractLsb' 0 32
  | 35 => gr.rngStream.extractLsb' 32 32
  | 36 => t.musterPc.extractLsb' 0 32
  | 37 => t.musterPc.extractLsb' 32 32
  | 38 => t.budget
  | 39 => gr.frec.w0
  | 40 => gr.frec.w1
  | 41 => gr.frec.w2
  | 42 => gr.frec.w3
  | 43 => gr.frec.va.extractLsb' 0 32
  | 44 => gr.frec.va.extractLsb' 32 32
  | 45 => w gr.sq.length
  | 52 => t.tags.extractLsb' 32 32
  | n => if 24 ≤ n ∧ n < 32 then rd gr.rngKey (n - 24)
         else if 46 ≤ n ∧ n < 52 then w (s.unacked c.team c.group (n - 46)) else 0

/-- SRD (R142) and SRD.U (R144). A read of xcycle.lo latches the high word for the group; that it does so when its guard is true in no
lane is this model's choice (log entry 86). -/
def execSrd (m : Mods) (f : RForm) (s : State) : Res :=
  issue (.srd m f) s fun c s =>
    if m.clsBit 0 then lanewise c s f.g fun _ => { v := [(f.d.toNat, s.rdS c f.a.toNat)] }
    else
      let n := f.a.toNat
      let s1 := if n = 20 then
          let s2 := s.tickCore c.core
          s2.modGroup c.team c.group fun g => { g with cycleHi := (s2.core c.core).cycle.extractLsb' 32 32 }
        else s
      lanewise c s1 f.g fun l => { v := [(f.d.toNat, s1.special c l n)] }

/-- The lanes whose value SWR may not write: a reserved RND or COV value, or a nonzero reserved bit (R120, R202). -/
def swrBad (n : Nat) (v : Word) : Bool :=
  match n with
  | 14 => decide (6 ≤ bits v 1 3) || decide (16 ≤ v.toNat)
  | 15 => decide (64 ≤ v.toNat)
  | 16 => decide (bits v 0 2 = 3) || decide (8 ≤ v.toNat)
  | 17 => decide (64 ≤ v.toNat)
  | _ => false

/-- Replace the low or high word of a 64-bit value. -/
def setLo (x : BitVec 64) (v : Word) : BitVec 64 := x.extractLsb' 32 32 ++ v
def setHi (x : BitVec 64) (v : Word) : BitVec 64 := v ++ x.extractLsb' 0 32

/-- A per-lane special register written in one lane (R143). -/
def Lane.setSpecial (l : Lane) (n : Nat) (pc : Code) (v : Word) : Lane :=
  match n with
  | 12 => { l with meet := if v == 0x80000000 then none else some (codeAddr pc v) }
  | 14 => { l with fpctl := v }
  | 15 => { l with fpstat := v }
  | 16 => { l with mmode := v }
  | 17 => { l with mstat := v }
  | 32 => { l with rngPos := setLo l.rngPos v }
  | 33 => { l with rngPos := setHi l.rngPos v }
  | _ => l

/-- A per-group special register written (R143). -/
def Group.setSpecial (g : Group) (n : Nat) (v : Word) : Group :=
  match n with
  | 22 => { g with sdiv := v.getLsbD 0 }
  | 34 => { g with rngStream := setLo g.rngStream v }
  | 35 => { g with rngStream := setHi g.rngStream v }
  | n => if 24 ≤ n ∧ n < 32 then { g with rngKey := wr g.rngKey (n - 24) v } else g

/-- A per-team special register written (R143). -/
def Team.setSpecial (t : Team) (n : Nat) (v : Word) : Team :=
  match n with
  | 36 => { t with musterPc := setLo t.musterPc v }
  | 37 => { t with musterPc := setHi t.musterPc v }
  | 38 => { t with budget := v }
  | _ => t

/-- SWR (R143) and SWR.U (R144). -/
def execSwr (m : Mods) (f : RForm) (s : State) : Res :=
  issue (.swr m f) s fun c s =>
    let g := s.guarded c f.g
    let v (l : Nat) : Word := s.rdV c.team c.group l f.a.toNat
    if m.clsBit 0 then
      if g == 0 then .done s else .done (s.applyFx c.team c.group c.act fun _ => { s := [(f.d.toNat, v (lowest g))] })
    else
      let n := f.d.toNat
      let bad := maskOf fun l => inMask g l && swrBad n (v l)
      if bad != 0 then .fault { cls := 1, mask := bad }
      else
        let s1 := s.mapLanes c.team c.group g fun l ln => ln.setSpecial n c.pc (v l)
        if g == 0 then .done s1
        else .done (s1.modTeam c.team fun t => (t.modGroup c.group fun gr => gr.setSpecial n (v (lowest g))).setSpecial n (v (lowest g)))

end Special

end Sys2Proof.Machine
end

