-- ==== Sys2Proof/Machine/Float.lean ====
section
/-!
DEFINITION. Floating-point arithmetic, compares, conversions, packing and dot products: majors 0x11 to 0x13 and their 16-bit
forms (08_lane_float_generators R156-R164).
-/
namespace Sys2Proof.Machine
open Sys2Proof

section Shared

/-- What a lane draws with (R174). -/
def State.gen (s : State) (c : Cur) (l : Nat) : Gen :=
  let g := s.group c.team c.group
  { key := g.rngKey, stream := g.rngStream, lane := l }

/-- Run an element computation for elements 0 to n - 1 in order (R115). -/
def perElem (n : Nat) (f : Nat → Eff → Nat × Eff) (e : Eff) : List Nat × Eff :=
  (List.range n).foldl (fun acc j => let r := f j acc.2; (acc.1 ++ [r.1], r.2)) ([], e)

/-- What a floating-point computation leaves in its lane: the position and the sticky flags of xfpstat (R120, R174). -/
def Eff.onLane (e : Eff) (l : Lane) : Lane := { l with rngPos := e.pos, fpstat := l.fpstat ||| e.flags }

/-- The environment of a floating-point instruction in one lane: mode, flush, generator. -/
structure FpEnv where
  mode : Rnd
  ftz  : Bool
  sat  : Bool
  gen  : Gen

/-- The environment by X or xfpctl (R121). -/
def State.fpEnv (s : State) (c : Cur) (m : Mods) (l : Nat) : FpEnv :=
  let p := fpModeOf m (s.lane c.team c.group l).fpctl
  { mode := p.1, ftz := p.2, sat := m.sat, gen := s.gen c l }

/-- The Round of an instruction (R156). -/
def FpEnv.round (v : FpEnv) (F : Fmt) (e : Eff) (x : Val) : Nat × Eff := v.gen.round F v.mode v.sat v.ftz e x

/-- The caller's mode is RDN (R128). -/
def FpEnv.rdn (v : FpEnv) : Bool := v.mode == .rdn

/-- Read an operand's sub-element as a value, flushed under FTZ (R124, R156). -/
def FpEnv.read (v : FpEnv) (t : Ty) (w : Word) (j : Nat) : Val := widen (fmtOf t) (flushIn v.ftz t (sub t w j))

/-- The arithmetic of major 0x11. -/
inductive FpOp where
  | plus | minus | times | least | most | fma | frnd | fclass
  deriving DecidableEq, Repr, Inhabited

/-- The total order that FMIN and FMAX use: -0 below +0 (R158). -/
def fltLess (a b : Val) : Bool := a.lt b || (a.isZero && b.isZero && a.neg? && !b.neg?)

/-- FMIN and FMAX choose an encoding (R158). -/
def fpChoose (F : Fmt) (max : Bool) (xa xb : Nat) : Nat :=
  let a := widen F xa
  let b := widen F xb
  if a.isNan && b.isNan then F.canon
  else if a.isNan then xb
  else if b.isNan then xa
  else if max then (if fltLess a b then xb else xa) else (if fltLess b a then xb else xa)

/-- FRND (R159). -/
def fpRound (v : FpEnv) (F : Fmt) (x : Nat) (e : Eff) : Nat × Eff :=
  let (w, e) := match v.mode with | .rs => v.gen.draw e | _ => ((0 : Word), e)
  match widen F x with
  | .nan => (F.canon, e)
  | .inf _ => (x, e)
  | .fin s n d =>
    let k := roundInt v.mode w s n d
    ((roundTo F .rne false false 0 (.fin s k 1)).1, e.setIf (k * d != n) flagNX)

/-- FCLASS (R160): the class of the encoding as stored. -/
def fpClass (F : Fmt) (x : Nat) : Nat :=
  match widen F x with
  | .nan => 256
  | .inf s => if s then 1 else 128
  | .fin s n _ =>
    if n = 0 then (if s then 8 else 16)
    else if (x >>> F.f) % 2 ^ F.e = 0 then (if s then 4 else 32)
    else if s then 2 else 64

/-- One sub-element of an instruction of major 0x11 (R157). -/
def FpOp.elem (o : FpOp) (v : FpEnv) (t : Ty) (a b d : Word) (j : Nat) (e : Eff) : Nat × Eff :=
  let F := fmtOf t
  let x := v.read t a j
  let y := v.read t b j
  match o with
  | .plus => let r := sumExact v.rdn [x, y]; v.round F (e.setIf r.2 flagIV) r.1
  | .minus => let r := sumExact v.rdn [x, y.negate]; v.round F (e.setIf r.2 flagIV) r.1
  | .times => let r := x.mul y; v.round F (e.setIf r.2 flagIV) r.1
  | .fma => let r := sumTerms v.rdn [x.mul y, (v.read t d j, false)]; v.round F (e.setIf r.2 flagIV) r.1
  | .least => (fpChoose F false (flushIn v.ftz t (sub t a j)) (flushIn v.ftz t (sub t b j)), e)
  | .most => (fpChoose F true (flushIn v.ftz t (sub t a j)) (flushIn v.ftz t (sub t b j)), e)
  | .frnd => fpRound v F (flushIn v.ftz t (sub t a j)) e
  | .fclass => (fpClass F (sub t a j), e)

/-- A whole word of an instruction of major 0x11. -/
def FpOp.word (o : FpOp) (v : FpEnv) (t : Ty) (a b d : Word) (e : Eff) : Word × Eff :=
  let r := perElem t.count (o.elem v t a b d) e
  (pack t r.1, r.2)

/-- An instruction of major 0x11 (R157). -/
def fpV (o : FpOp) (i : Instr) (m : Mods) (f : RForm) (s : State) : Res :=
  issue i s fun c s =>
    let f := f.at m c.rep
    let r (l : Nat) (x : BitVec 6) : Word := s.rdV c.team c.group l x.toNat
    lanewise c s f.g fun l =>
      let w := o.word (s.fpEnv c m l) m.ty (r l f.a) (r l f.b) (r l f.d) { pos := (s.lane c.team c.group l).rngPos }
      { v := [(f.d.toNat, w.1)], other := w.2.onLane }

/-- A 16-bit floating-point instruction (R49, R153): F32, mode and flush from xfpctl. -/
def fpH (o : FpOp) (i : Instr) (f : HForm) (s : State) : Res :=
  issue i s fun c s =>
    let r (l : Nat) (x : BitVec 5) : Word := s.rdV c.team c.group l x.toNat
    lanewise c s 0 fun l =>
      let w := o.word (s.fpEnv c {} l) .w32 (r l f.d) (r l f.s) (r l f.d) { pos := (s.lane c.team c.group l).rngPos }
      { v := [(f.d.toNat, w.1)], other := w.2.onLane }

end Shared

section Meanings

/-- FADD (R157). -/
def execFadd (m : Mods) (f : RForm) (s : State) : Res := fpV .plus (.fadd m f) m f s
/-- FSUB (R157). -/
def execFsub (m : Mods) (f : RForm) (s : State) : Res := fpV .minus (.fsub m f) m f s
/-- FMUL (R157). -/
def execFmul (m : Mods) (f : RForm) (s : State) : Res := fpV .times (.fmul m f) m f s
/-- FMIN (R158). -/
def execFmin (m : Mods) (f : RForm) (s : State) : Res := fpV .least (.fmin m f) m f s
/-- FMAX (R158). -/
def execFmax (m : Mods) (f : RForm) (s : State) : Res := fpV .most (.fmax m f) m f s
/-- FMA (R157). -/
def execFma (m : Mods) (f : RForm) (s : State) : Res := fpV .fma (.fma m f) m f s
/-- FRND (R159). -/
def execFrnd (m : Mods) (f : RForm) (s : State) : Res := fpV .frnd (.frnd m f) m f s
/-- FCLASS (R160). -/
def execFclass (m : Mods) (f : RForm) (s : State) : Res := fpV .fclass (.fclass m f) m f s
/-- 16-bit FADD (R49). -/
def execFaddW16 (f : HForm) (s : State) : Res := fpH .plus (.faddW16 f) f s
/-- 16-bit FSUB (R49). -/
def execFsubW16 (f : HForm) (s : State) : Res := fpH .minus (.fsubW16 f) f s
/-- 16-bit FMUL (R49). -/
def execFmulW16 (f : HForm) (s : State) : Res := fpH .times (.fmulW16 f) f s
/-- 16-bit FMIN (R49). -/
def execFminW16 (f : HForm) (s : State) : Res := fpH .least (.fminW16 f) f s
/-- 16-bit FMAX (R49). -/
def execFmaxW16 (f : HForm) (s : State) : Res := fpH .most (.fmaxW16 f) f s

/-- FSET's condition on one sub-element (R161). -/
def fpCond (cc : Nat) (a b : Val) : Bool :=
  if a.isNan || b.isNan then cc == 1 || cc == 6
  else match cc with
    | 0 => a.eqv b | 1 => !a.eqv b | 2 => a.lt b | 3 => a.le b | 4 => b.lt a | 5 => b.le a | 6 => false | _ => true

/-- FSET (R161); the predicate destination is that of R54, with a free value where both parts name one predicate (log entry
8). -/
def execFset (m : Mods) (f : RForm) (s : State) : Res :=
  issue (.fset m f) s fun c s =>
    let f := f.at m c.rep
    lanewise c s f.g fun l =>
      let v := s.fpEnv c m l
      let a := s.rdV c.team c.group l f.a.toNat
      let b := s.rdV c.team c.group l f.b.toNat
      let r := (List.range m.ty.count).all fun j => fpCond (m.clsField 1 3) (v.read m.ty a j) (v.read m.ty b j)
      { p := predWrites (s.flip 0 0) f.d r }

/-- How a conversion makes one element from a source element's bits. -/
abbrev CvtElem := FpEnv → Ty → Ty → Nat → Eff → Nat × Eff

/-- CVT's element (R162). -/
def cvtRound : CvtElem := fun v dt st x e =>
  -- an F32 value that is a widened BF16 subnormal is not flushed (R124)
  let w := if dt == .w32 && st == .bf16 then { v with ftz := false } else v
  w.round (fmtOf dt) e (widen (fmtOf st) (flushIn v.ftz st x))

/-- CVTF's element (R162): the exact integer, rounded. -/
def cvtFromInt : CvtElem := fun v dt st x e => v.round (fmtOf dt) e (.ofInt (st.int x))

/-- CVTI's element (R162). -/
def cvtToInt : CvtElem := fun v dt st x e =>
  let (w, e) := match v.mode with | .rs => v.gen.draw e | _ => ((0 : Word), e)
  match widen (fmtOf st) (flushIn v.ftz st x) with
  | .nan => (0, e.set flagIV)
  | .inf s => (wrapInt dt.width (if s then dt.minInt else dt.maxInt), e.set flagIV)
  | .fin s n d =>
    let k := roundInt v.mode w s n d
    let i := signedNum s k
    if i < dt.minInt then (wrapInt dt.width dt.minInt, e.set flagIV)
    else if dt.maxInt < i then (wrapInt dt.width dt.maxInt, e.set flagIV)
    else (wrapInt dt.width i, e.setIf (k * d != n) flagNX)

/-- A conversion's word: which sub-elements are written and read follows from the counts (R162). -/
def cvtWord (el : CvtElem) (v : FpEnv) (dt st : Ty) (q : Nat) (a d : Word) (e : Eff) : Word × Eff :=
  if dt.count ≤ st.count then
    let r := perElem dt.count (fun j e => el v dt st (sub st a (q * dt.count + j)) e) e
    (pack dt r.1, r.2)
  else
    let r := perElem st.count (fun i e => el v dt st (sub st a i) e) e
    (((List.range r.1.length).zip r.1).foldl (fun w p => put dt w (q * st.count + p.1) p.2) d, r.2)

/-- A conversion instruction. -/
def cvtV (el : CvtElem) (i : Instr) (m : Mods) (f : RForm) (s : State) : Res :=
  issue i s fun c s =>
    let f := f.at m c.rep
    let st := cvtSrc (m.clsField 1 4)
    lanewise c s f.g fun l =>
      let w := cvtWord el (s.fpEnv c m l) m.ty st f.b.toNat (s.rdV c.team c.group l f.a.toNat) (s.rdV c.team c.group l f.d.toNat)
        { pos := (s.lane c.team c.group l).rngPos }
      { v := [(f.d.toNat, w.1)], other := w.2.onLane }

/-- CVT (R162). -/
def execCvt (m : Mods) (f : RForm) (s : State) : Res := cvtV cvtRound (.cvt m f) m f s
/-- CVTI (R162). -/
def execCvti (m : Mods) (f : RForm) (s : State) : Res := cvtV cvtToInt (.cvti m f) m f s
/-- CVTF (R162). -/
def execCvtf (m : Mods) (f : RForm) (s : State) : Res := cvtV cvtFromInt (.cvtf m f) m f s

/-- PACK (R163). -/
def execPack (m : Mods) (f : RForm) (s : State) : Res :=
  issue (.pack m f) s fun c s =>
    let f := f.at m c.rep
    lanewise c s f.g fun l =>
      { v := [(f.d.toNat, put m.ty (s.rdV c.team c.group l f.d.toNat) f.b.toNat (s.rdV c.team c.group l f.a.toNat).toNat)] }
/-- UNPK (R163). -/
def execUnpk (m : Mods) (f : RForm) (s : State) : Res :=
  issue (.unpk m f) s fun c s =>
    let f := f.at m c.rep
    lanewise c s f.g fun l =>
      { v := [(f.d.toNat, BitVec.ofNat 32 (sub m.ty (s.rdV c.team c.group l f.a.toNat) f.b.toNat))] }

/-- The word of a dot product (R164). -/
def dotWord (v : FpEnv) (t : Ty) (a b d : Word) (e : Eff) : Word × Eff :=
  if floatTys.contains t then
    let ts := (List.range t.count).map fun j => (v.read t a j).mul (v.read t b j)
    let r := sumTerms v.rdn (ts ++ [(v.read .w32 d 0, false)])
    let w := v.round (fmtOf .w32) (e.setIf r.2 flagIV) r.1
    (BitVec.ofNat 32 w.1, w.2)
  else
    let acc : Ty := if t.signed then .w32 else .n32
    let n := (List.range t.count).foldl (fun n j => n + t.int (sub t a j) * t.int (sub t b j)) (acc.int d.toNat)
    (BitVec.ofNat 32 (saturate acc v.sat n), e)

/-- A dot product; `dflt` is the TYPE without X. -/
def dotV (dflt : Ty) (i : Instr) (m : Mods) (f : RForm) (s : State) : Res :=
  issue i s fun c s =>
    let f := f.at m c.rep
    lanewise c s f.g fun l =>
      let w := dotWord (s.fpEnv c m l) (m.ty dflt) (s.rdV c.team c.group l f.a.toNat) (s.rdV c.team c.group l f.b.toNat)
        (s.rdV c.team c.group l f.d.toNat) { pos := (s.lane c.team c.group l).rngPos }
      { v := [(f.d.toNat, w.1)], other := w.2.onLane }

/-- DOT2 (R164). -/
def execDot2 (m : Mods) (f : RForm) (s : State) : Res := dotV .f16 (.dot2 m f) m f s
/-- DOT4 (R164). -/
def execDot4 (m : Mods) (f : RForm) (s : State) : Res := dotV .e4m3 (.dot4 m f) m f s
/-- DOT8 (R164). -/
def execDot8 (m : Mods) (f : RForm) (s : State) : Res := dotV .e2m1 (.dot8 m f) m f s

end Meanings

end Sys2Proof.Machine
end

