-- ==== Sys2Proof/Machine/FloatFn.lean ====
section
/-!
DEFINITION. Reciprocals, roots and functions (major 0x14) and the counter-mode generators (major 0x15)
(08_lane_float_generators R165-R176).
-/
namespace Sys2Proof.Machine
open Sys2Proof

section Steps

/-- Mul of R167. -/
def mul32 (a b : Val) : Val := r32 (a.mul b).1
/-- Add of R167. -/
def add32 (a b : Val) : Val := r32 (sumExact false [a, b]).1
/-- Fma of R167. -/
def fma32 (a b c : Val) : Val := r32 (sumTerms false [a.mul b, (c, false)]).1
/-- Horner's rule on F32 coefficients, highest first, one Fma a step (R167). -/
def horner (z : Val) : List Nat → Val
  | [] => .zero
  | h :: t => t.foldl (fun p k => fma32 p z (f32 k)) (f32 h)
/-- The exact difference. -/
def subExact (a b : Val) : Val := (sumExact false [a, b.negate]).1
/-- The format of 12 significant bits (R166, R168). -/
def fmt12 : Fmt := ⟨8, 11, 127, true, 1⟩

/-- RCP (R165): the exact value and the flags of a special case. -/
def rcpVal (x : Val) : Val × Word :=
  match x with
  | .nan => (.nan, 0)
  | .inf s => (.fin s 0 1, 0)
  | .fin s n d => if n = 0 then (.inf s, flagDZ) else (.fin s d n, 0)

/-- SQRT (R165). -/
def sqrtOf (x : Val) : Val × Word :=
  match x with
  | .nan => (.nan, 0)
  | .inf s => if s then (.nan, flagIV) else (.inf false, 0)
  | .fin s n d => if n = 0 then (x, 0) else if s then (.nan, flagIV) else (sqrtVal n d, 0)

/-- RCPA (R166). -/
def rcpaWord (x : Nat) : Nat :=
  let F := fmtOf .w32
  match widen F x with
  | .nan => 0x7FC00000
  | .inf s => F.signBit s
  | .fin s n d =>
    if (x >>> 23) % 256 = 0 then F.signBit s + F.infEnc
    else if d * 2 ^ 126 < n then F.signBit s
    else F.signBit s + (roundTo fmt12 .rne false false 0 (.fin false d n)).1 * 2 ^ 12

/-- RSQ (R168). -/
def rsqVal (x : Val) : Val × Word :=
  match x with
  | .nan => (.nan, 0)
  | .inf s => if s then (.nan, flagIV) else (.zero, 0)
  | .fin s n d =>
    if n = 0 then (.inf s, flagDZ)
    else if s then (.nan, flagIV)
    else
      let k := floorLog2 n d / 2
      let m := scale2 n d (-2 * k)
      let mv : Val := .fin false m.1 m.2
      let y := widen fmt12 (roundTo fmt12 .rne false false 0 (sqrtVal m.2 m.1)).1
      let e := fma32 mv.negate (mul32 y y) .one
      let p := fma32 (f32 0x3EA00000) e (f32 0x3EC00000)
      let p := fma32 p e (f32 0x3F000000)
      let p := mul32 p e
      ((sumTerms false [y.mul p, (y, false)]).1.mul2 (-k), 0)

/-- The EXP2 procedure (R169). -/
def exp2Val (x : Val) : Val :=
  match x with
  | .nan => .nan
  | .inf s => if s then .zero else .inf false
  | .fin s n d =>
    let lim : Val := .fin s 160 1
    let x : Val := if 160 * d < n then lim else .fin s n d
    match x with
    | .fin s n d =>
      let i := signedNum s (roundInt .rne 0 s n d)
      let f := subExact (.fin s n d) (.ofInt i)
      (horner f [0x39218464, 0x3AAEC3FF, 0x3C1D955B, 0x3D635847, 0x3E75FDF0, 0x3F317218, 0x3F800000]).mul2 i
    | v => v

/-- The LOG2 procedure (R170); `rdn` is whether the final Round's mode is RDN (R128). -/
def log2Val (rdn : Bool) (x : Val) : Val × Word :=
  match x with
  | .nan => (.nan, 0)
  | .inf s => if s then (.nan, flagIV) else (.inf false, 0)
  | .fin s n d =>
    if n = 0 then (.inf true, flagDZ)
    else if s then (.nan, flagIV)
    else
      let e := floorLog2 n d
      let p := scale2 n d (-e)
      let m : Val := .fin false p.1 p.2
      let big := !(m.lt (f32 0x3FB504F3))
      let m := if big then m.mul2 (-1) else m
      let e := if big then e + 1 else e
      let s := mul32 (subExact m .one) (r32 (add32 m .one).recip)
      let z := mul32 s s
      let p := horner z [0x3EA4258A, 0x3ED30BA6, 0x3F13BB4F, 0x3F76384F, 0x4038AA3B]
      ((sumTerms rdn [s.mul p, (.ofInt e, false)]).1, 0)

/-- The parts of the SINCOS procedure for a finite argument (R171): the quadrant and the two values to round. -/
def sincosVal (x : Val) : Nat × Val × Val :=
  match x with
  | .fin s n d =>
    let i := signedNum s (roundInt .rne 0 s (4 * n) d)
    let quarter : Val := .fin (decide (i < 0)) i.natAbs 4
    let t := subExact x quarter
    let z := mul32 t t
    let ps := horner z [0x42283C26, 0xC299695F, 0x42A335E3, 0xC2255DF8, 0x40C90FDB]
    let pc := horner z [0x4270FA76, 0xC2AAE9E7, 0x4281E0F7, 0xC19DE9F2]
    ((i % 4).toNat, (t.mul ps).1, (sumTerms false [pc.mul z, (.one, false)]).1)
  | v => (0, v, v)

/-- The ERF procedure (R172): the value for the final Round and the flags set beside it. -/
def erfVal (x : Val) : Val × Word :=
  match x with
  | .nan => (.nan, 0)
  | .inf s => (.fin s 1 1, 0)
  | .fin s n d =>
    let a : Val := .fin false n d
    let sgn (v : Val) : Val := if s then v.negate else v
    if 2 * n < d then
      let z := mul32 a a
      let p := horner z [0x38FCD162, 0xBA6016DA, 0x3BAB2DDD, 0xBCDC167F, 0x3DE71792, 0xBEC093A4, 0x3F906EBB]
      (sgn (a.mul p).1, 0)
    else if n < 4 * d then
      let t := r32 (fma32 (f32 0x3EA7BA19) a .one).recip
      let p := horner t [0x3F87DC23, 0xBFBA00E0, 0x3FB5F0DF, 0xBE91A98E, 0x3E827906]
      let h := r32 (exp2Val (mul32 (mul32 a a) (f32 0xBFB8AA3B)))
      (sgn (sumTerms false [((mul32 p t).negate.mul h), (.one, false)]).1, 0)
    else (.fin s 1 1, flagNX)

end Steps

section Functions

/-- A function with one result: the procedure, then the final Round (R167). -/
def fnV (pr : FpEnv → Val → Val × Word) (i : Instr) (m : Mods) (f : RForm) (s : State) : Res :=
  issue i s fun c s =>
    let f := f.at m c.rep
    lanewise c s f.g fun l =>
      let v := s.fpEnv c m l
      let r := pr v (v.read .w32 (s.rdV c.team c.group l f.a.toNat) 0)
      let w := v.round (fmtOf .w32) { pos := (s.lane c.team c.group l).rngPos, flags := r.2 } r.1
      { v := [(f.d.toNat, BitVec.ofNat 32 w.1)], other := w.2.onLane }

/-- RCP (R165). -/
def execRcp (m : Mods) (f : RForm) (s : State) : Res := fnV (fun _ x => rcpVal x) (.rcp m f) m f s
/-- SQRT (R165). -/
def execSqrt (m : Mods) (f : RForm) (s : State) : Res := fnV (fun _ x => sqrtOf x) (.sqrt m f) m f s
/-- RCPA (R166): no Round, no flags. -/
def execRcpa (m : Mods) (f : RForm) (s : State) : Res :=
  issue (.rcpa m f) s fun c s =>
    let f := f.at m c.rep
    lanewise c s f.g fun l => { v := [(f.d.toNat, BitVec.ofNat 32 (rcpaWord (s.rdV c.team c.group l f.a.toNat).toNat))] }
/-- RSQ (R168). -/
def execRsq (m : Mods) (f : RForm) (s : State) : Res := fnV (fun _ x => rsqVal x) (.rsq m f) m f s
/-- EXP2 (R169). -/
def execExp2 (m : Mods) (f : RForm) (s : State) : Res := fnV (fun _ x => (exp2Val x, 0)) (.exp2 m f) m f s
/-- LOG2 (R170). -/
def execLog2 (m : Mods) (f : RForm) (s : State) : Res := fnV (fun v x => log2Val v.rdn x) (.log2 m f) m f s
/-- ERF (R172). -/
def execErf (m : Mods) (f : RForm) (s : State) : Res := fnV (fun _ x => erfVal x) (.erf m f) m f s

/-- The sign bit of an F32 encoding flipped (R171). -/
def flip32 (x : Nat) : Nat := if 2 ^ 31 ≤ x then x - 2 ^ 31 else x + 2 ^ 31

/-- The two results of SINCOS by quadrant (R171). -/
def quadrant (q s c : Nat) : Nat × Nat :=
  match q with
  | 0 => (s, c) | 1 => (c, flip32 s) | 2 => (flip32 s, flip32 c) | _ => (flip32 c, s)

/-- SINCOS of one lane (R171): the sine draws before the cosine. -/
def sincosWords (v : FpEnv) (x : Val) (e : Eff) : (Nat × Nat) × Eff :=
  let F := fmtOf .w32
  let r := sincosVal x
  let special := x.isNan || x.isInf
  let e := e.setIf x.isInf flagIV
  let a := v.round F e (if special then .nan else r.2.1)
  let b := v.round F a.2 (if special then .nan else r.2.2)
  (if special then (a.1, b.1) else quadrant r.1 a.1 b.1, b.2)

/-- SINCOS (R171). -/
def execSincos (m : Mods) (f : RForm) (s : State) : Res :=
  issue (.sincos m f) s fun c s =>
    let f := f.at m c.rep
    lanewise c s f.g fun l =>
      let v := s.fpEnv c m l
      let w := sincosWords v (v.read .w32 (s.rdV c.team c.group l f.a.toNat) 0) { pos := (s.lane c.team c.group l).rngPos }
      { v := [(f.d.toNat, BitVec.ofNat 32 w.1.1), (f.d.toNat + 1, BitVec.ofNat 32 w.1.2)], other := w.2.onLane }

end Functions

section Generators

/-- RNGKEY (R175): once per splinter, for the whole group; no rule calls it group-uniform, so one of helper lanes only has it too (R110). -/
def execRngkey (m : Mods) (f : RForm) (s : State) : Res :=
  issue (.rngkey m f) s fun c s =>
    let f := f.at m c.rep
    .done (s.modGroup c.team c.group fun g => { g with rngKey := (List.range 8).map fun k => s.rdS c (f.a.toNat + k) })

/-- The instance offset of a lane (R174). -/
def instOffset (l : Nat) : BitVec 64 := BitVec.ofNat 64 (l / 16 * 2 ^ 40)

/-- RNGPOS (R175). -/
def execRngpos (m : Mods) (f : RForm) (s : State) : Res :=
  issue (.rngpos m f) s fun c s =>
    let f := f.at m c.rep
    let g := s.guarded c f.g
    let v (l : Nat) : BitVec 64 := pair (s.rdV c.team c.group l f.a.toNat) (s.rdV c.team c.group l f.b.toNat)
    if m.clsBit 1 then
      .done (if g == 0 then s else s.modGroup c.team c.group fun gr => { gr with rngStream := v (lowest g) })
    else lanewise c s f.g fun l =>
      { other := fun ln => { ln with rngPos := v l + (if m.clsBit 0 then 0 else instOffset l) } }

/-- RNG (R175). -/
def execRng (m : Mods) (f : RForm) (s : State) : Res :=
  issue (.rng m f) s fun c s =>
    let f := f.at m c.rep
    lanewise c s f.g fun l =>
      let r := (s.gen c l).draw { pos := (s.lane c.team c.group l).rngPos }
      { v := [(f.d.toNat, r.1)], other := fun ln => { ln with rngPos := r.2.pos } }

/-- RNGF's element (R175): k * 2^-b. -/
def rngfElem (g : Gen) (t : Ty) (e : Eff) : Nat × Eff :=
  let r := g.draw e
  let b := match t with | .f16 => 11 | .bf16 => 8 | _ => 24
  ((roundTo (fmtOf t) .rne false false 0 (.fin false (r.1.toNat >>> (32 - b)) (2 ^ b))).1, r.2)

/-- RNGF (R175). -/
def execRngf (m : Mods) (f : RForm) (s : State) : Res :=
  issue (.rngf m f) s fun c s =>
    let f := f.at m c.rep
    lanewise c s f.g fun l =>
      let r := perElem m.ty.count (fun _ e => rngfElem (s.gen c l) m.ty e) { pos := (s.lane c.team c.group l).rngPos }
      { v := [(f.d.toNat, pack m.ty r.1)], other := fun ln => { ln with rngPos := r.2.pos } }

/-- The draws and steps of RNGN (R176), up to the factors of its final Round. -/
def rngnVal (g : Gen) (e : Eff) : Val × Eff :=
  let w0 := g.draw e
  let w1 := g.draw w0.2
  let u1 : Val := .fin false ((w0.1.toNat >>> 8) + 1) (2 ^ 24)
  let u2 : Val := .fin false (w1.1.toNat >>> 8) (2 ^ 24)
  let k := mul32 (r32 (log2Val false u1).1) (f32 0xBFB17218)
  let s := r32 (sqrtOf k).1
  let q := sincosVal u2
  let c := f32 (quadrant q.1 (rne32 q.2.1) (rne32 q.2.2)).2
  ((s.mul c).1, w1.2)

/-- RNGN (R176): the mode of its final Round comes from xfpctl. -/
def execRngn (m : Mods) (f : RForm) (s : State) : Res :=
  issue (.rngn m f) s fun c s =>
    let f := f.at m c.rep
    lanewise c s f.g fun l =>
      let ln := s.lane c.team c.group l
      let r := rngnVal (s.gen c l) { pos := ln.rngPos }
      let w := (s.gen c l).round (fmtOf .w32) (fpModeOf {} ln.fpctl).1 false false r.2 r.1
      { v := [(f.d.toNat, BitVec.ofNat 32 w.1)], other := fun ln => { ln with rngPos := w.2.pos } }

end Generators

end Sys2Proof.Machine
end

