-- ==== Sys2Proof/Machine/Moments.lean ====
section
/-!
DEFINITION. The moment registers: arithmetic of major 0x1A and the moves of major 0x1B that touch no memory
(10_lane_moments R199-R216).
-/
namespace Sys2Proof.Machine
open Sys2Proof

section Shared

/-- CL and FL as marks beside the flags of R120, until they are put into xmstat. -/
def markCL : Word := 64
def markFL : Word := 128

/-- The flags of xmstat from the marks (R202). -/
def momFlags (w : Word) : Word :=
  (if w.getLsbD 0 then 1 else 0) ||| (if w.getLsbD 2 then 2 else 0) ||| (if w.getLsbD 3 then 4 else 0) |||
    (if w.getLsbD 4 then 8 else 0) ||| (if w.getLsbD 6 then 16 else 0) ||| (if w.getLsbD 7 then 32 else 0)

/-- What a moment computation leaves in its lane (R202). -/
def Eff.onMoment (e : Eff) (l : Lane) : Lane := { l with rngPos := e.pos, mstat := l.mstat ||| momFlags e.flags }

/-- The environment of a moment instruction in a lane (R203). -/
structure MomEnv where
  mode  : Rnd
  ftz   : Bool
  clamp : Bool
  cov   : Nat
  gen   : Gen

/-- By X, or by xfpctl and xmmode (R203). -/
def State.momEnv (s : State) (c : Cur) (m : Mods) (l : Nat) : MomEnv :=
  let ln := s.lane c.team c.group l
  let p := fpModeOf m ln.fpctl
  { mode := p.1, ftz := p.2
    clamp := if m.x.isSome then m.clsBit 1 else ln.mmode.getLsbD 2
    cov := if m.x.isSome then m.clsField 2 3 else bits ln.mmode 0 2
    gen := s.gen c l }

/-- The variance of a moment register after any flush is negative (R204). -/
def MomEnv.negative (v : MomEnv) (m : Moment) : Bool := isNegVar (f32 (flushIn v.ftz .w32 m.var.toNat))

/-- Read a moment operand: mean, variance, and CL when the variance was clamped (R204). -/
def MomEnv.read (v : MomEnv) (m : Moment) : Val × Val × Word :=
  let var := f32 (flushIn v.ftz .w32 m.var.toNat)
  let mean := f32 (flushIn v.ftz .w32 m.mean.toNat)
  if isNegVar var then (mean, .zero, markCL) else (mean, var, 0)

/-- A product of factors, with whether a 0 * infinity stood in it (R205). -/
def prodExact (vs : List Val) : Val × Bool :=
  vs.foldl (fun acc v => let r := acc.1.mul v; (r.1, acc.2 || r.2)) (.one, false)

/-- Root (R205). -/
def root32 (v : Val) : Val := r32 (sqrtOf v).1

/-- Out (R205). -/
def MomEnv.out (v : MomEnv) (e : Eff) (x : Val) : Nat × Eff := v.gen.round (fmtOf .w32) v.mode false v.ftz e x

/-- VOut (R205). -/
def MomEnv.vout (v : MomEnv) (e : Eff) (x : Val) : Nat × Eff :=
  if isNegVar x then
    let e := match v.mode with | .rs => (v.gen.draw e).2 | _ => e
    (0, e.set markFL)
  else
    let r := v.out e x
    (if (f32 r.1).isZero then 0 else r.1, r.2)

/-- An exact sum whose IV goes to the flags. -/
def MomEnv.sum (v : MomEnv) (ts : List (Val × Bool)) (e : Eff) : Val × Eff :=
  let r := sumTerms (v.mode == .rdn) ts
  (r.1, e.setIf r.2 flagIV)

/-- A mean and a variance, each rounded: Out before VOut (R205). -/
def MomEnv.both (v : MomEnv) (mean var : Eff → Val × Eff) (e : Eff) : Moment × Eff :=
  let a := mean e
  let r := v.out a.2 a.1
  let b := var r.2
  let q := v.vout b.2 b.1
  ({ mean := BitVec.ofNat 32 r.1, var := BitVec.ofNat 32 q.1 }, q.2)

/-- An exact product whose IV goes to the flags. -/
def MomEnv.prod (xs : List Val) (e : Eff) : Val × Eff :=
  let p := prodExact xs
  (p.1, e.setIf p.2 flagIV)

/-- A fixed value. -/
def always (x : Val) : Eff → Val × Eff := fun e => (x, e)

end Shared

section Arithmetic

/-- MADD and MSUB (R207). -/
def maddOf (v : MomEnv) (minus : Bool) (a b : Val × Val × Word) (e : Eff) : Moment × Eff :=
  let sg (x : Val) : Val := if minus then x.negate else x
  v.both (v.sum [(a.1, false), (sg b.1, false)])
    (fun e => match v.cov with
      | 0 => v.sum [(a.2.1, false), (b.2.1, false)] e
      | k =>
        let rb := root32 b.2.1
        let rb := if (k == 2) != minus then rb.negate else rb
        let r := v.sum [(root32 a.2.1, false), (rb, false)] e
        let p := r.1.mul r.1
        (p.1, r.2.setIf p.2 flagIV)) e

/-- MMUL (R208). -/
def mmulOf (v : MomEnv) (a b : Val × Val × Word) (e : Eff) : Moment × Eff :=
  let ua := a.1; let va := a.2.1; let ub := b.1; let vb := b.2.1
  let base := [prodExact [ua, ua, vb], prodExact [ub, ub, va], prodExact [va, vb]]
  match v.cov with
  | 0 => v.both (v.sum [prodExact [ua, ub]]) (v.sum base) e
  | k =>
    let rb := root32 vb
    let fs : List Val := [root32 va, if k == 2 then rb.negate else rb]
    v.both (v.sum [prodExact [ua, ub], prodExact fs])
      (v.sum (base ++ [prodExact (fs ++ fs), prodExact ([.fin false 2 1, ua, ub] ++ fs)])) e

/-- MSCL (R209). -/
def msclOf (v : MomEnv) (a : Val × Val × Word) (k : Val) (e : Eff) : Moment × Eff :=
  v.both (MomEnv.prod [k, a.1]) (MomEnv.prod [k, k, a.2.1]) e

/-- A value divided by a positive integer. -/
def Val.divNat (x : Val) (k : Nat) : Val := match x with | .fin s n d => .fin s n (d * k) | x => x

/-- MSAMP (R210) for n > 0. -/
def msampOf (v : MomEnv) (a : Val × Val × Word) (x : Val) (n : Nat) (e : Eff) : Moment × Eff :=
  let nv : Val := .fin false n 1
  let m0 := v.sum [nv.mul a.1, (x, false)] e
  let r := v.out m0.2 (m0.1.divNat (n + 1))
  let mean := f32 r.1
  let d1 := v.sum [(x, false), (a.1.negate, false)] r.2
  let d2 := v.sum [(x, false), (mean.negate, false)] d1.2
  let s := v.sum [nv.mul a.2.1, d1.1.mul d2.1] d2.2
  let q := v.vout s.2 (s.1.divNat (n + 1))
  ({ mean := BitVec.ofNat 32 r.1, var := BitVec.ofNat 32 q.1 }, q.2)

/-- The quotient of two finite values, the second positive. -/
def Val.quot (a b : Val) : Val :=
  match a, b with
  | .fin s n d, .fin _ n' d' => .fin s (n * d') (d * n')
  | a, _ => a

/-- MRELU (R211). A NaN that an internal step forms sets no flag, as R205 says of internal steps, though no input was a NaN (R202; DEDUCED, log
entry 129). -/
def mreluOf (v : MomEnv) (a : Val × Val × Word) (e : Eff) : Moment × Eff :=
  let u := a.1; let w := a.2.1
  if u.isNan || w.isNan then v.both (always .nan) (always .nan) e
  else if w.isInf then v.both (always .nan) (always .nan) (e.set flagIV)
  else if w.isZero then v.both (always (if Val.zero.lt u then u else .zero)) (always .zero) e
  else if u.isInf then
    if u.neg? then v.both (always .zero) (always .zero) e else v.both (always u) (always w) e
  else
    let s := root32 w
    let k := r32 (u.quot s)
    let half := f32 0x3F000000
    let P := fma32 (r32 (erfVal (mul32 k (f32 0x3F3504F3))).1) half half
    let q := mul32 (r32 (exp2Val (mul32 (mul32 k k) (f32 0xBF38AA3B)))) (f32 0x3ECC422A)
    let t := mul32 s q
    let m1 := fma32 u P t
    let m2 := fma32 (fma32 u u w) P (mul32 (mul32 u s) q)
    v.both (v.sum [u.mul P, (t, false)]) (v.sum [(m2, false), (m1.negate.mul m1)]) e

/-- The EXP2 procedure as MEXP uses it (R169, R212): an argument of +inf is clamped, so that Round overflows under R122; one of -inf gives +0
(DEDUCED, log entry 112). -/
def mexpVal (x : Val) : Val := exp2Val (match x with | .inf false => .fin false 160 1 | x => x)

/-- MEXP (R212). -/
def mexpOf (v : MomEnv) (a : Val × Val × Word) (e : Eff) : Moment × Eff :=
  let u := a.1; let w := a.2.1
  let L := f32 0x3FB8AA3B
  if u.isNan || w.isNan then v.both (always .nan) (always .nan) e
  else if w.isInf then v.both (always (.inf false)) (always (.inf false)) e
  else if w.isZero then v.both (always (mexpVal (mul32 u L))) (always .zero) e
  else
    let t := fma32 w (f32 0x3F000000) u
    let e1 := r32 (mexpVal (mul32 t L))
    let g := r32 (mexpVal (mul32 w L))
    v.both (always (mexpVal (mul32 t L))) (fun e =>
      let d := v.sum [(g, false), (Val.one.negate, false)] e
      let p := prodExact [d.1, e1, e1]
      (p.1, d.2.setIf p.2 flagIV)) e

/-- MCOL (R213): the word of selector `sel`; `a` as read, `n` the count. -/
def mcolOf (v : MomEnv) (sel : Nat) (mean var : Nat) (a : Val × Val × Word) (n : Nat) (e : Eff) : Nat × Eff :=
  match sel with
  | 0 => (mean, e)
  | 1 => (var, e)
  | 2 => v.out e (sqrtOf a.2.1).1
  | 3 => v.out e (if n ≤ 1 then .inf false else a.2.1.divNat (n - 1))
  | 4 => v.out e (if n ≤ 1 then .inf false else (sqrtOf (a.2.1.divNat (n - 1))).1)
  | _ =>
    let r := rngnVal v.gen e
    let g := r32 r.1
    let q := v.sum [(a.1, false), (root32 a.2.1).mul g] r.2
    v.out q.2 q.1

/-- Test the variances that the guarded lanes read (R204): the lanes that fault. Where CLAMP comes lane by lane from xmmode, a lane with CLAMP 1
is left out of the mask though its test was true (DEDUCED, log entry 114). -/
def State.negLanes (s : State) (c : Cur) (m : Mods) (g : BitVec 32) (ops : Nat → List Moment) : BitVec 32 :=
  maskOf fun l => inMask g l && (let v := s.momEnv c m l; !v.clamp && (ops l).any v.negative)

/-- Read mr of a lane. -/
def State.rdM (s : State) (c : Cur) (l r : Nat) : Moment := rd (s.lane c.team c.group l).m r

/-- A moment instruction with a moment result. -/
def momV (i : Instr) (m : Mods) (f : RForm) (s : State) (ops : State → Cur → RForm → Nat → List Moment)
    (res : State → Cur → RForm → Nat → MomEnv → List (Val × Val × Word) → Eff → Moment × Eff) : Res :=
  issue i s fun c s =>
    let f := f.at m c.rep
    let g := s.guarded c f.g
    let bad := s.negLanes c m g (ops s c f)
    if bad != 0 then .fault { cls := 8, mask := bad }
    else lanewise c s f.g fun l =>
      let v := s.momEnv c m l
      let rs := (ops s c f l).map v.read
      let e0 : Eff := { pos := (s.lane c.team c.group l).rngPos, flags := rs.foldl (fun w r => w ||| r.2.2) 0 }
      let r := res s c f l v rs e0
      { other := fun ln => { r.2.onMoment ln with m := wr ln.m f.d.toNat r.1 } }

/-- The operands mA and mB. -/
def opsAB (s : State) (c : Cur) (f : RForm) (l : Nat) : List Moment := [s.rdM c l f.a.toNat, s.rdM c l f.b.toNat]
/-- The operand mA. -/
def opsA (s : State) (c : Cur) (f : RForm) (l : Nat) : List Moment := [s.rdM c l f.a.toNat]

/-- MADD (R207). -/
def execMadd (m : Mods) (f : RForm) (s : State) : Res :=
  momV (.madd m f) m f s opsAB fun _ _ _ _ v rs e => maddOf v false (rd rs 0) (rd rs 1) e
/-- MSUB (R207). -/
def execMsub (m : Mods) (f : RForm) (s : State) : Res :=
  momV (.msub m f) m f s opsAB fun _ _ _ _ v rs e => maddOf v true (rd rs 0) (rd rs 1) e
/-- MMUL (R208). -/
def execMmul (m : Mods) (f : RForm) (s : State) : Res :=
  momV (.mmul m f) m f s opsAB fun _ _ _ _ v rs e => mmulOf v (rd rs 0) (rd rs 1) e
/-- MSCL (R209). -/
def execMscl (m : Mods) (f : RForm) (s : State) : Res :=
  momV (.mscl m f) m f s opsA fun s c f l v rs e =>
    msclOf v (rd rs 0) (f32 (flushIn v.ftz .w32 (s.rdV c.team c.group l f.b.toNat).toNat)) e
/-- MSAMP (R210): with n = 0, mD is neither read nor tested. -/
def execMsamp (m : Mods) (f : RForm) (s : State) : Res :=
  momV (.msamp m f) m f s
    (fun s c f l => if s.rdV c.team c.group l f.b.toNat == 0 then [] else [s.rdM c l f.d.toNat])
    fun s c f l v rs e =>
      let x := f32 (flushIn v.ftz .w32 (s.rdV c.team c.group l f.a.toNat).toNat)
      let n := (s.rdV c.team c.group l f.b.toNat).toNat
      if n = 0 then v.both (always x) (always .zero) e else msampOf v (rd rs 0) x n e
/-- MRELU (R211). -/
def execMrelu (m : Mods) (f : RForm) (s : State) : Res :=
  momV (.mrelu m f) m f s opsA fun _ _ _ _ v rs e => mreluOf v (rd rs 0) e
/-- MEXP (R212). -/
def execMexp (m : Mods) (f : RForm) (s : State) : Res :=
  momV (.mexp m f) m f s opsA fun _ _ _ _ v rs e => mexpOf v (rd rs 0) e

/-- MCOL (R213). -/
def execMcol (m : Mods) (f : RForm) (s : State) : Res :=
  issue (.mcol m f) s fun c s =>
    let f := f.at m c.rep
    let g := s.guarded c f.g
    let bad := s.negLanes c m g fun l => [s.rdM c l f.a.toNat]
    if bad != 0 then .fault { cls := 8, mask := bad }
    else lanewise c s f.g fun l =>
      let v := s.momEnv c m l
      let mm := s.rdM c l f.a.toNat
      let a := v.read mm
      let var := flushIn v.ftz .w32 mm.var.toNat
      let sel := if m.x.isSome then m.clsField 2 3 else 0
      let r := mcolOf v sel (flushIn v.ftz .w32 mm.mean.toNat) (if v.negative mm then 0 else var) a
        (s.rdV c.team c.group l f.b.toNat).toNat { pos := (s.lane c.team c.group l).rngPos, flags := a.2.2 }
      { v := [(f.d.toNat, BitVec.ofNat 32 r.1)], other := r.2.onMoment }

end Arithmetic

section Moves

/-- MMOV (R215). -/
def execMmov (m : Mods) (f : RForm) (s : State) : Res :=
  issue (.mmov m f) s fun c s =>
    let f := f.at m c.rep
    lanewise c s f.g fun l => { other := fun ln => { ln with m := wr ln.m f.d.toNat (s.rdM c l f.a.toNat) } }

/-- MSPL and MSPL.J (R215). -/
def execMspl (m : Mods) (f : RForm) (s : State) : Res :=
  issue (.mspl m f) s fun c s =>
    let f := f.at m c.rep
    let g := s.guarded c f.g
    if m.clsBit 0 then
      let p (l : Nat) : Moment := { mean := s.rdV c.team c.group l f.a.toNat, var := s.rdV c.team c.group l f.b.toNat }
      let neg (l : Nat) : Bool := isNegVar (f32 (p l).var.toNat)
      let bad := maskOf fun l => inMask g l && neg l && !m.clsBit 1
      if bad != 0 then .fault { cls := 8, mask := bad }
      else lanewise c s f.g fun l =>
        { other := fun ln => { ln with
            m := wr ln.m f.d.toNat (if neg l then { p l with var := 0 } else p l)
            mstat := if neg l then ln.mstat ||| 16 else ln.mstat } }
    else lanewise c s f.g fun l =>
      let a := s.rdM c l f.a.toNat
      { v := [(f.d.toNat, a.mean), (f.d.toNat + 1, a.var)] }

/-- MMODE (R216). -/
def execMmode (m : Mods) (f : RForm) (s : State) : Res :=
  issue (.mmode m f) s fun c s =>
    let f := f.at m c.rep
    lanewise c s f.g fun _ =>
      { other := fun ln => { ln with mmode := BitVec.setWidth 32 f.b, mstat := if m.clsBit 0 then 0 else ln.mstat } }

end Moves

end Sys2Proof.Machine
end

