-- ==== Sys2Proof/Machine/View.lean ====
section
/-!
DEFINITION. Memory as the ordering machine sees it: translation and protection (01_engines R11-R15, R29-R30), format regions
(23_commons R371-R374), brands (R376), one line's step at its commons point, the core views (04_ordering_machine R72-R77),
and the lane accesses built from them (09_lane_memory_sync R177-R183).
-/
namespace Sys2Proof.Machine
open Sys2Proof

section Translation

/-- Kinds of a fault record (R220). -/
def kindRead : Nat := 1
def kindWrite : Nat := 2
def kindRmw : Nat := 3
def kindFetch : Nat := 4
def kindOperand : Nat := 5
def kindEngWrite : Nat := 6

/-- What an access asks of its page. -/
inductive Access where
  | read | write | rmw | fetch
  deriving DecidableEq, Repr, Inhabited

/-- The permission that an access needs. -/
def permAllows (p : Perm) : Access → Bool
  | .read => p.r
  | .write => p.w
  | .rmw => p.r && p.w
  | .fetch => true

/-- The mapping of a virtual page in a context: the first one listed that covers it (R4, R11). -/
def Vdev.page? (d : Vdev) (vp : Nat) : Option (Nat × Perm) :=
  match d.cfg.maps.find? fun m => decide (m.vpage ≤ vp) && decide (vp < m.vpage + m.units) with
  | some m => if m.valid then some (m.ppage + (vp - m.vpage), m.perm) else none
  | none => none

/-- The owner of a physical page, when the ownership table gives it one (R448). -/
def State.pageOwner (s : State) (page : Nat) : Option KeyOwner := (s.owner.find? fun p => p.1 == page).map Prod.snd

/-- The physical pages of a context pool (R428). -/
def VdevCfg.poolPages (c : VdevCfg) : List Nat :=
  if c.poolsz = 0 then [] else (List.range ((c.pool + c.poolsz - 1) / 65536 - c.pool / 65536 + 1)).map fun i => c.pool / 65536 + i

/-- A physical page lies in the context pool of some virtual device: no page table of a tenant can map it (R428). -/
def State.poolPage (s : State) (page : Nat) : Bool := s.vdevs.any fun d =>
  d.cfg.poolsz != 0 && decide (d.cfg.pool / 65536 ≤ page) && decide (page ≤ (d.cfg.pool + d.cfg.poolsz - 1) / 65536)

/-- Virtual page of an address: bits [55:16]. -/
def pageOf (va : VAddr) : Nat := (va.toNat % 2 ^ 56) / 65536

/-- Translate (R11, R12, R15, R29, R177, R428, R448): the physical address, or class 3 or 4. -/
def State.translate (s : State) (v : Nat) (va : VAddr) (a : Access) : Except Nat Nat :=
  if !canonical va then .error 4
  else match s.vdev? v with
  | none => .error 3
  | some d => match d.page? (pageOf va) with
    | none => .error 3
    | some (pp, perm) =>
      let pa := pp * 65536 + va.toNat % 65536
      match physKind pa with
      | .reserved | .window => .error 4
      | k =>
        if k == .decoded && (s.regionOf (lineOf pa)).isNone then .error 4
        else if (match s.pageOwner pp with | some o => o != .part d.cfg.part | none => false) || s.poolPage pp then .error 4
        else if a == .fetch then (if d.exec.contains pp then .ok pa else .error 4)
        else if permAllows perm a then .ok pa else .error 4

/-- A line stands in the error-line table, directly or through a page entry (R363, R364). -/
def State.errHit (s : State) (x : Nat) : Bool := s.errLines.contains x || s.errPages.contains (x / 512)

/-- A store to a page that is set in an execute map removes the page (R30). -/
def State.dropExec (s : State) (page : Nat) : State :=
  { s with vdevs := s.vdevs.map fun d => { d with exec := d.exec.filter fun p => p != page } }

end Translation

section Regions

/-- Element format of a region (R371). -/
def regionTy (fmt : Nat) : Ty := match fmt with | 1 => .e2m1 | 2 => .e3m2 | 3 => .e2m3 | _ => .e4m3
/-- Bits of one packed element (R127). -/
def regionBits (fmt : Nat) : Nat := match fmt with | 1 => 4 | 2 | 3 => 6 | _ => 8

/-- Decode one record (R372): its 32 bytes with SAT and SUBN, none when the shift is 255. -/
def decodeRec (fmt : Nat) (bs : List Byte) : Option (List Byte × Bool × Bool) :=
  let sh := (bs.headD 0).toNat
  if sh = 255 then none
  else
    let w := regionBits fmt
    let n := leNat (bs.drop 1)
    let el (i : Nat) : Nat × Word :=
      let x := (n >>> (w * i)) % 2 ^ w
      match widen (fmtOf (regionTy fmt)) x with
      | .nan => (x / 128 * 128 + 127, 0)
      | v => roundTo (fmtOf .e4m3) .rne true false 0 (v.mul2 ((sh : Int) - 127))
    let es := (List.range 32).map el
    some (es.map fun e => BitVec.ofNat 8 e.1, es.any fun e => e.2 &&& flagSV != 0, es.any fun e => e.2 &&& flagUF != 0)

/-- The least shift from s on for which every element fits (R373); 254 at the end. -/
def encodeShift (F : Fmt) (vs : List Val) : Nat → Nat → Nat
  | 0, s => s
  | n + 1, s =>
    if vs.all fun v => (roundTo F .rne false false 0 (v.mul2 (127 - (s : Int)))).2 &&& flagOF == 0 then s
    else encodeShift F vs n (s + 1)

/-- Encode one record of 32 E4M3 bytes (R373): the packed record and ENX. -/
def encodeRec (fmt : Nat) (bs : List Byte) : List Byte × Bool :=
  let F := fmtOf (regionTy fmt)
  let w := regionBits fmt
  let vs := bs.map fun b => widen (fmtOf .e4m3) b.toNat
  let nums := vs.filter fun v => !v.isNan
  let sh := if vs.all Val.isZero then 127 else encodeShift F nums 254 0
  let el (b : Byte) : Nat × Bool :=
    match widen (fmtOf .e4m3) b.toNat with
    | .nan => if fmt = 4 then (b.toNat, false) else (0, true)
    | v =>
      let r := roundTo F .rne false false 0 (v.mul2 (127 - (sh : Int)))
      (r.1, r.2 &&& flagNX != 0)
  let es := bs.map el
  let n := ((List.range 32).zip es).foldl (fun acc p => acc + p.2.1 * 2 ^ (w * p.1)) 0
  (BitVec.ofNat 8 sh :: leBytes (4 * w) n, es.any Prod.snd)

/-- The bytes of record k of a region, read from the packed bytes. -/
def State.packedRec (s : State) (r : FmtReg) (k : Nat) : List Byte := Memory.read s.mem (r.pbase + k * recBytes r.fmt) (recBytes r.fmt)

/-- A record of decoded line y holds shift 255 (R372). -/
def State.decodeBad (s : State) (y : Nat) : Bool :=
  match s.regionOf y with
  | some (_, r) => (List.range 4).any fun j => (decodeRec r.fmt (s.packedRec r ((packedOf r y).1 + j))).isNone
  | none => false

/-- CP holds no value of decoded line y and its Decode would meet a record with shift 255 (R372, R374). -/
def State.undecodable (s : State) (y : Nat) : Bool := s.decodeBad y && !(s.decoded.any fun d => d.1 == y)

/-- Set sticky bits of a register (R371). -/
def State.stick (s : State) (i : Nat) (f : FmtReg → FmtReg) : State :=
  { s with fmtRegs := (List.range s.fmtRegs.length).zip s.fmtRegs |>.map fun p => if p.1 = i then f p.2 else p.2 }

/-- The fill of decoded line y met a record with shift 255: RSV (R372). -/
def State.stickRsv (s : State) (y : Nat) : State :=
  match s.regionOf y with
  | some (i, _) => s.stick i fun r => { r with rsv := true }
  | none => s

/-- Decode (R374): the four records of y go to CP(y) in one step. The bytes of a record that is not decoded are free: only a write
whose issue met no such record can come to one (log entry 27). -/
def State.decodeLine (s : State) (y : Nat) : State :=
  match s.regionOf y with
  | none => s
  | some (i, r) =>
    let recs := (List.range 4).map fun j => decodeRec r.fmt (s.packedRec r ((packedOf r y).1 + j))
    let bytes := (List.range 128).map fun o =>
      match rd recs (o / 32) with
      | some q => rd q.1 (o % 32)
      | none => Config.freeByte (s.tick * 128 + o)
    let s1 := { s with mem := Memory.setAll s.mem (cellsAt (128 * y) bytes), decoded := (y, [false, false, false, false]) :: s.decoded }
    s1.stick i fun g => { g with
      sat := g.sat || recs.any fun q => match q with | some x => x.2.1 | none => false
      subn := g.subn || recs.any fun q => match q with | some x => x.2.2 | none => false
      rsv := g.rsv || recs.any Option.isNone }

/-- Encode (R374): the dirty records of y go to the packed bytes in one step; y is clean. The packed page stays in the execute map: an Encode
is taken for no store to it (R30; DESIGN CHOICE, log entry 125). -/
def State.encodeLine (s : State) (y : Nat) : State :=
  match s.regionOf y, s.decoded.find? fun p => p.1 == y with
  | some (i, r), some (_, dirty) =>
    let k := (packedOf r y).1
    let outs := ((List.range 4).filter fun j => rd dirty j).map fun j => (j, encodeRec r.fmt (Memory.read s.mem (128 * y + 32 * j) 32))
    let mem : List Host.Cell := outs.foldl (fun m o => Memory.setAll m (cellsAt (r.pbase + (k + o.1) * recBytes r.fmt) o.2.1)) s.mem
    let clean (p : Nat × List Bool) : Nat × List Bool := if p.1 == y then (y, [false, false, false, false]) else p
    let s1 : State := { s with mem := mem, decoded := s.decoded.map clean }
    s1.stick i fun g => { g with enx := g.enx || outs.any fun o => o.2.2 }
  | _, _ => s

/-- Drop (R374): CP(y) holds no value. -/
def State.dropLine (s : State) (y : Nat) : State :=
  { s with decoded := s.decoded.filter fun p => p.1 != y
           mem := Memory.setAll s.mem (cellsAt (128 * y) (List.replicate 128 0)) }

/-- What comes before an access at CP(x) (R374): Decode where CP holds no value of a decoded line, Encode and Drop of the
decoded lines over a packed one. -/
def State.prepLine (s : State) (x : Nat) : State :=
  if (s.regionOf x).isSome then (if s.decoded.any fun p => p.1 == x then s else s.decodeLine x)
  else (s.packedOver x).foldl (fun s y => (s.encodeLine y).dropLine y) s

/-- The line as it stands at its commons point. -/
def State.cpLine (s : State) (x : Nat) : List Byte := Memory.read s.mem (128 * x) 128

/-- The records of a decoded line whose bytes a write or an atomic has changed become dirty (R374). -/
def State.markDirty (s : State) (x : Nat) (cells : List Host.Cell) : State :=
  { s with decoded := s.decoded.map fun p =>
      if p.1 == x then (x, (List.range 4).map fun j => rd p.2 j || cells.any fun c => decide (c.1 % 128 / 32 = j)) else p }

/-- One write step at CP(x): the named bytes of the line (R68). A whole-line write removes a line entry of the error-line
table (R364), and before it the page leaves every execute map (R30). -/
def State.cpWrite (s : State) (x : Nat) (cells : List Host.Cell) : State :=
  let s1 := (s.prepLine x).dropExec (x / 512)
  let s2 := { s1 with mem := Memory.setAll s1.mem cells
                      errLines := if (List.range 128).all fun o => cells.any fun c => c.1 == 128 * x + o
                                  then s1.errLines.filter fun y => y != x else s1.errLines }
  s2.markDirty x (cells.filter fun c => Memory.get s1.mem c.1 != Memory.get s2.mem c.1)

end Regions

section PartAccess

/-- One lane's access. -/
structure Req where
  lane  : Nat
  va    : VAddr
  size  : Nat
  deriving DecidableEq, Repr, Inhabited

/-- The pieces of an access, one for each line: offset in the access and length. -/
def piecesOf (a n : Nat) : List (Nat × Nat) :=
  let lines := (a + n - 1) / 128 - a / 128 + 1
  (List.range lines).map fun i =>
    let lo := max a (128 * (a / 128 + i))
    let hi := min (a + n) (128 * (a / 128 + i) + 128)
    (lo - a, hi - lo)

/-- Where the pieces of an access lie: physical address and length, or the class it faults with (R177, R182). -/
def State.place (s : State) (v : Nat) (r : Req) (a : Access) : Except Nat (List (Nat × Nat)) :=
  (piecesOf r.va.toNat r.size).foldl (fun acc p =>
    match acc, s.translate v (r.va + BitVec.ofNat 64 p.1) a with
    | .ok l, .ok pa => .ok (l ++ [(pa, p.2)])
    | .ok _, .error e => .error e
    | .error e, .error e' => .error (if e = 4 ∨ e' = 4 then 4 else e)
    | .error e, .ok _ => .error e) (.ok [])

/-- The part's own write at CP into memory of a context; it is lost where the context cannot be written or a line cannot be decoded, which sets
RSV (R372). -/
def State.partWrite (s : State) (v : Nat) (va : VAddr) (bs : List Byte) : State × Bool :=
  if bs.isEmpty then (s, true)
  else match s.place v ⟨0, va, bs.length⟩ .write with
  | .error _ => (s, false)
  | .ok segs =>
    if segs.any fun q => s.undecodable (lineOf q.1) then
      (segs.foldl (fun s q => if s.undecodable (lineOf q.1) then s.stickRsv (lineOf q.1) else s) s, false)
    else
      let go := segs.foldl (fun (acc : State × List Byte) q =>
        (acc.1.cpWrite (lineOf q.1) (cellsAt q.1 (acc.2.take q.2)), acc.2.drop q.2)) (s, bs)
      (go.1, true)

end PartAccess

section Brands

/-- The brand of a line in a deterministic launch (R376). -/
def Launch.brand? (l : Launch) (x : Nat) : Option Brand := l.brands.find? fun b => b.line == x

/-- The phase image that a block reads in place of CP(x) (R86, R376): none when it reads CP(x). -/
def Launch.image? (l : Launch) (block x : Nat) : Option (List Byte) :=
  if !l.lrec.det then none
  else match l.brand? x with
  | some b => if b.shared && b.owner != some block then some b.image else none
  | none => none

/-- A line as a read at CP(x) on behalf of a block gives it (R86, R376). -/
def State.lineFor (s : State) (tm block x : Nat) : List Byte := ((s.launchOf tm).image? block x).getD (s.cpLine x)

/-- The least place of a launch's brand area that no brand has taken. -/
def Launch.brandPlace (l : Launch) : Nat :=
  ((List.range (l.brands.length + 1)).find? fun k => l.brands.all fun b => b.slot != some k).getD l.brands.length

/-- The brand of line x, which has just been gained or used, in the brand area (R376): one that has spilled has its entry written, 16 bytes of a
layout that is not architectural, and one that has not may spill now, by a free choice. Where the area has no place for it, it has overflowed: the
shepherd ends the launch with status 5 (R383). A brand whose entry cannot be written stays in the commons (DESIGN CHOICE, log entry 40). -/
def State.spillBrand (s : State) (key x : Nat) : State :=
  match s.launch? key with
  | none => s
  | some l => match l.brand? x with
    | none => s
    | some b =>
      let k := b.slot.getD l.brandPlace
      if b.slot.isNone && !s.flip 8 l.brands.length then s
      else if l.lrec.brandsz / 16 ≤ k then s.modLaunch key fun l => { l with ending := some (l.ending.getD 5) }
      else
        let w := s.partWrite l.vdev (l.lrec.branda + BitVec.ofNat 64 (16 * k)) ((List.range 16).map fun i => Config.freeByte (s.tick * 1024 + i))
        w.1.modLaunch key fun l => { l with brands := l.brands.map fun y => if y.line == x && w.2 then { y with slot := some k } else y }

/-- Brand a line for a write or atomic by a block (R376): the launch after it, and whether the write is deferred. `cp` is the
line at CP before the write. -/
def Launch.brandWrite (l : Launch) (block x : Nat) (cp : List Byte) : Launch × Bool :=
  if !l.lrec.det then (l, false)
  else match l.brand? x with
  | none =>
    let b : Brand := { line := x, owner := some block, shared := false, declOwn := [], declShr := [], image := cp }
    ({ l with brands := b :: l.brands }, false)
  | some b =>
    if b.owner == some block then (l, false)
    else ({ l with brands := l.brands.map fun y => if y.line == x then { y with shared := true } else y }, true)

/-- Put a deferred access into DB(b) (R86, R376); `seq` is the number of its store, which rises in the order of issue and so
in Drain order. -/
def Launch.defer (l : Launch) (home : Nat × Nat × Nat) (seq : Nat) (op : DefOp) : Launch :=
  { l with dbs := l.dbs ++ [{ key := home, seq := seq, op := op }] }

/-- A store step that covers the whole line has written its last part: a line entry of the error-line table goes (R364). -/
def State.clearErr (s : State) (x : Nat) (whole : Bool) : State :=
  if whole then { s with errLines := s.errLines.filter fun y => y != x } else s

/-- One write step at CP(x) by a block of a launch: performed, or deferred to its DB (R86, R376). `whole` says that it ends a store step that
covers the line (R364). Answers also whether it was deferred. -/
def State.cpStore (s : State) (key seq : Nat) (home : Nat × Nat × Nat) (x : Nat) (cells : List Host.Cell) (whole : Bool) : State × Bool :=
  match s.launch? key with
  | none => ((s.cpWrite x cells).clearErr x whole, false)
  | some l =>
    if !l.lrec.det then ((s.cpWrite x cells).clearErr x whole, false)
    else
      let s1 := s.prepLine x
      let q := l.brandWrite home.1 x (s1.cpLine x)
      let s2 := (s1.modLaunch key fun _ => q.1).spillBrand key x
      if q.2 then (s2.modLaunch key fun l => l.defer home seq (.write cells whole), true)
      else ((s2.cpWrite x cells).clearErr x whole, false)

end Brands

section Views

/-- Bytes of a line with cells written over them. -/
def overlay (x : Nat) (line : List Byte) (cells : List Host.Cell) : List Byte :=
  cells.foldl (fun l c => if c.1 / 128 = x then l.set (c.1 % 128) c.2 else l) line

/-- Refresh (R72): the copy is replaced by CP(x). -/
def State.refreshLine (s : State) (c x : Nat) : State :=
  let s1 := s.prepLine x
  s1.modCore c fun k => k.setLine { k.line x with copy := some (s1.cpLine x) }

/-- Every line of the view that holds no unpropagated write is dropped (R75). -/
def State.dropClean (s : State) (c : Nat) : State :=
  s.modCore c fun k => { k with cv := k.cv.filter fun l => !l.pend.isEmpty }

/-- The acquire effect at a scope (R75, R83): plain below DIE. -/
def State.acquire (s : State) (c : Nat) (sc : Scope) : State :=
  match sc with
  | .group | .team | .core => s
  | _ => s.dropClean c

/-- A scope satisfied at CP (R70). A DIE-scope access always takes the moves of a DEVICE-scope one, as R74 to R77 give them to DIE and wider, so
that the plain outcomes which R71 allows it toward another die never show (DESIGN CHOICE, log entry 105). -/
def scopeWide : Scope → Bool
  | .group | .team | .core => false
  | _ => true

/-- What a release at a scope waits for besides the order of issue, tested until it goes on (R74). -/
def releaseConds (sc : Scope) : List Cond := if scopeWide sc then [.viewClean] else []

/-- The entries with fabric operations that a group has posted (R74). -/
def State.fabIds (s : State) (tm g : Nat) : List Nat :=
  (s.entries.filter fun e => e.team == tm && e.groups.contains g && e.work.remote).map fun e => e.id

/-- At SYSTEM, the fabric operations that the group has caused so far are delivered (R74, R77): a release is tested with those before its step
(R76), and a fence, which holds its group's issue point, with those before it. -/
def State.fabSnap (s : State) (tm g : Nat) (sc : Scope) : List Cond := if sc == .system then [.fabricDone (s.fabIds tm g)] else []

/-- ORDER includes release, acquire. -/
def ordRel (o : Order) : Bool := o == .rel || o == .acqrel
def ordAcq (o : Order) : Bool := o == .acq || o == .acqrel

/-- Propagate (R72, R86): the oldest unpropagated write to x goes to CP(x) or into a DB. -/
def State.propagateLine (s : State) (c x : Nat) : State :=
  let l := (s.core c).line x
  match l.pend with
  | [] => s
  | w :: rest =>
    let key := match s.team? w.team with | some t => t.launch | none => 0
    let (s1, deferred) := s.cpStore key w.id w.home x w.cells w.whole
    s1.modCore c fun k =>
      k.setLine { l with pend := rest
                         copy := if deferred then l.copy else l.copy.map fun b => overlay x b w.cells }

/-- The stores that a Drain of the head takes: the entry, with the parts linked to it (R309). -/
def headBatch : List SqEntry → List SqEntry × List SqEntry
  | [] => ([], [])
  | e :: t =>
    if e.link = 0 then ([e], t)
    else
      let more := t.takeWhile fun y => decide (y.link > 1)
      (e :: more, t.drop more.length)

/-- The slots of a store in the order in which they are applied: by lane, also where a lane's bytes stand in several linked entries (R69,
R309). -/
def batchSlots (es : List SqEntry) : List SqSlot :=
  let slots := es.flatMap SqEntry.slots
  if es.length ≤ 1 then slots else sortBy (fun (a b : SqSlot) => decide (a.lane < b.lane)) slots

/-- The bytes of slots cover line x. -/
def coversLine (slots : List SqSlot) (x : Nat) : Bool :=
  (List.range 128).all fun o => slots.any fun q => decide (q.phys ≤ 128 * x + o) && decide (128 * x + o < q.phys + q.data.length)

/-- The unpropagated writes that a store leaves in a view: one for each line. In a deterministic launch the bytes of lanes that act
as different blocks go apart, since each is branded and deferred as its block's (R376); the last of them ends the store step (R364). -/
def batchWrites (det : Bool) (tm g : Nat) (es : List SqEntry) : List CvWrite :=
  let home (q : SqSlot) : Nat × Nat × Nat := if det then q.home else (0, 0, 0)
  let slots := batchSlots es
  let keys := (slots.map fun q => (lineOf q.phys, home q)).eraseDups
  let lastOf (x : Nat) : Nat × Nat × Nat := ((keys.reverse.find? fun k => k.1 == x).map Prod.snd).getD (0, 0, 0)
  keys.map fun k =>
    { id := (es.headD { id := 0, scratch := false, size := 0, order := .plain, scope := .group, cache := .dflt, slots := [] }).id
      team := tm, group := g, home := k.2
      cells := (slots.filter fun q => lineOf q.phys == k.1 && home q == k.2).flatMap fun q => cellsAt q.phys q.data
      whole := coversLine (slots.filter fun q => lineOf q.phys == k.1) k.1 && lastOf k.1 == k.2 }

/-- Put an unpropagated write into a view. -/
def State.viewWrite (s : State) (c : Nat) (w : CvWrite) : State :=
  match w.cells with
  | [] => s
  | (a, _) :: _ => s.modCore c fun k => let l := k.line (lineOf a); k.setLine { l with pend := l.pend ++ [w] }

/-- Drain (R72, R73): the head entry is applied to CV(c), or to SP(c). -/
def State.drainHead (s : State) (tm g : Nat) : State :=
  let q := headBatch (s.group tm g).sq
  let c := s.coreOf tm
  let s1 := s.modGroup tm g fun gr => { gr with sq := q.2 }
  match q.1 with
  | [] => s
  | e :: _ =>
    if e.scratch then
      s1.modTeam tm fun t => { t with sp := Memory.setAll t.sp (e.slots.flatMap fun q => cellsAt q.phys q.data) }
    else (batchWrites (s.launchOf tm).lrec.det tm g q.1).foldl (fun s w => s.viewWrite c w) s1

/-- The scratchpad blocks of a range (R248). -/
def spKeys (tm off n : Nat) : List LineKey :=
  (List.range ((off + n - 1) / 128 - off / 128 + 1)).map fun i => .sp tm (off / 128 + i)

/-- The head entry meets what a Drain asks for (R72, R74, R248). -/
def State.drainReady (s : State) (tm g : Nat) : Bool :=
  match (s.group tm g).sq with
  | [] => false
  | e :: _ =>
    if e.scratch then e.slots.all fun q => (spKeys tm q.phys q.data.length).all fun k => !s.owned k
    else !(ordRel e.order) || s.allHold tm g 0 (.fabricDone e.fab :: releaseConds e.scope)

end Views

section LaneAccess

/-- A placed access of one lane. -/
structure Placed where
  lane  : Nat
  va    : VAddr
  segs  : List (Nat × Nat)
  deriving DecidableEq, Repr, Inhabited

/-- The first class of R182 among the lanes' faults, with its lanes and the address of the lowest. -/
def firstFault (kind : Nat) (fs : List (Nat × Nat × VAddr)) : Option FaultInfo :=
  [6, 4, 3, 5, 12].findSome? fun cls =>
    match fs.filter fun f => f.2.1 == cls with
    | [] => none
    | l => some { cls := cls, mask := maskOf fun k => l.any fun f => f.1 == k, kind := kind,
                  va := match l.find? fun f => l.all fun q => decide (f.1 ≤ q.1) with | some f => f.2.2 | none => 0
                  vas := l.map fun f => (f.1, f.2.2) }

/-- Test the accesses of one step (R177, R178, R182, R364): the fault, or the placed accesses and the lanes whose fault NF
suppresses (R181). -/
def State.placeAll (s : State) (v : Nat) (rs : List Req) (a : Access) (align : Nat) (kind : Nat) (nf : Bool) :
    Except FaultInfo (List Placed × List Nat) :=
  let one (r : Req) : Req × Except Nat (List (Nat × Nat)) :=
    (r, if r.va.toNat % align != 0 then .error 6 else s.place v r a)
  let ps := rs.map one
  let quiet (e : Nat) : Bool := nf && (e == 3 || e == 4)
  let good := ps.filterMap fun p => match p.2 with | .ok l => some (⟨p.1.lane, p.1.va, l⟩ : Placed) | .error _ => none
  let cells := good.flatMap fun p => p.segs.map fun q => q
  let whole (x : Nat) : Bool := a == .write && (List.range 128).all fun o =>
    cells.any fun q => decide (q.1 ≤ 128 * x + o) && decide (128 * x + o < q.1 + q.2)
  let bad (p : Placed) : Option Nat :=
    if p.segs.any fun q => s.errHit (lineOf q.1) && !whole (lineOf q.1) then some 5
    else if p.segs.any fun q => s.undecodable (lineOf q.1) then some 12
    else none
  let fs := ps.filterMap (fun p => match p.2 with
      | .error e => if quiet e then none else some (p.1.lane, e, p.1.va)
      | .ok _ => none) ++ good.filterMap fun p => (bad p).map fun e => (p.lane, e, p.va)
  match firstFault kind fs with
  | some f => .error f
  | none => .ok (good, ps.filterMap fun p => match p.2 with | .error e => if quiet e then some p.1.lane else none | .ok _ => none)

/-- The lines of placed accesses. -/
def linesOf (ps : List Placed) : List Nat := (ps.flatMap fun p => p.segs.map fun q => lineOf q.1).eraseDups

/-- A class 12 fault has set RSV of the regions concerned (R372). -/
def State.noteRsv (s : State) (v : Nat) (rs : List Req) : State :=
  rs.foldl (fun s r => match s.place v r .read with
    | .ok l => l.foldl (fun s q => if s.undecodable (lineOf q.1) then s.stickRsv (lineOf q.1) else s) s
    | .error _ => s) s

/-- Take a fault of an access; a class 12 fault leaves RSV set (R219, R372). -/
def accessFault (c : Cur) (rs : List Req) (f : FaultInfo) : Act :=
  if f.cls == 12 then .noted (fun s => s.noteRsv (s.vdevOf c.team) rs) f else .fault f

/-- A byte from the youngest store of the store queue that covers it (R72, R197); of the lanes of one store, linked entries included, the
highest-numbered stands (R69). -/
def sqByte (sq : List SqEntry) (scratch : Bool) (a : Nat) : Option Byte :=
  let slot (acc : Option (Byte × Nat)) (q : SqSlot) : Option (Byte × Nat) :=
    if (q.phys ≤ a ∧ a < q.phys + q.data.length) ∧ (acc.map Prod.snd).getD 0 ≤ q.lane then some (rd q.data (a - q.phys), q.lane) else acc
  let entry (acc : Option (Byte × Nat)) (e : SqEntry) : Option (Byte × Nat) :=
    if e.scratch != scratch then acc
    else e.slots.foldl slot (if e.link ≤ 1 then acc.map fun p => (p.1, 0) else acc)
  (sq.foldl entry none).map Prod.fst

/-- A byte from unpropagated writes of a line, the youngest standing. -/
def pendByte (ws : List CvWrite) (a : Nat) : Option Byte :=
  ws.foldl (fun acc w => match w.cells.reverse.find? fun c => c.1 == a with | some c => some c.2 | none => acc) none

/-- The phase image that a lane reads in place of line x (R86, R376). -/
def State.laneImage (s : State) (tm g lane x : Nat) : Option (List Byte) := (s.launchOf tm).image? (s.lane tm g lane).home.1 x

/-- A byte as a Load reads it (R72, R75, R197): from the store queue, from unpropagated writes of the view, and else from the view's copy or
CP. Where the lane's block reads a phase image, that stands in place of CP (R86, R376), and of the unpropagated writes only those of its own
block come before it (DEDUCED, log entry 67). -/
def State.loadByte (s : State) (tm g lane : Nat) (deep : Bool) (a : Nat) : Byte :=
  let x := lineOf a
  let l := (s.core (s.coreOf tm)).line x
  let image := s.laneImage tm g lane x
  let seen (w : CvWrite) : Bool := image.isNone || w.home.1 == (s.lane tm g lane).home.1
  match sqByte (s.group tm g).sq false a with
  | some b => b
  | none => match pendByte (l.pend.filter seen) a with
    | some b => b
    | none => match image with
      | some im => rd im (a % 128)
      | none => if deep then Memory.get s.mem a else match l.copy with | some cp => rd cp (a % 128) | none => Memory.get s.mem a

/-- Every byte of a line's pieces comes from elsewhere than the view's copy: a phase image, the store queue or unpropagated writes. -/
def State.covered (s : State) (tm g : Nat) (ps : List Placed) (x : Nat) : Bool :=
  ps.all fun p => (s.laneImage tm g p.lane x).isSome || p.segs.all fun q => lineOf q.1 != x || (List.range q.2).all fun o =>
    (sqByte (s.group tm g).sq false (q.1 + o)).isSome || (pendByte ((s.core (s.coreOf tm)).line x).pend (q.1 + o)).isSome

/-- What a Load waits for (R72, R82): no line owned, and a copy or a clean line where a byte comes from the view. -/
def State.loadConds (s : State) (tm g : Nat) (deep : Bool) (ps : List Placed) : List Cond :=
  let ls := linesOf ps
  let need := ls.filter fun x => !s.covered tm g ps x
  [.unowned (ls.map LineKey.mem)] ++ (if deep then [] else [.readable need])

/-- Before a Load the view takes a Refresh of each line that it holds no copy of (R72); an acquire reads CP(x) directly. -/
def State.loadPrep (s : State) (tm : Nat) (deep : Bool) (ls : List Nat) : State :=
  let c := s.coreOf tm
  ls.foldl (fun s x => if deep then s.prepLine x
    else if ((s.core c).line x).copy.isSome || !((s.core c).line x).pend.isEmpty then s else s.refreshLine c x) s

/-- The bytes of one placed access. -/
def State.loadBytes (s : State) (tm g : Nat) (deep : Bool) (p : Placed) : List Byte :=
  p.segs.flatMap fun q => (List.range q.2).map fun o => s.loadByte tm g p.lane deep (q.1 + o)

/-- The block, group and lane as which a lane's writes are taken; those of folded lanes follow the block's own (R376). -/
def State.homeOf (s : State) (tm g l : Nat) : Nat × Nat × Nat :=
  let h := (s.lane tm g l).home
  match s.team? tm with
  | some t => (match t.origin with | .fold .. => (h.1, 8 + h.2.1, h.2.2) | _ => (h.1, g, 0))
  | none => h

/-- The slots of a store. -/
def slotsOf (s : State) (tm g : Nat) (ps : List Placed) (data : Nat → List Byte) : List SqSlot :=
  ps.flatMap fun p =>
    let offs := p.segs.foldl (fun (acc : List (Nat × Nat × Nat) × Nat) q => (acc.1 ++ [(q.1, q.2, acc.2)], acc.2 + q.2)) ([], 0)
    let home := s.homeOf tm g p.lane
    offs.1.map fun q => { lane := p.lane, addr := p.va, phys := q.1, data := (data p.lane).drop q.2.2 |>.take q.2.1, home := home }

/-- Enqueue (R72): one entry holding every active lane's bytes; pages in an execute map leave it (R30). -/
def State.enqueue (s : State) (tm g : Nat) (scratch : Bool) (size : Nat) (m : Mods) (order : Order) (scope : Scope) (link : Nat)
    (slots : List SqSlot) : State :=
  if slots.isEmpty then s
  else
    let (id, s1) := s.fresh
    let e : SqEntry := { id := id, scratch := scratch, size := size, order := order, scope := scope,
                         cache := (m.x.map XMod.cache).getD .dflt, link := link
                         fab := if ordRel order && scope == .system then s.fabIds tm g else [], slots := slots }
    let s2 := s1.modGroup tm g fun gr => { gr with sq := gr.sq ++ [e] }
    if scratch then s2 else ((slots.map fun q => q.phys / 65536).eraseDups).foldl State.dropExec s2

end LaneAccess

end Sys2Proof.Machine
end

