-- ==== Sys2Proof/Machine/Memory.lean ====
section
/-!
DEFINITION. Loads, stores, atomics and fences: majors 0x16 to 0x18 (09_lane_memory_sync R177-R190), and the moment load and
store of major 0x1B (10_lane_moments R217).
-/
namespace Sys2Proof

/-- SCOPE with the default of an instruction. -/
def Mods.scopeD (m : Mods) (d : Scope) : Scope := (m.x.map XMod.scope).getD d
/-- ORDER with the default of an instruction. -/
def Mods.orderD (m : Mods) (d : Order) : Order := (m.x.map XMod.order).getD d

end Sys2Proof

namespace Sys2Proof.Machine
open Sys2Proof

section Addresses

/-- Bytes of a SIZE (R177). -/
def sizeBytes (c : Nat) : Nat := match c with | 1 => 1 | 2 => 2 | 3 => 8 | 4 => 16 | _ => 4

/-- The offset field in elements: B, or K : B as a 27-bit signed number (R177). -/
def elemOff (m : Mods) (b : BitVec 6) : Int := match m.k with | some k => (k ++ b : BitVec 27).toInt | none => b.toInt

/-- The pair vA, vA+1 as an address. -/
def State.pairV (s : State) (c : Cur) (l r : Nat) : VAddr := pair (s.rdV c.team c.group l r) (s.rdV c.team c.group l (r + 1))
/-- The pair sA, sA+1 of the path's copy. -/
def State.pairS (s : State) (c : Cur) (r : Nat) : BitVec 64 := pair (s.rdS c r) (s.rdS c (r + 1))

/-- The address of a lane's access of major 0x16 or 0x1B (R177). -/
def State.address (s : State) (c : Cur) (m : Mods) (f : RForm) (size l : Nat) : VAddr :=
  if m.clsBit 4 then
    s.pairS c f.a.toNat + BitVec.setWidth 64 (s.rdV c.team c.group l f.b.toNat) +
      (match m.k with | some k => BitVec.signExtend 64 k | none => 0)
  else s.pairV c l f.a.toNat + BitVec.ofInt 64 (elemOff m f.b * size)

end Addresses

section Loads

/-- A Load of the lanes' requests (R72, R75, R181, R182): their fault, their wait, or `k` on the state after the moves and the
bytes of each lane. -/
def loadAct (c : Cur) (s : State) (rs : List Req) (align kind : Nat) (nf : Bool) (o : Order) (sc : Scope)
    (k : State → List Nat → (Nat → List Byte) → Act) : Act :=
  match s.placeAll (s.vdevOf c.team) rs .read align kind nf with
  | .error f => accessFault c rs f
  | .ok (ps, quiet) =>
    let deep := ordAcq o && scopeWide sc
    s.need c (s.loadConds c.team c.group deep ps) [] none <|
      let s1 := s.loadPrep c.team deep (linesOf ps)
      let got := ps.map fun p => (p.lane, s1.loadBytes c.team c.group deep p)
      let size := (rs.headD ⟨0, 0, 0⟩).size
      let bytes (l : Nat) : List Byte := match got.find? fun q => q.1 == l with | some q => q.2 | none => List.replicate size 0
      k (if deep then s1.dropClean c.core else s1) quiet bytes

/-- The registers of a loaded value: sub-word loads write the whole of vD (R178). -/
def loadedWords (size : Nat) (sx : Bool) (bs : List Byte) : List Word :=
  match size with
  | 1 => [if sx then BitVec.signExtend 32 (BitVec.ofNat 8 (leNat bs)) else BitVec.ofNat 32 (leNat bs)]
  | 2 => [if sx then BitVec.signExtend 32 (BitVec.ofNat 16 (leNat bs)) else BitVec.ofNat 32 (leNat bs)]
  | n => wordsOf (n / 4) bs

/-- The bytes that a store of a size takes from vD on (R178). -/
def State.storeBytes (s : State) (c : Cur) (d size l : Nat) : List Byte :=
  (bytesOf (s.rdVs c.team c.group l d ((size + 3) / 4))).take size

/-- LD (R179, R180, R181). -/
def execLd (m : Mods) (f : RForm) (s : State) : Res :=
  issue (.ld m f) s fun c s =>
    let f := f.at m c.rep
    let size := sizeBytes (m.clsField 0 3)
    let rs := (lanesOf (s.guarded c f.g)).map fun l => (⟨l, s.address c m f size l, size⟩ : Req)
    loadAct c s rs size kindRead ((m.x.map XMod.nf).getD false) (m.orderD .plain) (m.scopeD .group) fun s1 _ bytes =>
      lanewise c s1 f.g fun l => { v := vWrites f.d.toNat (loadedWords size (m.clsBit 3) (bytes l)) }

/-- MLD (R217). The record of a negative variance has KIND 0 and VA 0: that it names the access's address is not said (DESIGN CHOICE, log
entry 113). -/
def execMld (m : Mods) (f : RForm) (s : State) : Res :=
  issue (.mld m f) s fun c s =>
    let f := f.at m c.rep
    let rs := (lanesOf (s.guarded c f.g)).map fun l => (⟨l, s.address c m f 8 l, 8⟩ : Req)
    loadAct c s rs 8 kindRead ((m.x.map XMod.nf).getD false) (m.orderD .plain) (m.scopeD .group) fun s1 quiet bytes =>
      let p (l : Nat) : Moment := { mean := rd (wordsOf 2 (bytes l)) 0, var := rd (wordsOf 2 (bytes l)) 1 }
      let neg (l : Nat) : Bool := !quiet.contains l && isNegVar (f32 (p l).var.toNat)
      let clamp (l : Nat) : Bool := if m.x.isSome then m.clsBit 3 else (s.lane c.team c.group l).mmode.getLsbD 2
      let bad := maskOf fun l => inMask (s.guarded c f.g) l && neg l && !clamp l
      if bad != 0 then .fault { cls := 8, mask := bad }
      else lanewise c s1 f.g fun l =>
        { other := fun ln => { ln with
            m := wr ln.m f.d.toNat (if neg l then { p l with var := 0 } else p l)
            mstat := if neg l then ln.mstat ||| 16 else ln.mstat } }

/-- PREF (R184): it never faults and moves nothing that another move could not. -/
def execPref (m : Mods) (f : RForm) (s : State) : Res := issue (.pref m f) s fun _ s => .done s

end Loads

section Stores

/-- The lanes that store: guarded and not helpers (R110). -/
def State.storing (s : State) (c : Cur) (g : BitVec 3) : List Nat :=
  (lanesOf (s.guarded c g)).filter fun l => !(s.lane c.team c.group l).helper

/-- A store of the lanes' requests (R72, R182, R230): their fault, the wait for room, or the enqueue. -/
def storeAct (c : Cur) (s : State) (rs : List Req) (align : Nat) (m : Mods) (o : Order) (sc : Scope)
    (data : Nat → List Byte) : Act :=
  match s.placeAll (s.vdevOf c.team) rs .write align kindWrite false with
  | .error f => accessFault c rs f
  | .ok (ps, _) =>
    if ps.isEmpty then .done s
    else s.need c [.sqRoom 1] [] none <|
      .done (s.enqueue c.team c.group false ((rs.headD ⟨0, 0, 0⟩).size) m o sc 0 (slotsOf s c.team c.group ps data))

/-- ST (R179, R180). -/
def execSt (m : Mods) (f : RForm) (s : State) : Res :=
  issue (.st m f) s fun c s =>
    let f := f.at m c.rep
    let size := sizeBytes (m.clsField 0 3)
    let rs := (s.storing c f.g).map fun l => (⟨l, s.address c m f size l, size⟩ : Req)
    storeAct c s rs size m (m.orderD .plain) (m.scopeD .group) fun l => s.storeBytes c f.d.toNat size l

/-- MST (R217). -/
def execMst (m : Mods) (f : RForm) (s : State) : Res :=
  issue (.mst m f) s fun c s =>
    let f := f.at m c.rep
    let rs := (s.storing c f.g).map fun l => (⟨l, s.address c m f 8 l, 8⟩ : Req)
    storeAct c s rs 8 m (m.orderD .plain) (m.scopeD .group) fun l =>
      let q := s.rdM c l f.d.toNat
      bytesOf [q.mean, q.var]

/-- The scratchpad offset of a lane (R183). -/
def State.spOffset (s : State) (c : Cur) (m : Mods) (f : RForm) (size l : Nat) : Int :=
  ((s.rdV c.team c.group l f.a.toNat).toNat : Int) + elemOff m f.b * size

/-- Test scratchpad accesses (R178, R182, R183). -/
def State.spFault (s : State) (c : Cur) (m : Mods) (f : RForm) (size kind : Nat) (ls : List Nat) : Option FaultInfo :=
  firstFault kind (ls.filterMap fun l =>
    let o := s.spOffset c m f size l
    if o % size ≠ 0 then some (l, 6, BitVec.ofInt 64 o)
    else if o < 0 ∨ ((s.launchOf c.team).lrec.tscr * 4096 : Nat) ≤ o then some (l, 4, BitVec.ofInt 64 o)
    else none)

/-- LDS (R183). -/
def execLds (m : Mods) (f : RForm) (s : State) : Res :=
  issue (.lds m f) s fun c s =>
    let f := f.at m c.rep
    let size := sizeBytes (m.clsField 0 3)
    let ls := lanesOf (s.guarded c f.g)
    match s.spFault c m f size kindRead ls with
    | some e => .fault e
    | none =>
      let off (l : Nat) : Nat := (s.spOffset c m f size l).toNat
      s.need c [.unowned (ls.flatMap fun l => spKeys c.team (off l) size)] [] none <|
        let byte (a : Nat) : Byte := (sqByte (s.group c.team c.group).sq true a).getD (s.spByte c.team a)
        lanewise c s f.g fun l =>
          { v := vWrites f.d.toNat (loadedWords size (m.clsBit 3) ((List.range size).map fun o => byte (off l + o))) }

/-- STS (R183). -/
def execSts (m : Mods) (f : RForm) (s : State) : Res :=
  issue (.sts m f) s fun c s =>
    let f := f.at m c.rep
    let size := sizeBytes (m.clsField 0 3)
    let ls := s.storing c f.g
    match s.spFault c m f size kindWrite ls with
    | some e => .fault e
    | none =>
      if ls.isEmpty then .done s
      else s.need c [.sqRoom 1] [] none <|
        .done (s.enqueue c.team c.group true size m .plain .group 0 (ls.map fun l =>
          { lane := l, addr := BitVec.ofInt 64 (s.spOffset c m f size l), phys := (s.spOffset c m f size l).toNat
            data := s.storeBytes c f.d.toNat size l }))

end Stores

section Atomics

/-- Op(m, b) of R186 and R187 on values of `size` bytes. -/
def AtomOp.apply (o : AtomOp) (size old b : Nat) : Nat :=
  let w := 8 * size
  let int (x : Nat) : Int := (BitVec.ofNat w x).toInt
  match o with
  | .add _ => (old + b) % 2 ^ w
  | .min s => if (if s then decide (int b < int old) else decide (b < old)) then b else old
  | .max s => if (if s then decide (int old < int b) else decide (old < b)) then b else old
  | .and => old &&& b
  | .or => old ||| b
  | .xor => old ^^^ b
  | .xchg => b
  | .fadd t =>
    (pack t ((List.range t.count).map fun j =>
      (roundTo (fmtOf t) .rne false false 0 (sumExact false
        [widen (fmtOf t) (sub t (BitVec.ofNat 32 old) j), widen (fmtOf t) (sub t (BitVec.ofNat 32 b) j)]).1).1)).toNat
  | .cas cmp => if old = cmp then b else old

/-- One lane's step of an atomic (R76, R86): the old value, and the state after it. A deferred one returns what PI(x) holds. -/
def State.atomStep (s : State) (tm g lane pa size : Nat) (o : AtomOp) (b : Nat) : State × Nat :=
  let x := lineOf pa
  let key := match s.team? tm with | some t => t.launch | none => 0
  let s1 := s.prepLine x
  let l := s1.launchOf tm
  let home := s1.homeOf tm g lane
  let q := l.brandWrite home.1 x (s1.cpLine x)
  if q.2 then
    let im := match q.1.brand? x with | some br => br.image | none => s1.cpLine x
    let (id, s2) := ((s1.modLaunch key fun _ => q.1).spillBrand key x).fresh
    (s2.modLaunch key fun l => l.defer home id (.atom pa size o b), leNat ((im.drop (pa % 128)).take size))
  else
    let old := leNat (Memory.read s1.mem pa size)
    let cells := cellsAt pa (leBytes size (o.apply size old b))
    let s2 := (if l.lrec.det then (s1.modLaunch key fun _ => q.1).spillBrand key x else s1).cpWrite x cells
    (s2.modCore (s2.coreOf tm) fun k => let y := k.line x; k.setLine { y with copy := y.copy.map fun bs => overlay x bs cells }, old)

/-- An atomic of the lanes (R76, R186-R188): their fault, their wait, or the steps in increasing lane number with `ret`, the
register that takes the old value. -/
def atomAct (c : Cur) (s : State) (g : BitVec 3) (a size : Nat) (op : Nat → AtomOp) (b : Nat → Nat) (o : Order)
    (sc : Scope) (ret : Option Nat) : Act :=
  let rs := (s.storing c g).map fun l => (⟨l, s.pairV c l a, size⟩ : Req)
  match s.placeAll (s.vdevOf c.team) rs .rmw size kindRmw false with
  | .error f => accessFault c rs f
  | .ok (ps, _) =>
    if ps.isEmpty then .done s
    else
      let ls := linesOf ps
      s.need c ([.sqEmpty, .unowned (ls.map LineKey.mem), .linesClean ls] ++
          (if ordRel o then releaseConds sc ++ s.fabSnap c.team c.group sc else [])) [] none <|
        let go := ps.foldl (fun (acc : State × List (Nat × Nat)) p =>
          let r := acc.1.atomStep c.team c.group p.lane ((p.segs.headD (0, 0)).1) size (op p.lane) (b p.lane)
          (r.1, acc.2 ++ [(p.lane, r.2)])) (s, [])
        let s1 := if ordAcq o then go.1.acquire c.core sc else go.1
        match ret with
        | none => .done s1
        | some d =>
          .done (s1.applyFx c.team c.group (maskOf fun l => ps.any fun p => p.lane == l) fun l =>
            match go.2.find? fun q => q.1 == l with
            | some q => { v := vWrites d (wordsOf (size / 4) (leBytes size q.2)) }
            | none => {})

/-- ATOM (R186). -/
def atomI (op : AtomOp) (i : Instr) (m : Mods) (f : RForm) (s : State) : Res :=
  issue i s fun c s =>
    let f := f.at m c.rep
    atomAct c s f.g f.a.toNat 4 (fun _ => op) (fun l => (s.rdV c.team c.group l f.b.toNat).toNat) (m.orderD .acqrel)
      (m.scopeD .device) (some f.d.toNat)

/-- The comparison is signed for I32 (R186). -/
def signedTy (m : Mods) : Bool := m.ty == .w32

/-- ATOM.ADD (R186). -/
def execAtomAdd (m : Mods) (f : RForm) (s : State) : Res := atomI (.add (signedTy m)) (.atomAdd m f) m f s
/-- ATOM.MIN (R186). -/
def execAtomMin (m : Mods) (f : RForm) (s : State) : Res := atomI (.min (signedTy m)) (.atomMin m f) m f s
/-- ATOM.MAX (R186). -/
def execAtomMax (m : Mods) (f : RForm) (s : State) : Res := atomI (.max (signedTy m)) (.atomMax m f) m f s
/-- ATOM.AND (R186). -/
def execAtomAnd (m : Mods) (f : RForm) (s : State) : Res := atomI .and (.atomAnd m f) m f s
/-- ATOM.OR (R186). -/
def execAtomOr (m : Mods) (f : RForm) (s : State) : Res := atomI .or (.atomOr m f) m f s
/-- ATOM.XOR (R186). -/
def execAtomXor (m : Mods) (f : RForm) (s : State) : Res := atomI .xor (.atomXor m f) m f s
/-- ATOM.XCHG (R186). -/
def execAtomXchg (m : Mods) (f : RForm) (s : State) : Res := atomI .xchg (.atomXchg m f) m f s
/-- ATOM.FADD (R186). -/
def execAtomFadd (m : Mods) (f : RForm) (s : State) : Res := atomI (.fadd m.ty) (.atomFadd m f) m f s

/-- CAS (R187). -/
def execCas (m : Mods) (f : RForm) (s : State) : Res :=
  issue (.cas m f) s fun c s =>
    let f := f.at m c.rep
    let size := if m.clsBit 0 then 8 else 4
    let val (r l : Nat) : Nat := leNat (s.storeBytes c r size l)
    atomAct c s f.g f.a.toNat size (fun l => .cas (val f.d.toNat l)) (fun l => val f.b.toNat l) (m.orderD .acqrel)
      (m.scopeD .device) (some f.d.toNat)

/-- RED's operation (R188). -/
def redOp (m : Mods) : AtomOp :=
  match m.clsField 0 3 with
  | 0 => .add (signedTy m) | 1 => .min (signedTy m) | 2 => .max (signedTy m) | 3 => .and | 4 => .or | 5 => .xor
  | 6 => .xchg | _ => .fadd m.ty

/-- RED (R188). -/
def execRed (m : Mods) (f : RForm) (s : State) : Res :=
  issue (.red m f) s fun c s =>
    let f := f.at m c.rep
    atomAct c s f.g f.a.toNat 4 (fun _ => redOp m) (fun l => (s.rdV c.team c.group l f.b.toNat).toNat)
      (m.orderD .plain) (m.scopeD .device) none

end Atomics

section Fences

/-- The stores of the group that have not reached CP: those queued and those unpropagated in a view (R80). -/
def State.ownStores (s : State) (tm g : Nat) : List Nat :=
  ((s.group tm g).sq.map fun e => e.id) ++ s.cores.flatMap fun k => k.cv.flatMap fun l =>
    (l.pend.filter fun w => w.vis.isNone && w.team == tm && w.group == g).map fun w => w.id

/-- The condition of R77 at a scope: what holds now, and what was taken when the instruction came to its issue point, which it then holds, so
that nothing of the group comes after (`State.holdsIp`). -/
def State.fenceConds (s : State) (c : Cur) (sc : Scope) : List Cond × List Cond :=
  ([.sqEmpty],
   (if scopeWide sc then [.storesGone (((s.core c.core).pendIds ++ (s.group c.team c.group).sq.map fun e => e.id).eraseDups)] else []) ++
     s.fabSnap c.team c.group sc)

/-- The refresh of R77. -/
def State.fenceRefresh (s : State) (c : Cur) (sc : Scope) : State := if scopeWide sc then s.dropClean c.core else s

/-- FENCE (R77, R189). -/
def execFence (m : Mods) (f : RForm) (s : State) : Res :=
  issue (.fence m f) s fun c s =>
    let sc := m.scopeD .device
    let q := s.fenceConds c sc
    s.need c q.1 q.2 none <| .done (s.fenceRefresh c sc)

/-- What XFENCE waits for in its first domain (R78). -/
def State.domainConds (s : State) (c : Cur) (d : Domain) (sc : Scope) : List Cond × List Cond :=
  let posted (cpy : Bool) : List Nat :=
    (s.entries.filter fun e => e.copyEng == cpy && e.team == c.team && e.groups.contains c.group).map fun e => e.id
  let flying (vis : Bool) : List Nat :=
    (s.flights.filter fun f => f.vis == vis && f.team == c.team && f.group == c.group).map fun f => f.id
  match d with
  | .ord => s.fenceConds c sc
  | .cpy => ([], [.writesDone (posted true)])
  | .mtx => ([], [.writesDone (posted false)])
  | .lob => ([], [.flightsDone (flying false)])
  | .vis => ([], [.flightsDone (flying true), .feedbackDone (scopeWide sc) s.nextId])
  | .shp => ([], [])

/-- What XFENCE waits for (R19, R78). The engines of domains 1 to 4 read at CP, so before such a domain the group's stores, or the feedback of its
traversals, have to be there at every scope: R78 asks for less below DIE, and by R81 a copy could then miss the store, which R19 and its worked
example forbid (DEDUCED, log entry 106). -/
def State.xfenceConds (s : State) (c : Cur) (d : Domain) (b : Nat) (sc : Scope) : List Cond × List Cond :=
  let q := s.domainConds c d sc
  if b == 0 || decide (5 ≤ b) then q
  else match d with
  | .ord => (q.1, .storesGone (s.ownStores c.team c.group) :: q.2)
  | .vis => (q.1, .feedbackDone true s.nextId :: q.2)
  | _ => q

/-- XFENCE (R19, R78, R190). -/
def execXfence (m : Mods) (f : RForm) (s : State) : Res :=
  issue (.xfence m f) s fun c s =>
    let sc := m.scopeD .device
    match Domain.ofCode f.a.toNat with
    | none => illegalAct c
    | some d =>
      let q := s.xfenceConds c d f.b.toNat sc
      s.need c q.1 q.2 none <| .done (if f.b == 0 then s.acquire c.core sc else s)

end Fences

end Sys2Proof.Machine
end

