-- ==== Sys2Proof/Machine/Engine.lean ====
section
/-!
DEFINITION. What the engines share: hurdle and tag updates, completions and recorded failures (09_lane_memory_sync R191-R195,
13_copy_engine R246-R248, 14_matrix_engine R259), pieces of transfers, and the reads and writes of entries (04_ordering_machine
R81-R83).
-/
namespace Sys2Proof.Machine
open Sys2Proof

section Hurdles

/-- Carve-out of a team in bytes (R381, R386). -/
def State.carve (s : State) (tm : Nat) : Nat := (s.launchOf tm).lrec.tscr * 4096

/-- A hurdle's first 64 bits and its PH bit (R191). -/
structure Hurdle where
  bytes : BitVec 32
  expa  : BitVec 16
  arr   : BitVec 16
  ph    : Bool
  deriving DecidableEq, Repr, Inhabited

/-- Read the hurdle at an offset. -/
def Team.hurdle (t : Team) (off : Nat) : Hurdle :=
  { bytes := BitVec.ofNat 32 (leNat (Memory.read t.sp off 4))
    expa := BitVec.ofNat 16 (leNat (Memory.read t.sp (off + 4) 2))
    arr := BitVec.ofNat 16 (leNat (Memory.read t.sp (off + 6) 2))
    ph := (Memory.get t.sp (off + 8)).getLsbD 0 }

/-- Write the hurdle at an offset; the reserved bits stay (R191). -/
def Team.setHurdle (t : Team) (off : Nat) (h : Hurdle) : Team :=
  let b8 := Memory.get t.sp (off + 8)
  { t with sp := Memory.setAll t.sp (cellsAt off (leBytes 4 h.bytes.toNat ++ leBytes 2 h.expa.toNat ++ leBytes 2 h.arr.toNat ++
      [if h.ph then b8 ||| 1 else b8 &&& 0xFE])) }

/-- Flip (R193). -/
def Hurdle.flip (h : Hurdle) : Hurdle :=
  if h.bytes == 0 && h.expa.ule h.arr then { h with ph := !h.ph, arr := h.arr - h.expa } else h

/-- An update of a hurdle followed by Flip, as one step (R193); the completions that contributed to a flip are from then on
those that HWAIT observes (R83, R194), and their recorded failures those that it takes (R247). -/
def Team.updateHurdle (t : Team) (off : Nat) (f : Hurdle → Hurdle) : Team :=
  let h := f (t.hurdle off)
  let h' := h.flip
  let t1 := t.setHurdle off h'
  if h'.ph == h.ph then t1
  else { t1 with
    seen := (t1.seen.filter fun q => !(q.hurdle == some off && q.flipped)).map fun q =>
      if q.hurdle == some off then { q with flipped := true } else q
    efaults := t1.efaults.map fun q => if q.hurdle == some off then { q with flipped := true } else q }

end Hurdles

section Tags

/-- Apply f to an entry. -/
def State.modEntry (s : State) (id : Nat) (f : Entry → Entry) : State :=
  { s with entries := s.entries.map fun e => if e.id == id then f e else e }

/-- A Post naming a tag (R195): the bit is cleared and the count goes up. Where the count rises from 0 the completions of earlier posts on
the tag are no longer among those that a wait observes: it waits for the set that is counted now (R83, R196; DEDUCED, log entry 87). -/
def Team.tagPost (t : Team) (tag : Nat) : Team :=
  { t with
    tags := t.tags &&& ~~~(1#64 <<< tag)
    seen := if rd t.counts tag = 0 then t.seen.filter fun q => q.tag != some tag else t.seen
    counts := wr t.counts tag (rd t.counts tag + 1) }

/-- A Complete naming a tag (R195): the count goes down, and at 0 the bit is set. -/
def Team.tagDone (t : Team) (tag : Nat) (sc : Scope) : Team :=
  let n := rd t.counts tag - 1
  { t with
    counts := wr t.counts tag n
    tags := if n = 0 then t.tags ||| (1#64 <<< tag) else t.tags
    seen := t.seen ++ [{ tag := some tag, hurdle := none, scope := sc }] }

/-- A completion lowers the hurdle's bytes and runs Flip (R193, R246). -/
def Team.hurdleDone (t : Team) (off bytes : Nat) (sc : Scope) : Team :=
  let t1 : Team := { t with seen := t.seen ++ [{ tag := none, hurdle := some off, scope := sc }] }
  t1.updateHurdle off fun h => { h with bytes := h.bytes - BitVec.ofNat 32 bytes }

/-- The acquires of R83 for what a wait has observed. -/
def State.acquireSeen (s : State) (c : Cur) (p : Seen → Bool) : State :=
  match s.team? c.team with
  | none => s
  | some t => (t.seen.filter p).foldl (fun s q => s.acquire c.core q.scope) s

/-- Take a recorded failure precisely (R247, R259): it acts as a completion for R83. A matrix request whose class 9 fault goes to
the fault queue waits for its resolution; one whose fault is not delivered keeps it (R423). -/
def State.takeRecorded (s : State) (c : Cur) (e : EngFault) : Act :=
  let s1 := (s.acquire c.core e.scope).takeFault c (e.maj, e.fn)
    { cls := e.cls, mask := c.act, kind := e.kind, info := e.info, va := e.va }
  let queued := s1.queueNo c.team != s.queueNo c.team
  let s2 := match e.entry with
    | some id => if queued then s1.modEntry id fun q => match q.work with
        | .mat r => { q with work := .mat { r with hold := .queued (s.queueNo c.team) } }
        | _ => q
      else s1
    | none => s1
  .moved (if queued || e.entry.isNone then s2.modTeam c.team fun t => { t with efaults := t.efaults.filter fun q => q.id != e.id } else s2)
    .faulted

/-- A wait on completions (R83, R113, R247, R259): a failure that ends it, the wait itself, or `k` on leaving. `copies` says that it takes
failures of copies too. -/
def waitDone (c : Cur) (s : State) (conds : List Cond) (park : Option Nat) (tags : BitVec 64) (hoff : Option Nat) (copies : Bool)
    (k : Act) : Act :=
  let recs := match s.team? c.team with
    | some t => t.efaults.filter fun e => e.hits c.group tags t.tags hoff && (copies || e.maj != 0x1C)
    | none => []
  match recs.find? EngFault.early with
  | some e => s.takeRecorded c e
  | none => s.need c conds [] park <| match recs with
    | e :: _ => s.takeRecorded c e
    | [] => k

end Tags

section CompletionWords

/-- A completion word (R236). -/
def cwTag (w : Word) : Option Nat := if w.getLsbD 6 then some (bits w 0 6) else none
def cwHurdle (w : Word) : Option Nat := if w.getLsbD 7 then some (bits w 8 19) else none

/-- The tests of R236 on a completion word: class, kind and address of those that fail. -/
def cwFaults (w : Word) (tags carve : Nat) : List (Nat × Nat × VAddr) :=
  let off := bits w 8 19
  let ill := (!w.getLsbD 6 && !w.getLsbD 7) || bits w 27 5 != 0 || (!w.getLsbD 7 && off != 0) ||
    decide (tags ≤ bits w 0 6)
  (if ill then [(1, 0, 0)] else []) ++
    (if w.getLsbD 7 && off % 16 != 0 then [(6, 0, BitVec.ofNat 64 off)] else []) ++
    (if w.getLsbD 7 && decide (carve < off + 16) then [(4, 0, BitVec.ofNat 64 off)] else [])

/-- The first failing test of R238, as a fault of the splinter; INFO is 1 for a copy whatever the class (R238), and otherwise
names the domain for the classes of R220. The active mask is that of the splinter that issues the instruction (DEDUCED, log entry 137). -/
def engFault (c : Cur) (info : Nat) (fs : List (Nat × Nat × VAddr)) : Option FaultInfo :=
  [1, 6, 4, 3].findSome? fun cls => (fs.find? fun f => f.1 == cls).map fun f =>
    { cls := cls, mask := c.act, kind := f.2.1, info := if info == 1 || cls == 3 || cls == 4 then info else 0, va := f.2.2 }

end CompletionWords

section Pieces

/-- The place n bytes further on. -/
def Loc.plus (l : Loc) (n : Nat) : Loc :=
  match l with
  | .mem p v => .mem (p + n) (v + BitVec.ofNat 64 n)
  | .sp t o => .sp t (o + n)
  | .remote d h o => .remote d h (o + n)

/-- Cut a run of bytes at the bounds of lines, translating each piece (R238): the pieces, and the failed translations. A run of no bytes touches
no page, so its address is not tested (DEDUCED, log entry 117). -/
def State.memPieces (s : State) (v : Nat) (va : VAddr) (n : Nat) (a : Access) (kind : Nat) :
    List (Loc × Nat) × List (Nat × Nat × VAddr) :=
  if n = 0 then ([], [])
  else (piecesOf (va.toNat % 128) n).foldl (fun acc p =>
    let x := va + BitVec.ofNat 64 p.1
    match s.translate v x a with
    | .ok pa => (acc.1 ++ [(.mem pa x, p.2)], acc.2)
    | .error e => (acc.1, acc.2 ++ [(e, kind, x)])) ([], [])

/-- Cut a run of scratchpad bytes at the bounds of blocks (R248); outside the carve-out it fails, a run of no bytes too (log entry 117). -/
def State.spPieces (s : State) (tm off n kind : Nat) : List (Loc × Nat) × List (Nat × Nat × VAddr) :=
  if s.carve tm < off + n then ([], [(4, kind, BitVec.ofNat 64 off)])
  else if n = 0 then ([], [])
  else ((piecesOf off n).map fun p => (.sp tm (off + p.1), p.2), [])

/-- Pair the pieces of a source with those of a destination of the same length. -/
def pairPieces : Nat → List (Loc × Nat) → List (Loc × Nat) → List Seg
  | 0, _, _ => []
  | _ + 1, [], _ | _ + 1, _, [] => []
  | k + 1, (a, n) :: as, (b, m) :: bs =>
    if n = m then { src := a, dst := b, len := n } :: pairPieces k as bs
    else if n < m then { src := a, dst := b, len := n } :: pairPieces k as ((b.plus n, m - n) :: bs)
    else { src := a, dst := b, len := m } :: pairPieces k ((a.plus m, n - m) :: as) bs

/-- A transfer between two runs of pieces. -/
def segsOf (src dst : List (Loc × Nat)) : List Seg := pairPieces (src.length + dst.length) src dst

/-- The source lines of pieces. -/
def srcKeys (segs : List Seg) : List LineKey := (segs.filterMap fun g => g.src.key?).eraseDups
/-- The destination lines of pieces. -/
def dstKeys (segs : List Seg) : List LineKey := (segs.filterMap fun g => g.dst.key?).eraseDups

end Pieces

section Entries

/-- An entry posted before this one owns the line (R248, R267). -/
def State.ownedBefore (s : State) (id : Nat) (k : LineKey) : Bool :=
  s.entries.any fun e => decide (e.id < id) && e.writes.contains k

/-- A line as an engine entry reads it at CP(x), or the phase image in its place (R86), or at SP(c). -/
def State.engineLine (s : State) (e : Entry) (k : LineKey) : List Byte :=
  match k with
  | .mem x => s.lineFor e.team e.home.1 x
  | .sp t b => (List.range 128).map fun i => s.spByte t (128 * b + i)

/-- Bytes that a source line of a piece gives, when it has been read and did not fail. -/
def Entry.srcBytes (e : Entry) (g : Seg) : Option (List Byte) :=
  match g.src with
  | .mem p _ => if e.failed.contains (.mem (lineOf p)) then none
      else (e.buf.find? fun q => q.1 == .mem (lineOf p)).map fun q => (q.2.drop (p % 128)).take g.len
  | .sp t o => (e.buf.find? fun q => q.1 == .sp t (o / 128)).map fun q => (q.2.drop (o % 128)).take g.len
  | .remote _ _ o => (e.rbuf.find? fun q => q.1.window? == g.src.window?).bind fun q => match q.1, q.2 with
      | .remote _ _ b, d :: t => some (((d :: t).drop (o - b)).take g.len)
      | _, _ => none

/-- Every source of a piece has been read, or has failed. -/
def Entry.srcReady (e : Entry) (g : Seg) : Bool :=
  match g.src with
  | .remote .. => e.rbuf.any fun q => q.1.window? == g.src.window?
  | l => match l.key? with | some k => !e.reads.contains k | none => true

/-- The cells that an entry writes to a destination line; bytes whose source failed stay as they are (R247). -/
def Entry.cellsFor (e : Entry) (k : LineKey) : List Host.Cell :=
  (e.work.segs.filter fun g => g.dst.key? == some k).flatMap fun g =>
    match g.dst, e.srcBytes g with
    | .mem p _, some bs => cellsAt p bs
    | .sp _ o, some bs => cellsAt o bs
    | _, _ => []

/-- The address of a line as the entry names it: of its first piece there, rounded down to the line. -/
def Entry.lineVa (e : Entry) (src : Bool) (k : LineKey) : VAddr :=
  match e.work.segs.findSome? fun g =>
      let l := if src then g.src else g.dst
      if l.key? == some k then (match l with | .mem _ v => some v | _ => none) else none with
  | some v => v - BitVec.ofNat 64 (v.toNat % 128)
  | none => 0

/-- Note a failure of an entry: the first one stays, in the order of the engine's moves (R247; DESIGN CHOICE, log entry 144). -/
def Entry.noteFail (e : Entry) (cls kind : Nat) (va : VAddr) : Entry := { e with fail := some (e.fail.getD (cls, kind, va)) }

/-- Whether an entry has to act at a line at all. -/
def State.entry? (s : State) (id : Nat) : Option Entry := s.entries.find? fun e => e.id == id

/-- A piece reads source line k, from which a put takes bytes. -/
def Seg.putFrom (q : Seg) (k : LineKey) : Bool := q.src.key? == some k && q.dst.window?.isSome

/-- The fabric operations of a put that the read of source line k lets go (R85, R245): one for each window line, with all its bytes whose
source has not failed, as soon as every source of that line has been read. -/
def Entry.puts (e : Entry) (k : LineKey) (g : Nat) : List FabOp :=
  let lines := ((e.work.segs.filter fun q => q.putFrom k).filterMap fun q => q.dst.window?).eraseDups
  lines.filterMap fun w =>
    let segs := e.work.segs.filter fun q => q.dst.window? == some w
    let good := segs.filterMap fun q => match q.dst, e.srcBytes q with | .remote _ _ o, some bs => some (o, bs) | _, _ => none
    if segs.all e.srcReady && !good.isEmpty then
      let data := good.flatMap Prod.snd
      some { id := 0, team := e.team, group := g, entry := e.id, device := w.1, handle := w.2.1, off := (good.headD (0, [])).1
             get := false, len := data.length, data := data }
    else none

/-- The fabric operations of a get: one for each window line (R85, R245). -/
def getOps (tm g entry : Nat) (segs : List Seg) : List FabOp :=
  ((segs.filterMap fun q => q.src.window?).eraseDups).map fun w =>
    let mine := segs.filter fun q => q.src.window? == some w
    let off := (mine.filterMap fun q => match q.src with | .remote _ _ o => some o | _ => none).headD 0
    { id := 0, team := tm, group := g, entry := entry, device := w.1, handle := w.2.1, off := off
      get := true, len := (mine.map Seg.len).sum, data := [] }

/-- Put operations into FQ under fresh numbers. -/
def State.sendFab (s : State) (ops : List FabOp) : State :=
  ops.foldl (fun s o => let (id, s1) := s.fresh; { s1 with fq := s1.fq ++ [{ o with id := id }] }) s

/-- The class with which an engine's access to a line fails (R247, R258, R364, R372). -/
def State.lineFault (s : State) (k : LineKey) : Option Nat :=
  match k with
  | .mem x => if s.errHit x then some 5 else if s.undecodable x then some 12 else none
  | .sp _ _ => none

/-- What comes before an engine's access to a line (R372, R374): Decode or Encode where it can be accessed, and RSV where its Decode
meets a record with shift 255. -/
def State.prepKey (s : State) (k : LineKey) : State :=
  match k with
  | .sp _ _ => s
  | .mem x => match s.lineFault k with
    | none => s.prepLine x
    | some c => if c = 12 then s.stickRsv x else s

/-- Engine read (R81, R248) of a copy entry: one line is read in one step; a line in the error-line table, or one that cannot be decoded,
fails (R247, R372). -/
def State.copyRead (s : State) (e : Entry) (k : LineKey) : State :=
  let s1 := s.prepKey k
  let cls := s.lineFault k
  let bad := cls.isSome
  let e1 : Entry := { e with
    reads := e.reads.filter fun q => q != k
    buf := e.buf ++ [(k, s1.engineLine e k)]
    failed := if bad then k :: e.failed else e.failed }
  let e2 := match cls with | some n => e1.noteFail n kindOperand (e.lineVa true k) | none => e1
  (s1.modEntry e.id fun _ => e2).sendFab (e2.puts k (e.groups.headD 0))

/-- The bytes of an entry's engine write reach line x, or a deferral buffer (R68, R81, R86). -/
def State.engineStore (s : State) (e : Entry) (x : Nat) (cells : List Host.Cell) : State :=
  (s.cpStore (match s.team? e.team with | some t => t.launch | none => 0) e.id e.home x cells false).1

/-- Engine write (R81) of a copy entry: all its bytes for the line in one step, and its record goes. A line in the error-line table that is
not written whole, or one that cannot be decoded, fails (R247, R364, R372). -/
def State.copyWrite (s : State) (e : Entry) (k : LineKey) : State :=
  let cells := e.cellsFor k
  let e1 : Entry := { e with writes := e.writes.filter fun q => q != k }
  match k with
  | .sp t _ => (s.modTeam t fun tm => { tm with sp := Memory.setAll tm.sp cells }).modEntry e.id fun _ => e1
  | .mem x =>
    if cells.isEmpty then s.modEntry e.id fun _ => e1
    else
      let whole := (List.range 128).all fun o => cells.any fun c => c.1 == 128 * x + o
      match s.lineFault k with
      | some cls =>
        if cls = 5 ∧ whole then ((s.engineStore e x cells).modEntry e.id fun _ => e1)
        else (s.prepKey k).modEntry e.id fun _ => e1.noteFail cls kindEngWrite (e.lineVa false k)
      | none => (s.engineStore e x cells).modEntry e.id fun _ => e1

/-- Bytes an entry has moved, as its completion counts them (R246). -/
def Work.bytes : Work → Nat
  | .copy _ _ n => n
  | .push _ _ _ _ _ n _ => n * 128
  | _ => 0

/-- MAJ and FN of an entry's instruction. -/
def Work.code : Work → Nat × Nat
  | .copy fn _ _ => (0x1C, fn)
  | .push .. => (0x1C, 4)
  | .mat r => (0x1D, r.fn)
  | .acst .. => (0x1E, 2)

/-- INFO of a recorded failure: 1 for a copy and for an ACST, which is taken as R247 states (R279); for a matrix request the domain MTX (R220, R259);
0 for a class that names none (log entry 133). -/
def Work.failInfo (w : Work) (cls : Nat) : Nat :=
  if cls == 4 || cls == 5 then (match w with | .mat .. => 2 | _ => 1) else 0

/-- Complete (R81, R246): the hurdle's bytes, then the tag; a failure is recorded for the team, and belongs to the phase in which its
completion is counted (R247). INFO is Work.failInfo (log entry 133). -/
def State.completeEntry (s : State) (e : Entry) : State :=
  let (id, s0) := s.fresh
  let s1 := { s0 with entries := s0.entries.filter fun q => q.id != e.id }
  s1.modTeam e.team fun t =>
    let t0 : Team := match e.fail with
      | none => t
      | some f => { t with efaults := t.efaults ++ [{ id := id, group := none, tag := e.tag, hurdle := e.hurdle, cls := f.1
                                                      maj := e.work.code.1, fn := e.work.code.2, kind := f.2.1, info := e.work.failInfo f.1
                                                      va := f.2.2, scope := e.scope, entry := none }] }
    let t1 := match e.hurdle with | some h => t0.hurdleDone h e.work.bytes e.scope | none => t0
    match e.tag with | some k => t1.tagDone k e.scope | none => t1

/-- Post an entry (R81): ownership begins, and the tag is counted. -/
def State.postEntry (s : State) (e : Entry) : State :=
  let (id, s1) := s.fresh
  let s2 : State := { s1 with entries := s1.entries ++ [{ e with id := id }] }
  match e.tag with
  | some k => s2.modTeam e.team fun t => t.tagPost k
  | none => s2

end Entries

end Sys2Proof.Machine
end

