-- ==== Sys2Proof/Machine/Sync.lean ====
section
/-!
DEFINITION. Hurdle and tag instructions: major 0x19 (09_lane_memory_sync R191-R196), and MWAIT (15_matrix_instructions R276).
-/
namespace Sys2Proof.Machine
open Sys2Proof

section HurdleInstructions

/-- A group-uniform instruction: no effect in a splinter of helper lanes only (R110, R192). -/
def groupUniform (c : Cur) (s : State) (k : Act) : Act := if s.onlyHelpers c then .done s else k

/-- The tests on a hurdle's offset (R192). -/
def State.hurdleFault (s : State) (c : Cur) (off : Nat) : Option FaultInfo :=
  if off % 16 ≠ 0 then some { cls := 6, mask := c.act, va := BitVec.ofNat 64 off }
  else if s.carve c.team < off + 16 then some { cls := 4, mask := c.act, va := BitVec.ofNat 64 off }
  else none

/-- An update of the hurdle at sA (R193): held while its block is owned (R248), and with ORDER release until R74 holds. -/
def hurdleUpdate (c : Cur) (s : State) (m : Mods) (f : RForm) (o : Order) (k : State → Nat → State) : Act :=
  groupUniform c s <|
    let off := (s.rdS c f.a.toNat).toNat
    match s.hurdleFault c off with
    | some e => .fault e
    | none =>
      let rel : List Cond := if ordRel (m.orderD o) then
          .sqEmpty :: releaseConds (m.scopeD .team) ++ s.fabSnap c.team c.group (m.scopeD .team) else []
      s.need c (.unowned (spKeys c.team off 16) :: rel) [] none <| .done (k s off)

/-- HINIT (R193). -/
def execHinit (m : Mods) (f : RForm) (s : State) : Res :=
  issue (.hinit m f) s fun c s => hurdleUpdate c s m f .plain fun s off =>
    s.modTeam c.team fun t =>
      { t with
        sp := Memory.setAll t.sp (cellsAt off (leBytes 4 0 ++ leBytes 2 ((s.rdS c f.b.toNat).toNat % 65536) ++ List.replicate 10 0))
        seen := t.seen.filter fun q => q.hurdle != some off }
/-- HARV (R193). -/
def execHarv (m : Mods) (f : RForm) (s : State) : Res :=
  issue (.harv m f) s fun c s => hurdleUpdate c s m f .rel fun s off =>
    let ph : Word := match s.team? c.team with | some t => if (t.hurdle off).ph then 1 else 0 | none => 0
    let n := (s.rdS c f.b.toNat).extractLsb' 0 16
    (s.modTeam c.team fun t => t.updateHurdle off fun h => { h with arr := h.arr + n }).applyFx c.team c.group c.act fun _ =>
      { s := [(f.d.toNat, ph)] }
/-- HEXP (R193). -/
def execHexp (m : Mods) (f : RForm) (s : State) : Res :=
  issue (.hexp m f) s fun c s => hurdleUpdate c s m f .plain fun s off =>
    s.modTeam c.team fun t => t.updateHurdle off fun h => { h with bytes := h.bytes + s.rdS c f.b.toNat }

/-- The park threshold of HWAIT and TAGW in cycles (R194). -/
def parkOf (m : Mods) : Option Nat := m.k.map fun k => k.toNat * 64

/-- HWAIT (R194). -/
def execHwait (m : Mods) (f : RForm) (s : State) : Res :=
  issue (.hwait m f) s fun c s => groupUniform c s <|
    let off := (s.rdS c f.a.toNat).toNat
    match s.hurdleFault c off with
    | some e => .fault e
    | none =>
      waitDone c s [.unowned (spKeys c.team off 16), .phaseOff off ((s.rdS c f.b.toNat).getLsbD 0)] (parkOf m) 0 (some off) true <|
        let s1 := s.acquireSeen c fun q => q.hurdle == some off && q.flipped
        .done (if ordAcq (m.orderD .acq) then s1.acquire c.core (m.scopeD .team) else s1)

end HurdleInstructions

section TagInstructions

/-- A mask names a tag at or above the declared count (R25, R196). -/
def State.tagMaskBad (s : State) (c : Cur) (m : BitVec 64) : Bool :=
  decide (2 ^ (s.launchOf c.team).lrec.tags ≤ m.toNat)

/-- TAGW (R196). -/
def execTagw (m : Mods) (f : RForm) (s : State) : Res :=
  issue (.tagw m f) s fun c s => groupUniform c s <|
    let mask := s.pairS c f.a.toNat
    if s.tagMaskBad c mask then illegalAct c
    else if mask == 0 then .done (if ordAcq (m.orderD .plain) then s.acquire c.core (m.scopeD .device) else s)
    else waitDone c s [.tags mask (m.clsBit 0)] (parkOf m) mask none true <|
      let set : BitVec 64 := match s.team? c.team with | some t => t.tags &&& mask | none => 0
      let s1 := s.acquireSeen c fun q => match q.tag with | some t => set.getLsbD t | none => false
      .done (if ordAcq (m.orderD .plain) then s1.acquire c.core (m.scopeD .device) else s1)

/-- TAGF (R196). -/
def execTagf (m : Mods) (f : RForm) (s : State) : Res :=
  issue (.tagf m f) s fun c s => groupUniform c s <|
    let mask := s.pairS c f.a.toNat
    if s.tagMaskBad c mask then illegalAct c
    else
      let hit : BitVec 64 := match s.team? c.team with | some t => t.tags &&& mask | none => 0
      uniform c s { s := [(f.d.toNat, BitVec.ofNat 32 (((List.range 64).find? fun t => hit.getLsbD t).getD 64))] }

/-- TAGC (R196): it never changes a count. -/
def execTagc (m : Mods) (f : RForm) (s : State) : Res :=
  issue (.tagc m f) s fun c s => groupUniform c s <|
    let mask := s.pairS c f.a.toNat
    if s.tagMaskBad c mask then illegalAct c
    else .done (s.modTeam c.team fun t => { t with tags := t.tags &&& ~~~mask })

/-- A threshold held in a register: 0xFFFF_FFFF never parks (R276, R378, R411). -/
def parkReg (w : Word) : Option Nat := if w == 0xFFFFFFFF then none else some w.toNat

/-- MWAIT (R276): of failures it takes those of a matrix request and of an ACST on the tag; a copy's is left to a TAGW or HWAIT (R247, R259,
R279). -/
def execMwait (m : Mods) (f : RForm) (s : State) : Res :=
  issue (.mwait m f) s fun c s => groupUniform c s <|
    let w := s.rdS c f.a.toNat
    if bits w 6 26 != 0 || decide ((s.launchOf c.team).lrec.tags ≤ bits w 0 6) then illegalAct c
    else
      let mask : BitVec 64 := 1#64 <<< bits w 0 6
      waitDone c s [.tags mask false] (parkReg (s.rdS c f.b.toNat)) mask none false <|
        let s1 := s.acquireSeen c fun q => q.tag == some (bits w 0 6)
        .done (if ordAcq (m.orderD .plain) then s1.acquire c.core (m.scopeD .device) else s1)

end TagInstructions

end Sys2Proof.Machine
end

