-- ==== Sys2Proof/Machine/Copy.lean ====
section
/-!
DEFINITION. The copy instructions: major 0x1C (13_copy_engine R233-R250).
-/
namespace Sys2Proof.Machine
open Sys2Proof

section Collectives

/-- The arrival records of a team: copies or matrix requests (R234, R256). -/
def Team.recs (t : Team) (mat : Bool) : List ArrRec := if mat then t.matRecs else t.copyRecs
/-- Replace them. -/
def Team.setRecs (t : Team) (mat : Bool) (r : List ArrRec) : Team := if mat then { t with matRecs := r } else { t with copyRecs := r }
/-- How many collectives a group has executed (R233, R256). -/
def Group.collectives (g : Group) (mat : Bool) : Nat := if mat then g.mats else g.copies

/-- Every group has arrived or has ended (R233). -/
def Team.allArrived (t : Team) (r : ArrRec) : Bool :=
  (List.range t.groups.length).all fun g => (rd t.groups g).ended || r.arrs.any fun a => a.group == g

/-- One group's arrival at its next collective (R233, R234). -/
def Team.arrive (t : Team) (mat : Bool) (acc : Option Accord) (a : Arrival) : Team :=
  let n := (rd t.groups a.group).collectives mat
  let rs := t.recs mat
  let rs1 := if rs.any fun r => r.number == n then rs else rs ++ [{ number := n, accord := none, arrs := [] }]
  let t1 := t.setRecs mat (rs1.map fun r =>
    if r.number == n then { r with accord := if r.accord.isSome then r.accord else acc, arrs := r.arrs ++ [a] } else r)
  t1.modGroup a.group fun g => if mat then { g with mats := g.mats + 1 } else { g with copies := g.copies + 1 }

/-- Arrivals in increasing group number (R239). -/
def byGroup (as : List Arrival) : List Arrival := (List.range 8).flatMap fun g => as.filter fun a => a.group == g

/-- Post the entry of a full copy collective (R234, R239); with only empty slices nothing is posted. -/
def State.postCopyRec (s : State) (tm : Nat) (r : ArrRec) : State :=
  let s1 := s.modTeam tm fun t => { t with copyRecs := t.copyRecs.filter fun q => q.number != r.number }
  match r.accord with
  | none => s1
  | some a =>
    let as := (byGroup r.arrs).filter fun x => !x.empty
    let segs := as.flatMap fun x => x.segs
    s1.postEntry
      { id := 0, copyEng := true, unit := s.coreOf tm, team := tm, groups := as.map fun x => x.group
        home := (as.map fun x => x.home).headD (0, 0, 0), scope := (a.x.map XMod.scope).getD .device, cache := (a.x.map XMod.cache).getD .dflt
        tag := cwTag a.word, hurdle := cwHurdle a.word
        work := .copy a.fn segs (as.foldl (fun n x => n + x.bytes) 0)
        reads := srcKeys segs, writes := dstKeys segs }

/-- Post every copy collective of a team that has become full, while the queue has room (R233, R234); nothing is posted of a team that is not
on a core (R250). -/
def State.postCopies (s : State) (tm : Nat) : State :=
  match s.team? tm with
  | none => s
  | some t => t.copyRecs.foldl (fun s r =>
      if t.core?.isSome && t.allArrived r && Cond.copyRoom.holds s tm 0 0 then s.postCopyRec tm r else s) s

/-- What a Post with ORDER release waits for (R248, R267): the group's accesses performed at the scope, as R78 has it, which below DIE leaves the
engine free to read an older value at CP. -/
def State.postConds (s : State) (c : Cur) (m : Mods) (sc : Scope) : List Cond × List Cond :=
  if ordRel (m.orderD .plain) then s.domainConds c .ord sc else ([], [])

/-- A slice as captured: the failed tests, its pieces and its bytes. -/
structure Slice where
  fails : List (Nat × Nat × VAddr)
  segs  : List Seg
  bytes : Nat
  ops   : List Word := []

/-- COPY and COPYT (R233-R235): the splinter's arrival for its group. The slice's own tests come before the test that it agrees with the slices
that have arrived: R235 and R238 give no order (DESIGN CHOICE, log entry 116). -/
def copyCollective (c : Cur) (s : State) (m : Mods) (fn : Nat) (word : Word) (sl : Slice) : Act :=
  match s.team? c.team with
  | none => illegalAct c
  | some t =>
    let empty := s.onlyHelpers c
    let n := (rd t.groups c.group).collectives false
    let old := t.copyRecs.find? fun r => r.number == n
    let acc : Accord := { fn := fn, x := m.x, word := word }
    match if empty then none else engFault c 1 sl.fails with
    | some e => .fault e
    | none =>
      if !empty && (match old with | some r => r.accord.isSome && r.accord != some acc | none => false) then illegalAct c
      else
        let t1 := t.arrive false (if empty then none else some acc)
          { group := c.group, empty := empty, segs := if empty then [] else sl.segs, bytes := if empty then 0 else sl.bytes
            ops := if empty then [] else sl.ops, home := s.homeOf c.team c.group (lowest c.act) }
        let last := t1.copyRecs.any fun r => r.number == n && t1.allArrived r
        let rel := if empty then ([], []) else s.postConds c m (m.scopeD .device)
        s.need c ((if old.isNone then [.recordRoom false] else []) ++ (if last then [.copyRoom] else []) ++ rel.1) rel.2 none <|
          let s1 := s.modTeam c.team fun _ => t1
          .done (match t1.copyRecs.find? fun r => r.number == n with
            | some r => if last then s1.postCopyRec c.team r else s1
            | none => s1)

end Collectives

section Slices

/-- A side of COPY: scratchpad or memory. -/
def State.copySide (s : State) (tm : Nat) (sp : Bool) (lo hi : Word) (n : Nat) (a : Access) (kind : Nat) :
    List (Loc × Nat) × List (Nat × Nat × VAddr) :=
  if sp then s.spPieces tm lo.toNat n kind else s.memPieces (s.vdevOf tm) (pair lo hi) n a kind

/-- The slice of COPY (R239) from its operands sD, sD+1, sA, sA+1 and sB, its direction and its completion word. Among failures of one class
the completion word comes first, then the source, then the destination, each from its lowest piece (R238; DESIGN CHOICE, log entry 132). -/
def State.copySlice (s : State) (tm dir : Nat) (w : List Word) (word : Word) : Slice :=
  let n := (rd w 4).toNat
  let cw := cwFaults word (s.launchOf tm).lrec.tags (s.carve tm)
  if 2 ^ 24 < n then { fails := (1, 0, 0) :: cw, segs := [], bytes := 0 }
  else
    let src := s.copySide tm (decide (2 ≤ dir)) (rd w 2) (rd w 3) n .read kindOperand
    let dst := s.copySide tm (dir % 2 == 1) (rd w 0) (rd w 1) n .write kindEngWrite
    { fails := cw ++ src.2 ++ dst.2, segs := segsOf src.1 dst.1, bytes := n, ops := w }

/-- Granule and row of a bank permutation (R242). -/
def permGranule (p : Nat) : Nat × Nat := if p = 0 then (1, 1) else (16 * 2 ^ ((p - 1) % 4), if p ≤ 4 then 8 else 4)

/-- Perm (R242). -/
def permOf (p lin : Nat) : Nat :=
  if p = 0 then lin
  else
    let (g, n) := permGranule p
    let row := lin / (n * g)
    let cc := lin % (n * g) / g
    row * n * g + (cc ^^^ (row % n)) * g + lin % g

/-- The slice of COPYT (R240, R241) from its operands sD to sD+2, sA, sA+1, sB and sB+1, its direction and its completion word. An
element that straddles two blocks of the scratchpad is cut there. Among failures of one class the completion word comes first, then the range in the scratchpad, then the memory pages, each from
its lowest piece (R238; DESIGN CHOICE, log entry 132). -/
def State.copytSlice (s : State) (tm : Nat) (store : Bool) (w : List Word) (word : Word) : Slice :=
  let base := bits (rd w 0) 0 22
  let p := bits (rd w 0) 22 4
  let z := 2 ^ bits (rd w 0) 26 2
  let rank := bits (rd w 0) 28 4
  let str (i : Nat) : Nat := match i with | 1 => bits (rd w 1) 0 16 | 2 => bits (rd w 1) 16 16 | 3 => bits (rd w 2) 0 16 | _ => 1
  let x (i : Nat) : Nat := bits (rd w (5 + i / 2)) (16 * (i % 2)) 16
  let a := pair (rd w 3) (rd w 4)
  let cw := cwFaults word (s.launchOf tm).lrec.tags (s.carve tm)
  let absent := (List.range 4).any fun i => decide (rank ≤ i) && (x i != 0 || (decide (1 ≤ i) && str i != 0))
  let ill := decide (8 < p) || rank == 0 || decide (4 < rank) || bits (rd w 2) 16 16 != 0 || absent
  let span := (permGranule p).1 * (permGranule p).2
  let km := if store then kindEngWrite else kindOperand
  let ks := if store then kindOperand else kindEngWrite
  let count := (x 0 + 1) * (x 1 + 1) * (x 2 + 1) * (x 3 + 1)
  let fs := (if ill then [(1, 0, 0)] else []) ++ cw ++
    (if a.toNat % z != 0 then [(6, km, a)] else []) ++
    (if base % span != 0 then [(6, ks, BitVec.ofNat 64 base)] else []) ++
    (if s.carve tm < base + (z * count + span - 1) / span * span then [(4, ks, BitVec.ofNat 64 base)] else [])
  if !fs.isEmpty then { fails := fs, segs := [], bytes := 0 }
  else
    let one (k : Nat) : Except (Nat × Nat × VAddr) (List Seg) :=
      let i0 := k % (x 0 + 1); let k1 := k / (x 0 + 1)
      let i1 := k1 % (x 1 + 1); let k2 := k1 / (x 1 + 1)
      let i2 := k2 % (x 2 + 1); let i3 := k2 / (x 2 + 1)
      let va := a + BitVec.ofNat 64 (z * (i0 + i1 * str 1 + i2 * str 2 + i3 * str 3))
      let o := base + permOf p (z * k)
      let sp : List (Loc × Nat) := (piecesOf o z).map fun q => (.sp tm (o + q.1), q.2)
      match s.translate (s.vdevOf tm) va (if store then .write else .read) with
      | .ok pa => .ok (if store then segsOf sp [(.mem pa va, z)] else segsOf [(.mem pa va, z)] sp)
      | .error e => .error (e, km, va)
    let rs := (List.range count).map one
    { fails := rs.filterMap fun r => match r with | .error e => some e | .ok _ => none
      segs := rs.flatMap fun r => match r with | .error _ => [] | .ok g => g
      bytes := z * count, ops := w }

/-- COPY (R239). -/
def execCopy (m : Mods) (f : RForm) (s : State) : Res :=
  issue (.copy m f) s fun c s =>
    let w := [s.rdS c f.d.toNat, s.rdS c (f.d.toNat + 1), s.rdS c f.a.toNat, s.rdS c (f.a.toNat + 1), s.rdS c f.b.toNat]
    let word := s.rdS c (f.b.toNat + 1)
    copyCollective c s m 0 word (s.copySlice c.team (m.clsField 0 2) w word)
/-- COPYT (R240). -/
def execCopyt (m : Mods) (f : RForm) (s : State) : Res :=
  issue (.copyt m f) s fun c s =>
    let w := [s.rdS c f.d.toNat, s.rdS c (f.d.toNat + 1), s.rdS c (f.d.toNat + 2), s.rdS c f.a.toNat, s.rdS c (f.a.toNat + 1),
              s.rdS c f.b.toNat, s.rdS c (f.b.toNat + 1)]
    let word := s.rdS c (f.b.toNat + 2)
    copyCollective c s m 1 word (s.copytSlice c.team (m.clsBit 0) w word)

end Slices

section Singles

/-- GATH, SCAT, PUSHW and CREM post one entry of their own (R233, R237, R238). -/
def copyPost (c : Cur) (s : State) (m : Mods) (fails : List (Nat × Nat × VAddr)) (word : Word) (dflt : Scope) (w : Work)
    (reads writes : List LineKey) (also : Nat → State → State) : Act :=
  groupUniform c s <|
    match engFault c 1 fails with
    | some e => .fault e
    | none =>
      let rel := s.postConds c m (m.scopeD dflt)
      s.need c (.copyRoom :: rel.1) rel.2 none <|
        let id := s.nextId
        .done (also id (s.postEntry
          { id := 0, copyEng := true, unit := c.core, team := c.team, groups := [c.group]
            home := s.homeOf c.team c.group (lowest c.act)
            scope := m.scopeD dflt, cache := (m.x.map XMod.cache).getD .dflt, tag := cwTag word, hurdle := cwHurdle word
            work := w, reads := reads, writes := writes }))

/-- GATH and SCAT (R243). Among failures of one class the completion word comes first, then the list, then the data in the scratchpad,
then the memory pages, row by row (R238; DESIGN CHOICE, log entry 132). -/
def gathScat (i : Instr) (scat : Bool) (m : Mods) (f : RForm) (s : State) : Res :=
  issue i s fun c s =>
    let d := (s.rdS c f.d.toNat).toNat
    let base := s.pairS c f.a.toNat
    let list := (s.rdS c f.b.toNat).toNat
    let w := s.rdS c (f.b.toNat + 1)
    let rows := bits w 0 16
    let len := bits w 16 16
    let stride := (s.rdS c (f.b.toNat + 2)).toNat
    let word := s.rdS c (f.b.toNat + 3)
    let km := if scat then kindEngWrite else kindOperand
    let ks := if scat then kindOperand else kindEngWrite
    let fs := (if 4096 < rows then [(1, 0, 0)] else []) ++ cwFaults word (s.launchOf c.team).lrec.tags (s.carve c.team) ++
      (if list % 4 != 0 then [(6, kindOperand, BitVec.ofNat 64 list)] else []) ++
      (if s.carve c.team < list + 4 * rows then [(4, kindOperand, BitVec.ofNat 64 list)] else []) ++
      (if s.carve c.team < d + rows * len then [(4, ks, BitVec.ofNat 64 d)] else [])
    if !fs.isEmpty then copyPost c s m fs word .device (.copy 0 [] 0) [] [] fun _ s => s
    else
      let rel := s.postConds c m (m.scopeD .device)
      groupUniform c s <| s.need c (.unowned (if rows = 0 then [] else spKeys c.team list (4 * rows)) :: rel.1) rel.2 none <|
        let byte (a : Nat) : Byte := (sqByte (s.group c.team c.group).sq true a).getD (s.spByte c.team a)
        let idx (k : Nat) : Nat := leNat ((List.range 4).map fun o => byte (list + 4 * k + o))
        let row (k : Nat) : List Seg × List (Nat × Nat × VAddr) :=
          let mp := s.memPieces (s.vdevOf c.team) (base + BitVec.ofNat 64 (idx k * stride)) len (if scat then .write else .read) km
          let sp := s.spPieces c.team (d + k * len) len ks
          (if scat then segsOf sp.1 mp.1 else segsOf mp.1 sp.1, mp.2)
        let rs := (List.range rows).map row
        let segs := rs.flatMap Prod.fst
        copyPost c s m (rs.flatMap Prod.snd) word .device (.copy (if scat then 3 else 2) segs (rows * len)) (srcKeys segs) (dstKeys segs)
          fun _ s => s

/-- GATH (R243). -/
def execGath (m : Mods) (f : RForm) (s : State) : Res := gathScat (.gath m f) false m f s
/-- SCAT (R243). -/
def execScat (m : Mods) (f : RForm) (s : State) : Res := gathScat (.scat m f) true m f s

/-- PUSHW (R244). -/
def execPushw (m : Mods) (f : RForm) (s : State) : Res :=
  issue (.pushw m f) s fun c s =>
    let w (i : Nat) : Word := s.rdS c (f.d.toNat + i)
    let l := (s.launchOf c.team).lrec
    let g := bits (w 3) 0 3
    let r0 := bits (w 3) 3 3
    let n := bits (w 3) 6 3 + 1
    let src := (s.rdS c f.a.toNat).toNat
    let word := s.rdS c f.b.toNat
    let role := l.roles.getLsbD g
    let ill := decide (8 < r0 + n) || decide (l.gx ≤ (w 0).toNat) || decide (l.gy ≤ (w 1).toNat) || decide (l.gz ≤ (w 2).toNat) ||
      decide (l.gm1 < g) || (l.budget role).1 != 64 || bits (w 3) 9 23 != 0
    let fs := (if ill then [(1, 0, 0)] else []) ++ cwFaults word l.tags (s.carve c.team) ++
      (if src % 4 != 0 then [(6, kindOperand, BitVec.ofNat 64 src)] else []) ++
      (if s.carve c.team < src + 128 * n then [(4, kindOperand, BitVec.ofNat 64 src)] else [])
    copyPost c s m fs word .device (.push (w 0).toNat (w 1).toNat (w 2).toNat g r0 n src) (spKeys c.team src (128 * n)) [] fun _ s => s

/-- A window of a remote part cut at 128-byte offsets, so that no fabric operation splits a line (R85). -/
def remotePieces (d h off n : Nat) : List (Loc × Nat) :=
  if n = 0 then [] else (piecesOf off n).map fun p => (.remote d h (off + p.1), p.2)

/-- CREM (R245). Among failures of one class the completion word comes first, then the window, then the memory pages (R238; DESIGN
CHOICE, log entry 132). -/
def execCrem (m : Mods) (f : RForm) (s : State) : Res :=
  issue (.crem m f) s fun c s =>
    let get := m.clsBit 0
    let hd := s.rdS c f.d.toNat
    let off := (s.rdS c (f.d.toNat + 1)).toNat
    let n := (s.rdS c f.b.toNat).toNat
    let word := s.rdS c (f.b.toNat + 1)
    let ill := bits hd 16 16 != 0 || decide (2 ^ 24 < n)
    let cw := cwFaults word (s.launchOf c.team).lrec.tags (s.carve c.team)
    let kw := if get then kindOperand else kindEngWrite
    let win : Option (Nat × Nat) := match s.vdev? (s.vdevOf c.team) with
      | some d => d.wins.findSome? fun w =>
          if w.handle == bits hd 0 16 then (match w.body with | .importWin dev h => some (dev, h) | .exportWin .. => none) else none
      | none => none
    let wf := match win with
      | none => [(4, kw, BitVec.ofNat 64 off)]
      | some (dev, h) => if Config.windowUnits dev h * 65536 < off + n then [(4, kw, BitVec.ofNat 64 off)] else []
    if ill then copyPost c s m ((1, 0, 0) :: cw) word .system (.copy 5 [] 0) [] [] fun _ s => s
    else
      let mp := s.memPieces (s.vdevOf c.team) (s.pairS c f.a.toNat) n (if get then .write else .read)
        (if get then kindEngWrite else kindOperand)
      let rp := match win with | some (dev, h) => remotePieces dev h off n | none => []
      let segs := if get then segsOf rp mp.1 else segsOf mp.1 rp
      copyPost c s m (cw ++ wf ++ mp.2) word .system (.copy 5 segs n) (srcKeys segs) (dstKeys segs) fun id s =>
        s.sendFab (getOps c.team c.group id segs)

/-- One register of a twin or receive window is written by its window (R14, R15, R104, R244): the full bit follows the bytes; a muster frame of
the pair takes the fill too (R431). -/
def Team.windowFill (t : Team) (g l r : Nat) (x : Word) : Team :=
  match t.twinOf g with
  | some (i, tw) =>
    let full : TwinReg := { val := x, full := true, writer := .engine, pend := none }
    { t with twins := t.twins.set i (tw.act false fun regs => wr regs (twinIx l r) full) }
  | none => t.modGroup g fun gr => gr.mapLanes (1#32 <<< l) fun _ ln => { ln with v := wr ln.v (56 + r) x }

/-- Fill window registers of a group, in the lanes that are present (R244). -/
def Team.fill (t : Team) (p : Push) : Team :=
  (List.range p.words.length).foldl (fun t k =>
    (List.range 32).foldl (fun t l =>
      if !(rd (rd t.groups p.group).lanes l).present then t else t.windowFill p.group l (p.r0 + k) (rd (rd p.words k) l)) t) t

/-- Deliver a push wherever its target stands (R244). -/
def State.deliverPush (s : State) (key : Nat) (p : Push) : State :=
  match s.teams.find? fun t => t.launch == key && t.origin == .grid p.x p.y p.z with
  | some t =>
    match t.place with
    | .ended => s
    | _ => if t.started then s.modTeam t.id fun t => t.fill p else s.modLaunch key fun l => { l with pushes := l.pushes ++ [p] }
  | none => s.modLaunch key fun l => { l with pushes := l.pushes ++ [p] }

/-- The push of an entry that has read its source. -/
def Entry.pushOf (e : Entry) : Option Push :=
  match e.work with
  | .push x y z g r0 n src =>
    let byte (a : Nat) : Byte := match e.buf.find? fun q => q.1 == .sp e.team (a / 128) with
      | some q => rd q.2 (a % 128)
      | none => 0
    some { x := x, y := y, z := z, group := g, r0 := r0
           words := (List.range n).map fun k => (List.range 32).map fun l =>
             BitVec.ofNat 32 (leNat ((List.range 4).map fun o => byte (src + 4 * (k * 32 + l) + o))) }
  | _ => none

end Singles

end Sys2Proof.Machine
end

