-- ==== Sys2Proof/Machine/Start.lean ====
section
/-!
DEFINITION. The state in which lanes, groups and teams start (05_lane_execution R87, R88; 08_lane_float_generators R174;
24_shepherd_launch R388).
-/
namespace Sys2Proof.Machine
open Sys2Proof

section Starting

/-- Active lanes per group (R88, R381). -/
def LaunchRec.lanes (l : LaunchRec) : Nat := 4 * (l.lm1 + 1)

/-- A lane as it starts (R87, R174, R388). -/
def newLane (present : Bool) (k : Nat) (pc : Code) (s : List Word) (home : Nat × Nat × Nat) : Lane :=
  { present := present, pc := pc, s := s, rngPos := instOffset k, home := home }

/-- A group as it starts; `stream` is its generator stream (R174). -/
def newGroup (l : LaunchRec) (consumer : Bool) (pc : Code) (s : List Word) (stream : BitVec 64) (block g : Nat) : Group :=
  { consumer := consumer, rngKey := l.seed, rngStream := stream
    lanes := (List.range 32).map fun k => newLane (decide (k < l.lanes)) k pc s (block, g, k) }

/-- The twin pairs that a record makes (R103, R381). -/
def LaunchRec.twinPairs (l : LaunchRec) : List Twin :=
  (l.twins.filter fun t => t.getLsbD 6).map fun t =>
    { prod := (t.extractLsb' 0 3).toNat, cons := (t.extractLsb' 3 3).toNat, regs := [] }

/-- s0-s15 of a launch team (R388, R395). -/
def startArgs (l : LaunchRec) (rank : Option Nat) : List Word :=
  (List.range 16).map fun i => match i, rank with
    | 15, some r => BitVec.ofNat 32 r
    | i, _ => rd l.args i

/-- A launch team at a grid position (R388). -/
def gridTeam (id vdev key : Nat) (l : LaunchRec) (rank : Option Nat) (x y z : Nat) : Team :=
  let block := gridIndex l x y z
  { id := id, vdev := vdev, launch := key, origin := .grid x y z
    groups := (List.range (l.gm1 + 1)).map fun g =>
      newGroup l (l.roles.getLsbD g) (l.code.extractLsb' 0 56) (startArgs l rank)
        (BitVec.ofNat 64 (block * (l.gm1 + 1) + g)) block g
    twins := l.twinPairs, musterPc := l.mpc, budget := l.mbudget }

/-- The role of groups that are formed from a fold (R348). -/
def LaunchRec.foldRole (l : LaunchRec) : Bool := (List.range (l.gm1 + 1)).all fun g => l.roles.getLsbD g

/-- A team of one group formed from a fold or a pen (R353, R405): the lanes' v registers and homes, and s0 on; in a drove launch s15
holds the rank (R395). -/
def formedTeam (id vdev key : Nat) (l : LaunchRec) (rank : Option Nat) (consumer : Bool) (origin : Origin) (pc : Code)
    (ss : List Word) (lanes : List (List Word × (Nat × Nat × Nat))) (order : Nat) : Team :=
  let n := lanes.length
  let ss := match rank with | some r => wr ss 15 (BitVec.ofNat 32 r) | none => ss
  let lane (k : Nat) : Lane :=
    let x := rd lanes k
    { newLane (decide (k < (n + 3) / 4 * 4)) k pc ss x.2 with v := x.1, exited := decide (n ≤ k) }
  { id := id, vdev := vdev, launch := key, origin := origin, queuedAt := order, twins := [], musterPc := l.mpc, budget := l.mbudget
    groups := [{ consumer := consumer, rngKey := l.seed, rngStream := 0xFFFFFFFFFFFFFFFF, lanes := (List.range 32).map lane }] }

/-- Put a formed team into its launch's queue (R385). -/
def State.formTeam (s : State) (l : Launch) (consumer : Bool) (origin : Origin) (entry : Word) (ss : List Word)
    (lanes : List (List Word × (Nat × Nat × Nat))) : State :=
  let (id, s1) := s.fresh
  let pc := codeAddr (l.lrec.code.extractLsb' 0 56) entry
  { (s1.modLaunch l.key fun l => { l with formSeq := l.formSeq + 1, finalPhase := false }) with
    teams := s1.teams ++ [formedTeam id l.vdev l.key l.lrec (l.drv.map Drove.rank) consumer origin pc ss lanes l.formSeq] }

end Starting

end Sys2Proof.Machine
end

