-- ==== Sys2Proof/Machine/Matrix.lean ====
section
/-!
DEFINITION. The matrix engine: requests and accumulator instructions, majors 0x1D and 0x1E, and the engine's grants, passes,
row blocks and tile claims (14_matrix_engine R251-R268, R457; 15_matrix_instructions R269-R281).
-/
namespace Sys2Proof.Machine
open Sys2Proof

section Blocks

/-- Bits of a parameter block (R269). -/
def blockField (b : List Word) (lo n : Nat) : Nat := (leNat (bytesOf b) >>> lo) % 2 ^ n

/-- The fields of a request's block (R269). -/
def MatReq.field (r : MatReq) (lo n : Nat) : Nat := blockField r.block lo n
def MatReq.aaddr (r : MatReq) : VAddr := BitVec.ofNat 64 (r.field 0 64)
def MatReq.baddr (r : MatReq) : VAddr := BitVec.ofNat 64 (r.field 64 64)
def MatReq.astr (r : MatReq) : Nat := r.field 128 16
def MatReq.bstr (r : MatReq) : Nat := r.field 144 16
def MatReq.m (r : MatReq) : Nat := r.field 160 7 + 1
def MatReq.n (r : MatReq) : Nat := r.field 168 7 + 1
def MatReq.k (r : MatReq) : Nat := r.field 192 20 + 1
def MatReq.tag (r : MatReq) : Nat := r.field 176 6
def MatReq.atype (r : MatReq) : Nat := r.field 224 4
def MatReq.btype (r : MatReq) : Nat := r.field 228 4
def MatReq.acc (r : MatReq) : Nat := r.field 232 5
def MatReq.bmom (r : MatReq) : Bool := r.field 237 1 == 1
def MatReq.bt (r : MatReq) : Bool := r.field 238 1 == 1
def MatReq.zero (r : MatReq) : Bool := r.field 239 1 == 1
def MatReq.saaddr (r : MatReq) : VAddr := BitVec.ofNat 64 (r.field 256 64)
def MatReq.sbaddr (r : MatReq) : VAddr := BitVec.ofNat 64 (r.field 320 64)

/-- A type pair of R271; fn is 0 MMA, 1 MMAT, 2 MMAS, 3 MMAM. -/
def pairOk (fn a b : Nat) (bmom : Bool) : Bool :=
  let e8 (x : Nat) : Bool := decide (3 ≤ x) && decide (x ≤ 6)
  let e16 (x : Nat) : Bool := x == 1 || x == 2
  if fn = 3 then a == 1 && b == 1
  else if bmom then false
  else if fn = 2 then (a == 3 || a == 4) && (b == 3 || b == 4)
  else (a == b && (a == 0 || a == 7 || a == 9)) || (e16 a && e16 b) || (e8 a && e8 b) || (a == 7 && e8 b) || (e8 a && b == 7)

/-- The contents of a block are illegal (R273, test 5). -/
def blockBad (fn : Nat) (b : List Word) (tags : Nat) : Bool :=
  let f := blockField b
  f 167 1 != 0 || f 175 1 != 0 || f 182 10 != 0 || f 212 4 != 0 || f 223 1 != 0 || f 240 16 != 0 ||
    !pairOk fn (f 224 4) (f 228 4) (f 237 1 == 1) || (fn == 3 && f 232 1 != 0) || decide (tags ≤ f 176 6) ||
    f 216 7 % 16 != 0 || decide (f 160 7 < f 216 7) || (fn != 2 && (f 256 64 != 0 || f 320 64 != 0))

/-- The first misaligned address of a block (R273, test 6). -/
def blockMisaligned (fn : Nat) (b : List Word) : Option VAddr :=
  ([(0, 16), (64, 16)] ++ (if fn = 2 then [(256, 4), (320, 4)] else [])).findSome? fun (p : Nat × Nat) =>
    if blockField b p.1 64 % p.2 != 0 then some (BitVec.ofNat 64 (blockField b p.1 64)) else none

/-- Nibbles of an element (R271). -/
def typeNibbles (t : Nat) : Nat := match t with | 0 => 8 | 1 | 2 => 4 | 7 => 1 | _ => 2
/-- Nibbles of an element of A and of B. -/
def MatReq.nibA (r : MatReq) : Nat := if r.fn = 3 then 8 else typeNibbles r.atype
def MatReq.nibB (r : MatReq) : Nat := if r.fn = 3 then (if r.bmom then 8 else 4) else typeNibbles r.btype
/-- Kp (R271). -/
def MatReq.kp (r : MatReq) : Nat := let u := if r.fn = 2 then 128 else 32; (r.k + u - 1) / u * u
/-- Strips of K (R270). -/
def MatReq.strips (r : MatReq) : Nat := r.kp / 128

/-- The addresses of rows (R270). -/
def MatReq.aRow (r : MatReq) (i : Nat) : VAddr := r.aaddr + BitVec.ofNat 64 (16 * r.astr * i)
def MatReq.bRow (r : MatReq) (i : Nat) : VAddr := r.baddr + BitVec.ofNat 64 (16 * r.bstr * i)
def MatReq.sRow (r : MatReq) (i : Nat) : VAddr := r.saaddr + BitVec.ofNat 64 (4 * i * r.strips)

/-- Bytes of a row of n elements. -/
def rowBytes (n nib : Nat) : Nat := (n * nib + 1) / 2

/-- The live rows of the next pass (R251). -/
def MatReq.passRows (r : MatReq) : List Nat := r.rows.filter fun i => i / 16 == r.rows.headD 0 / 16

/-- The operand bytes of the next pass: address and length (R270). -/
def MatReq.spans (r : MatReq) : List (VAddr × Nat) :=
  let p := r.passRows
  let b := if r.bt then (r.n, r.k) else (r.k, r.n)
  p.map (fun i => (r.aRow i, rowBytes r.k r.nibA)) ++ (List.range b.1).map (fun i => (r.bRow i, rowBytes b.2 r.nibB)) ++
    (if r.fn = 2 then p.map (fun i => (r.sRow i, 4 * r.strips)) ++ [(r.sbaddr, 4 * r.strips)] else [])

/-- A run of bytes cut at the bounds of lines, each piece with its own address. -/
def cutLines (va : VAddr) (n : Nat) : List (VAddr × Nat) :=
  if n = 0 then [] else (piecesOf (va.toNat % 128) n).map fun p => (va + BitVec.ofNat 64 p.1, p.2)

/-- Translate an address for a request: by a translation it has kept, else afresh (R257). -/
def State.matTranslate (s : State) (v : Nat) (r : MatReq) (va : VAddr) : Except Nat Nat :=
  match if canonical va then r.trans.find? fun p => p.1 == pageOf va else none with
  | some p => .ok (p.2 * 65536 + va.toNat % 65536)
  | none => s.translate v va .read

/-- What the next pass reads: the physical lines, the translations, and the first fault (R257, R258). -/
def State.passReads (s : State) (v : Nat) (r : MatReq) : List Nat × List (Nat × Nat) × Option (Nat × VAddr) :=
  (r.spans.flatMap fun p => cutLines p.1 p.2).foldl (fun acc p =>
    match s.matTranslate v r p.1 with
    | .ok pa =>
      (if acc.1.contains (lineOf pa) then acc.1 else lineOf pa :: acc.1,
       if acc.2.1.any (fun q => q.1 == pageOf p.1) then acc.2.1 else (pageOf p.1, pa / 65536) :: acc.2.1, acc.2.2)
    | .error e => (acc.1, acc.2.1, some (acc.2.2.getD (if e = 3 then 9 else e, p.1)))) ([], r.trans, none)

end Blocks

section Tiles

/-- The tile of an engine, when an owner holds it (R261). -/
def State.tile? (s : State) (cl t : Nat) : Option TileHold := s.tiles.find? fun h => h.cluster == cl && h.tile == t

/-- Every tile that a team holds in an engine goes to its context area (R261). -/
def State.spillTeam (s : State) (cl tm : Nat) : State :=
  let mine := s.tiles.filter fun h => h.cluster == cl && h.team == tm
  { s.modTeam tm fun t =>
      { t with images := (mine.map fun h => (h.tile, h.words)) ++ t.images.filter fun (i : Nat × List Word) => !(mine.any fun h => h.tile == i.1) } with
    tiles := s.tiles.filter fun h => !(h.cluster == cl && h.team == tm) }

/-- Take a tile from its holder: another owner's tiles are spilled, those of an ended team are freed (R261). -/
def State.evict (s : State) (cl tm t : Nat) : State :=
  match s.tile? cl t with
  | none => s
  | some h =>
    if h.team == tm then s
    else match s.team? h.team with
    | some o =>
      if o.place == .ended then { s with tiles := s.tiles.filter fun x => !(x.cluster == cl && x.tile == t) }
      else s.spillTeam cl h.team
    | none => { s with tiles := s.tiles.filter fun x => !(x.cluster == cl && x.tile == t) }

/-- A claim by the spill sequencer (R261). -/
def State.claim (s : State) (cl tm t : Nat) : State :=
  if (s.tile? cl t).any fun h => h.team == tm then s
  else
    let s1 := s.evict cl tm t
    let away := (s1.tiles.filter fun h => h.team == tm && h.tile == t).map fun h => h.cluster
    let s2 := away.foldl (fun s k => s.spillTeam k tm) s1
    let image := match s2.team? tm with | some x => x.images.find? fun (i : Nat × List Word) => i.1 == t | none => none
    let words : List Word := match image with | some i => i.2 | none => List.replicate 16384 0
    { s2.modTeam tm fun x => { x with images := x.images.filter fun i => i.1 != t } with
      tiles := { cluster := cl, tile := t, team := tm, words := words } :: s2.tiles }

/-- The words of a tile that its claimant holds. -/
def State.tileWords (s : State) (cl t : Nat) : List Word := match s.tile? cl t with | some h => h.words | none => []

/-- Put words into a held tile. -/
def State.setTile (s : State) (cl t : Nat) (f : List Word → List Word) : State :=
  { s with tiles := s.tiles.map fun h => if h.cluster == cl && h.tile == t then { h with words := f h.words } else h }

/-- ACREL: the team's tile is freed wherever it is held, and its saved image discarded (R280). -/
def State.releaseTile (s : State) (tm t : Nat) : State :=
  { s.modTeam tm fun x => { x with images := x.images.filter fun i => i.1 != t } with
    tiles := s.tiles.filter fun h => !(h.team == tm && h.tile == t) }

end Tiles

section Sums

/-- Element e of a row of bytes (R270). -/
def elemAt (bs : List Byte) (nib e : Nat) : Nat :=
  if nib = 1 then (rd bs (e / 2)).toNat / (if e % 2 = 0 then 1 else 16) % 16
  else leNat ((bs.drop (e * nib / 2)).take (nib / 2))

/-- The element format of a type code (R271). -/
def typeFmt (t : Nat) : Ty := (Ty.ofCode (BitVec.ofNat 4 t)).getD .w32

/-- The value of an element; a container's upper bits are ignored (R115). -/
def elemVal (t x : Nat) : Val := widen (fmtOf (typeFmt t)) (x % 2 ^ (typeFmt t).width)

/-- One step of MatAcc: 32 exact terms, rounded, then added and rounded (R129). -/
def accStep (acc : Nat) (ts : List (Val × Bool)) : Nat :=
  rne32 (sumExact false [f32 acc, f32 (rne32 (sumTerms false ts).1)]).1

/-- MatAcc over the terms of k (R129). -/
def matAcc (acc kp : Nat) (term : Nat → List (Val × Bool)) : Nat :=
  (List.range (kp / 32)).foldl (fun a j => accStep a ((List.range 32).flatMap fun i => term (32 * j + i))) acc

/-- MatAccScaled (R129). -/
def matAccScaled (acc strips : Nat) (term : Nat → List (Val × Bool)) (sa sb : Nat → Nat) : Nat :=
  (List.range strips).foldl (fun a t =>
    let strip := (List.range 4).foldl (fun p j => accStep p ((List.range 32).flatMap fun i => term (128 * t + 32 * j + i))) 0
    let sc := rne32 ((f32 (sa t)).mul (f32 (sb t))).1
    rne32 (sumExact false [f32 a, f32 (rne32 ((f32 strip).mul (f32 sc)).1)]).1) acc

/-- A product of several factors as a term. -/
def term3 (a b c : Val) : Val × Bool := let p := a.mul b; let q := p.1.mul c; (q.1, p.2 || q.2)

/-- A packed moment pair: mean and variance (R126). -/
def pairVal (x : Nat) : Val × Val := (widen (fmtOf .f16) (x % 65536), widen (fmtOf .f16) (x / 65536 % 65536))

/-- The mean and variance terms of one k in moment mode (R265). -/
def momTerms (a b : Val × Val) (pairs : Bool) : List (Val × Bool) × List (Val × Bool) :=
  ([a.1.mul b.1], if pairs then [term3 a.1 a.1 b.2, term3 a.2 b.1 b.1, a.2.mul b.2] else [term3 a.2 b.1 b.1])

/-- A term of padding: an exact +0 (R271). -/
def padTerm : List (Val × Bool) := [(.zero, false)]

end Sums

section Passes

/-- A byte of an operand from the lines that the pass has read. -/
def Entry.opByte (e : Entry) (r : MatReq) (va : VAddr) : Byte :=
  match r.trans.find? fun p => p.1 == pageOf va with
  | none => 0
  | some p =>
    let pa := p.2 * 65536 + va.toNat % 65536
    match e.buf.find? fun q => q.1 == .mem (lineOf pa) with
    | some q => rd q.2 (pa % 128)
    | none => 0

/-- n bytes of an operand. -/
def Entry.opBytes (e : Entry) (r : MatReq) (va : VAddr) (n : Nat) : List Byte :=
  (List.range n).map fun o => e.opByte r (va + BitVec.ofNat 64 o)

/-- The operands of a pass: the live rows of A by row number, and the stored rows of B. -/
structure Operands where
  a  : Nat → List Byte
  b  : Nat → List Byte
  sa : Nat → List Word
  sb : List Word

/-- Read the operands of a pass out of its lines. -/
def Entry.operands (e : Entry) (r : MatReq) : Operands :=
  let bn := if r.bt then (r.n, r.k) else (r.k, r.n)
  let as := r.passRows.map fun i => (i, e.opBytes r (r.aRow i) (rowBytes r.k r.nibA))
  let bs := (List.range bn.1).map fun i => e.opBytes r (r.bRow i) (rowBytes bn.2 r.nibB)
  let ss := if r.fn = 2 then r.passRows.map fun i => (i, wordsOf r.strips (e.opBytes r (r.sRow i) (4 * r.strips))) else []
  { a := fun i => match as.find? fun p => p.1 == i with | some p => p.2 | none => []
    b := fun i => rd bs i
    sa := fun i => match ss.find? fun p => p.1 == i with | some p => p.2 | none => []
    sb := if r.fn = 2 then wordsOf r.strips (e.opBytes r r.sbaddr (4 * r.strips)) else [] }

/-- Element (k, j) of B. -/
def Operands.bElem (o : Operands) (r : MatReq) (k j : Nat) : Nat :=
  if r.bt then elemAt (o.b j) r.nibB k else elemAt (o.b k) r.nibB j

/-- The address of the first negative variance that a pass of MMAM loads (R266). -/
def Operands.negVar (o : Operands) (r : MatReq) : Option VAddr :=
  if r.fn != 3 then none
  else
    let a := (r.passRows.flatMap fun i => (List.range r.k).map fun k => (i, k)).findSome? fun p =>
      if isNegVar (pairVal (elemAt (o.a p.1) 8 p.2)).2 then some (r.aRow p.1 + BitVec.ofNat 64 (4 * p.2)) else none
    let b := if !r.bmom then none
      else ((List.range r.k).flatMap fun k => (List.range r.n).map fun j => (k, j)).findSome? fun p =>
        if isNegVar (pairVal (o.bElem r p.1 p.2)).2 then
          some (if r.bt then r.bRow p.2 + BitVec.ofNat 64 (4 * p.1) else r.bRow p.1 + BitVec.ofNat 64 (4 * p.2))
        else none
    match a with | some x => some x | none => b

/-- The new words of element (i, j): one for each tile of the request (R274, R275). -/
def Operands.result (o : Operands) (r : MatReq) (old : List Word) (i j : Nat) : List Word :=
  let acc (t : Nat) : Nat := if r.zero then 0 else (rd old t).toNat
  if r.fn = 3 then
    let t (k : Nat) : List (Val × Bool) × List (Val × Bool) :=
      if r.k ≤ k then (padTerm, padTerm)
      else momTerms (pairVal (elemAt (o.a i) 8 k)) (let x := o.bElem r k j; if r.bmom then pairVal x else (widen (fmtOf .f16) x, .zero)) r.bmom
    [BitVec.ofNat 32 (matAcc (acc 0) r.kp fun k => (t k).1), BitVec.ofNat 32 (matAcc (acc 1) r.kp fun k => (t k).2)]
  else if r.atype = 9 then
    let int (x : Nat) : Int := (BitVec.ofNat 8 x).toInt
    let sum := (List.range r.k).foldl (fun n k => n + int (elemAt (o.a i) 2 k) * int (o.bElem r k j)) (acc 0 : Int)
    [BitVec.ofInt 32 sum]
  else
    let term (k : Nat) : List (Val × Bool) :=
      if r.k ≤ k then padTerm
      else [(elemVal r.atype (elemAt (o.a i) r.nibA k)).mul (elemVal r.btype (o.bElem r k j))]
    if r.fn = 2 then
      [BitVec.ofNat 32 (matAccScaled (acc 0) r.strips term (fun t => (rd (o.sa i) t).toNat) (fun t => (rd o.sb t).toNat))]
    else [BitVec.ofNat 32 (matAcc (acc 0) r.kp term)]

/-- The tiles of a request. -/
def MatReq.tileNos (r : MatReq) : List Nat := if r.fn = 3 then [r.acc, r.acc + 1] else [r.acc]

/-- Write the rows of a pass in one step (R251, R274). -/
def State.writePass (s : State) (e : Entry) (r : MatReq) (o : Operands) : State :=
  let ts := r.tileNos
  let olds := ts.map fun t => s.tileWords e.unit t
  let news := (r.passRows.flatMap fun i => (List.range r.n).map fun j => (i, j)).map fun p =>
    (128 * p.1 + p.2, o.result r (olds.map fun w => rd w (128 * p.1 + p.2)) p.1 p.2)
  ((List.range ts.length).zip ts).foldl (fun s q =>
    s.setTile e.unit q.2 fun w => news.foldl (fun w x => w.set x.1 (rd x.2 q.1)) w) s

end Passes

section Engine

/-- The entries of an engine's reservation table (R251); a request stopped by a class 9 fault has left it (R258). -/
def State.table (s : State) (cl : Nat) : List Entry := s.entries.filter fun e => !e.copyEng && !e.parked && e.unit == cl

/-- An earlier entry of the same owner names one of the entry's tiles (R262, R457). -/
def State.behind (s : State) (e : Entry) : Bool :=
  s.entries.any fun o => decide (o.id < e.id) && !o.copyEng && o.team == e.team && o.work.tiles.any e.work.tiles.contains

/-- The row blocks of an ACST entry that are still to be stored, first the next one. -/
def AcstReq.block (r : AcstReq) : List (Nat × List (Loc × Nat)) :=
  ((List.range r.rows.length).zip r.rows).filter fun p => decide (r.next ≤ p.1) && decide (p.1 < r.next + 16)

/-- Lines of places. -/
def locKeys (ls : List (Loc × Nat)) : List LineKey := (ls.filterMap fun l => l.1.key?).eraseDups

/-- The entry wants a pass or a row block, and may be granted it (R252, R262, R267). -/
def State.grantable (s : State) (e : Entry) : Bool :=
  !s.behind e && match e.work with
  | .mat r => !r.granted && r.stop.isNone && !r.rows.isEmpty &&
      (s.passReads (s.vdevOf e.team) r).1.all fun x => !s.ownedBefore e.id (.mem x)
  | .acst r => !r.granted && decide (r.next < r.rows.length) &&
      (locKeys (r.block.flatMap Prod.snd)).all fun k => !s.ownedBefore e.id k
  | _ => false

/-- The tests of R252: a is granted before b. -/
def Entry.before (a b : Entry) : Bool :=
  let post := decide (a.id < b.id)
  if a.age = 15 ∧ b.age = 15 then (if a.agedAt = b.agedAt then post else decide (a.agedAt < b.agedAt))
  else if a.age = 15 then true
  else if b.age = 15 then false
  else if a.prio ≠ b.prio then decide (b.prio < a.prio)
  else if a.age ≠ b.age then decide (b.age < a.age)
  else post

/-- The entry that has been granted a pass or row block of an engine. -/
def State.running? (s : State) (cl : Nat) : Option Entry :=
  (s.table cl).find? fun e => match e.work with | .mat r => r.granted | .acst r => r.granted | _ => false

/-- Mark an entry granted, or no longer. -/
def Entry.grant (e : Entry) (b : Bool) : Entry :=
  match e.work with
  | .mat r => { e with work := .mat { r with granted := b } }
  | .acst r => { e with work := .acst { r with granted := b } }
  | _ => e

/-- MATRIX_GRANT (R252): the next pass or row block, when nothing runs. A granted pass translates its operands (R257). -/
def execMatrixGrant (cl : Nat) (s : State) : Res :=
  if (s.running? cl).isSome then .next s
  else match (s.table cl).filter s.grantable with
  | [] => .next s
  | h :: t =>
    let e := t.foldl (fun a b => if b.before a then b else a) h
    match e.work with
    | .mat r =>
      let q := s.passReads (s.vdevOf e.team) r
      let r1 : MatReq := { r with granted := true, trans := q.2.1, stop := q.2.2 }
      .next (s.modEntry e.id fun e => { e with work := .mat r1, reads := if q.2.2.isSome then [] else q.1.map LineKey.mem, buf := [] })
    | _ => .next (s.modEntry e.id fun e => e.grant true)

/-- Engine read of a matrix request (R257, R258). -/
def State.matRead (s : State) (e : Entry) (r : MatReq) (k : LineKey) : State :=
  let s1 := s.prepKey k
  let va : VAddr := match (r.spans.flatMap fun p => cutLines p.1 p.2).find? fun p =>
      (match s.matTranslate (s.vdevOf e.team) r p.1 with | .ok pa => k == .mem (lineOf pa) | .error _ => false) with
    | some p => p.1
    | none => 0
  let stop := match r.stop, s.lineFault k with
    | some x, _ => some x
    | none, some c => some (c, va)
    | none, none => none
  s1.modEntry e.id fun e => { e with
    reads := e.reads.filter fun q => q != k
    buf := e.buf ++ [(k, s1.engineLine e k)]
    work := .mat { r with stop := stop } }

/-- When a pass or row block ends, the entries that could have been granted age by 1 and the one that ran is of age 0 (R252). -/
def State.agePass (s : State) (cl id : Nat) : State :=
  let could := ((s.table cl).filter s.grantable).map fun e => e.id
  { s with entries := s.entries.map fun e =>
      if e.id == id then { e with age := 0 }
      else if could.contains e.id && decide (e.age < 15) then
        { e with age := e.age + 1, agedAt := if e.age = 14 then s.tick else e.agedAt }
      else e }

/-- The entry's team holds every tile that the entry names in this engine. -/
def State.holdsTiles (s : State) (e : Entry) : Bool :=
  e.work.tiles.all fun t => (s.tile? e.unit t).any fun h => h.team == e.team

/-- MATRIX_PASS (R251, R258, R261, R274): a granted pass whose tiles are held and whose operands have been read writes its rows, or stops on a
fault. -/
def execMatrixPass (cl : Nat) (s : State) : Res :=
  match s.running? cl with
  | none => .next s
  | some e =>
    match e.work with
    | .mat r =>
      if !e.reads.isEmpty || !s.holdsTiles e then .next s
      else
        let o := e.operands r
        let stop := match r.stop with | some x => some x | none => (o.negVar r).map fun va => (8, va)
        let s0 := s.agePass cl e.id
        match stop with
        | some x =>
          let r1 : MatReq := { r with granted := false, claimed := true, stop := some x, rp := some (r.rows.headD 0 / 16 * 16) }
          .next (s0.modEntry e.id fun e => { e with work := .mat r1, buf := [] })
        | none =>
          let rest := r.rows.filter fun i => i / 16 != r.rows.headD 0 / 16
          let r1 : MatReq := { r with granted := false, claimed := true, rows := rest, rp := if rest.isEmpty ∧ r.rprog ≠ 0 then some 0 else none }
          .next ((s0.writePass e r o).modEntry e.id fun e => { e with work := .mat r1, buf := [] })
    | _ => .next s

/-- The bytes of one element of an ACST (R279). -/
def acstBytes (fmt : Nat) (w : Word) : List Byte :=
  match fmt with
  | 1 => leBytes 2 (roundTo (fmtOf .f16) .rne false false 0 (f32 w.toNat)).1
  | 2 => leBytes 2 (roundTo (fmtOf .bf16) .rne false false 0 (f32 w.toNat)).1
  | _ => leBytes 4 w.toNat

/-- The bytes of a row, laid over its pieces as cells. -/
def rowCells (bs : List Byte) : List (Loc × Nat) → List Host.Cell
  | [] => []
  | (l, n) :: t => (match l with | .mem p _ => cellsAt p (bs.take n) | _ => []) ++ rowCells (bs.drop n) t

/-- The lines that the rows of an ACST from the next one on touch. -/
def AcstReq.left (r : AcstReq) : List LineKey := locKeys ((r.rows.drop r.next).flatten)

/-- The virtual address of a line, by the first piece that lies in it. -/
def pieceVa (ls : List (Loc × Nat)) (x : Nat) : VAddr :=
  match ls.findSome? fun l => (match l.1 with | .mem p v => if lineOf p = x then some v else none | _ => none) with
  | some v => v - BitVec.ofNat 64 (v.toNat % 128)
  | none => 0

/-- An engine write of an ACST to one line (R81, R279), when every row that touches the line has come: all its bytes in one step, and the
record goes. A line of the error-line table that it does not cover whole stays, and so does one that cannot be decoded (R247, R364,
R372). -/
def State.acstWrite (s : State) (e : Entry) (r : AcstReq) (x : Nat) : State :=
  let cells := r.cells.filter fun c => lineOf c.1 == x
  let whole := (List.range 128).all fun o => cells.any fun c => c.1 == 128 * x + o
  let e1 : Entry := { e with writes := e.writes.filter fun q => q != .mem x
                             work := .acst { r with cells := r.cells.filter fun c => lineOf c.1 != x } }
  match s.lineFault (.mem x) with
  | some cls =>
    if cls = 5 ∧ whole then (s.engineStore e x cells).modEntry e.id fun _ => e1
    else (s.prepKey (.mem x)).modEntry e.id fun _ => e1.noteFail cls kindEngWrite (pieceVa r.rows.flatten x)
  | none => (s.engineStore e x cells).modEntry e.id fun _ => e1

/-- ACST_ROW_BLOCK (R279): the rows of a granted block are taken from the tile; their lines are written by engine writes. -/
def execAcstRowBlock (cl : Nat) (s : State) : Res :=
  match s.running? cl with
  | none => .next s
  | some e =>
    match e.work with
    | .acst r =>
      if !s.holdsTiles e then .next s
      else
        let words := s.tileWords cl r.tile
        let cells := r.block.flatMap fun p =>
          rowCells ((List.range r.cols).flatMap fun j => acstBytes r.fmt (rd words (128 * p.1 + j))) p.2
        let r1 : AcstReq := { r with next := r.next + 16, cells := r.cells ++ cells, granted := false, claimed := true }
        .next ((s.agePass cl e.id).modEntry e.id fun e => { e with work := .acst r1 })
    | _ => .next s

/-- The entry's claim may be made: it has been granted, or it has no pass to run and stands behind nothing (R261, R262, R274). -/
def State.claimable (s : State) (e : Entry) : Bool :=
  match e.work with
  | .mat r => r.hold == .no && (r.granted || (r.rows.isEmpty && !s.behind e))
  | .acst r => r.granted
  | _ => false

/-- TILE_CLAIM (R261): the spill sequencer acts for an entry that names the tile. -/
def execTileClaim (id : Nat) (s : State) : Res :=
  match s.entry? id with
  | none => .next s
  | some e =>
    if !s.claimable e then .next s
    else
      let s1 := e.work.tiles.foldl (fun s t => s.claim e.unit e.team t) s
      .next (s1.modEntry id fun e => match e.work with
        | .mat r => { e with work := .mat { r with claimed := true } }
        | .acst r => { e with work := .acst { r with claimed := true } }
        | _ => e)

/-- The write of the row-progress byte: one engine write that owns the block's line only for it (R258, R260). -/
def State.progressWrite (s : State) (e : Entry) (r : MatReq) (row : Nat) : State :=
  let a := r.paddr + 27
  (s.engineStore e (lineOf a) [(a, BitVec.ofNat 8 row)]).modEntry e.id fun e => { e with work := .mat { r with rp := none } }

/-- A matrix request has nothing left to do but to complete. -/
def MatReq.finished (r : MatReq) : Bool :=
  !r.granted && r.rp.isNone && r.hold == .no && (r.stop.isSome || (r.rows.isEmpty && r.claimed))

/-- Complete of a matrix request (R258, R259, R274): its tag, or a recorded fault; a request stopped by class 9 stays held. -/
def State.completeMat (s : State) (e : Entry) (r : MatReq) : State :=
  match r.stop with
  | none =>
    let s1 := { s with entries := s.entries.filter fun q => q.id != e.id }
    match e.tag with
    | some k => s1.modTeam e.team fun t => t.tagDone k e.scope
    | none => s1
  | some (cls, va) =>
    let (id, s1) := s.fresh
    let flt : EngFault :=
      { id := id, group := if r.fn = 1 then none else e.groups.head?, tag := e.tag, hurdle := none, cls := cls, maj := 0x1D, fn := r.fn
        kind := kindOperand, info := e.work.failInfo cls, va := va, scope := e.scope, entry := if cls == 9 then some e.id else none }
    let s2 := s1.modTeam e.team fun t => { t with efaults := t.efaults ++ [flt] }
    if cls == 9 then
      s2.modEntry e.id fun e => { e with work := .mat { r with hold := .recorded, rprog := r.rows.headD 0 / 16 * 16, trans := [] }, age := 0 }
    else
      let s3 := { s2 with entries := s2.entries.filter fun q => q.id != e.id }
      match e.tag with
      | some k => s3.modTeam e.team fun t => t.tagDone k e.scope
      | none => s3

/-- The part posts again every request of a team whose class 9 fault has been resolved, while the table has room (R259). It keeps the id of its
first posting, so its place in the order of posting (R267, R457; DEDUCED, log entry 135). -/
def State.repost (s : State) (tm : Nat) : State :=
  match s.team? tm with
  | none => s
  | some t =>
    match t.core? with
    | none => s
    | some c =>
      (s.entries.filter fun e => e.team == tm).foldl (fun s e =>
        match e.work with
        | .mat r =>
          if r.hold == .resolved && decide ((s.table (clusterOf c)).length < 32) then
            s.modEntry e.id fun e => { e with unit := clusterOf c, work := .mat { r with hold := .no, stop := none, claimed := false } }
          else s
        | _ => s) s

end Engine

section Requests

/-- Read a parameter block (R273) as lane l: a 64-byte Load of the group's view, then the tests on its contents. The record of a misaligned
operand address has KIND 1 and that address (DESIGN CHOICE, log entry 118); its MASK is the splinter's active mask (DEDUCED, log entry 137). -/
def readBlock (c : Cur) (s : State) (fn r l : Nat) (k : State → List Word → VAddr → Nat → Act) : Act :=
  let va := s.pairS c r
  match s.placeAll (s.vdevOf c.team) [⟨l, va, 64⟩] .read 64 kindRead false with
  | .error f => accessFault c [⟨l, va, 64⟩] { f with mask := c.act }
  | .ok (ps, _) =>
    s.need c (s.loadConds c.team c.group false ps) [] none <|
      let s1 := s.loadPrep c.team false (linesOf ps)
      match ps with
      | [] => illegalAct c
      | p :: _ =>
        let b := wordsOf 16 (s1.loadBytes c.team c.group false p)
        if blockBad fn b (s.launchOf c.team).lrec.tags then illegalAct c
        else match blockMisaligned fn b with
        | some a => .fault { cls := 6, mask := c.act, kind := kindRead, va := a }
        | none => k s1 b va ((p.segs.headD (0, 0)).1)

/-- The live rows of a request from its row progress on (R255). -/
def liveRows (b : List Word) (lane : Nat → Bool) : List Nat :=
  (List.range 128).filter fun i =>
    decide (i ≤ blockField b 160 7) && blockField b (384 + i) 1 == 1 && lane (i % 32) && decide (blockField b 216 7 ≤ i)

/-- Post a matrix request (R274). One that has row progress and no live row from there on has only the 0 to write back (R260). -/
def State.postMat (s : State) (tm : Nat) (groups : List Nat) (home : Nat × Nat × Nat) (fn : Nat) (b : List Word) (va : VAddr) (pa : Nat)
    (sc : Scope) (lane : Nat → Bool) : State :=
  let rows := liveRows b lane
  s.postEntry
    { id := 0, copyEng := false, unit := clusterOf (s.coreOf tm), team := tm, groups := groups, home := home, scope := sc
      tag := some (blockField b 176 6), hurdle := none, prio := (s.launchOf tm).lrec.prio
      work := .mat { fn := fn, block := b, vaddr := va, paddr := pa, rows := rows, rprog := blockField b 216 7
                     rp := if rows.isEmpty ∧ blockField b 216 7 ≠ 0 then some 0 else none } }

/-- The lane that issues a matrix request (R254): the bellwether, or the lowest active lane of a splinter that has none
(DEDUCED, log entry 138). -/
def State.bellwether (s : State) (c : Cur) (g : BitVec 3) : Nat := (s.storing c g).headD (lowest c.act)

/-- MMA, MMAS and MMAM (R254, R272-R274). -/
def matRequest (i : Instr) (fn : Nat) (m : Mods) (f : RForm) (s : State) : Res :=
  issue i s fun c s => readBlock c s fn f.a.toNat (s.bellwether c f.g) fun s1 b va pa =>
    let sc := m.scopeD .device
    let lanes := s.storing c f.g
    if lanes.isEmpty then
      .done (s1.modTeam c.team fun t => (t.tagPost (blockField b 176 6)).tagDone (blockField b 176 6) sc)
    else
      let rel := s.postConds c m sc
      s.need c (.tableRoom :: rel.1) rel.2 none <|
        .done (s1.postMat c.team [c.group] (s1.homeOf c.team c.group (s.bellwether c f.g)) fn b va pa sc lanes.contains)

/-- MMA (R272). -/
def execMma (m : Mods) (f : RForm) (s : State) : Res := matRequest (.mma m f) 0 m f s
/-- MMAS (R272). -/
def execMmas (m : Mods) (f : RForm) (s : State) : Res := matRequest (.mmas m f) 2 m f s
/-- MMAM (R272). -/
def execMmam (m : Mods) (f : RForm) (s : State) : Res := matRequest (.mmam m f) 3 m f s

/-- The post of a full MMAT collective (R256); with only empty slices nothing is posted. -/
def State.postMatRec (s : State) (tm : Nat) (r : ArrRec) : State :=
  let s1 := s.modTeam tm fun t => { t with matRecs := t.matRecs.filter fun q => q.number != r.number }
  match r.accord with
  | none => s1
  | some a =>
    let as := (byGroup r.arrs).filter fun x => !x.empty
    s1.postMat tm (as.map fun x => x.group) ((as.map fun x => x.home).headD (0, 0, 0)) 1 a.block a.vaddr a.paddr ((a.x.map XMod.scope).getD .device) fun _ => true

/-- Post every MMAT collective of a team that has become full, while the table has room (R256); nothing is posted of a team that is not on
a core (R250). -/
def State.postMats (s : State) (tm : Nat) : State :=
  match s.team? tm with
  | none => s
  | some t => t.matRecs.foldl (fun s r =>
      if t.core?.isSome && t.allArrived r && Cond.tableRoom.holds s tm 0 0 then s.postMatRec tm r else s) s

/-- What the slices of an MMAT collective agree on: the block's address, X and the completion (R256). -/
def Accord.agrees (a b : Accord) : Bool := a.vaddr == b.vaddr && a.x == b.x && a.word == b.word

/-- An MMAT slice's arrival (R256); `acc` is none for an empty slice. -/
def matArrive (c : Cur) (s s1 : State) (m : Mods) (acc : Option Accord) : Act :=
  match s1.team? c.team with
  | none => illegalAct c
  | some t =>
    let n := (rd t.groups c.group).collectives true
    let old := t.matRecs.find? fun r => r.number == n
    let clash := match old.bind ArrRec.accord, acc with | some a, some b => !a.agrees b | _, _ => false
    if clash then illegalAct c
    else
      let t1 := t.arrive true acc
        { group := c.group, empty := acc.isNone, segs := [], bytes := 0, home := s.homeOf c.team c.group (lowest c.act) }
      let last := t1.matRecs.any fun r => r.number == n && t1.allArrived r
      let rel := if acc.isNone then ([], []) else s.postConds c m (m.scopeD .device)
      s.need c ((if old.isNone then [.recordRoom true] else []) ++ (if last then [.tableRoom] else []) ++ rel.1) rel.2 none <|
        let s2 := s1.modTeam c.team fun _ => t1
        .done (match t1.matRecs.find? fun r => r.number == n with
          | some r => if last then s2.postMatRec c.team r else s2
          | none => s2)

/-- MMAT (R256, R272, R274). -/
def execMmat (m : Mods) (f : RForm) (s : State) : Res :=
  issue (.mmat m f) s fun c s =>
    if s.onlyHelpers c then matArrive c s s m none
    else readBlock c s 1 f.a.toNat (lowest c.act) fun s1 b va pa =>
      matArrive c s s1 m (some { fn := 1, x := m.x, word := BitVec.ofNat 32 (blockField b 176 6), block := b, vaddr := va, paddr := pa })

end Requests

section Accumulators

/-- A row word is illegal (R278). -/
def rowWordBad (w : Word) : Bool :=
  bits w 7 1 != 0 || bits w 15 1 != 0 || bits w 20 12 != 0 || decide (128 ≤ bits w 8 7 + bits w 16 4)

/-- An accumulator instruction's wait behind the owner's earlier entries on a tile (R262); behind a request stopped by class 9
it takes the recorded fault instead, whichever group of the owner it belongs to (R457). -/
def behindTile (c : Cur) (s : State) (t : Nat) (conds : List Cond) (k : Act) : Act :=
  let held := s.entries.filter fun e => e.team == c.team && e.parked && e.work.tiles.contains t
  let recs := match s.team? c.team with | some x => x.efaults | none => []
  match recs.find? fun q => held.any fun e => q.entry == some e.id with
  | some q => s.takeRecorded c q
  | none => s.need c (.tileFree [t] :: conds) [] none k

/-- The engine of the issuing core's cluster. -/
def Cur.cluster (c : Cur) : Nat := clusterOf c.core

/-- The registers from r on for a row word. -/
def rowRegs (r : Nat) (w : Word) : List Nat := (List.range (bits w 16 4 + 1)).map fun k => r + k

/-- ACRD (R278). -/
def execAcrd (m : Mods) (f : RForm) (s : State) : Res :=
  issue (.acrd m f) s fun c s =>
    let w := s.rdS c f.b.toNat
    let lanes := maskOf fun l => inMask (s.guarded c f.g) l && decide (bits w 0 7 + l < 128)
    if rowWordBad w || decide (min (s.budget c.team c.group).1 64 < f.d.toNat + bits w 16 4 + 1) then illegalAct c
    else
      let bad := match s.team? c.team with | some t => t.twinMisuse c.group lanes (rowRegs f.d.toNat w) | none => 0
      if bad != 0 then .fault { cls := 11, mask := bad }
      else behindTile c s f.a.toNat [] <|
        let s1 := s.claim c.cluster c.team f.a.toNat
        let tw := s1.tileWords c.cluster f.a.toNat
        .done (s1.applyFx c.team c.group lanes fun l =>
          { v := vWrites f.d.toNat ((List.range (bits w 16 4 + 1)).map fun j => rd tw (128 * (bits w 0 7 + l) + bits w 8 7 + j)) })

/-- ACWR (R278). -/
def execAcwr (m : Mods) (f : RForm) (s : State) : Res :=
  issue (.acwr m f) s fun c s =>
    let w := s.rdS c f.b.toNat
    let ls := (s.storing c f.g).filter fun l => decide (bits w 0 7 + l < 128)
    let lanes := maskOf ls.contains
    if rowWordBad w || decide (min (s.budget c.team c.group).1 64 < f.a.toNat + bits w 16 4 + 1) then illegalAct c
    else
      let reads := match s.team? c.team with | some t => t.twinReads c.group lanes (rowRegs f.a.toNat w) | none => []
      behindTile c s f.d.toNat (if reads.isEmpty then [] else [.twinFull reads]) <|
        let s1 := (s.modTeam c.team fun t => t.twinTake c.group reads).claim c.cluster c.team f.d.toNat
        .done (s1.setTile c.cluster f.d.toNat fun tw => ls.foldl (fun tw l =>
          (List.range (bits w 16 4 + 1)).foldl (fun tw j =>
            tw.set (128 * (bits w 0 7 + l) + bits w 8 7 + j) (s.rdV c.team c.group l (f.a.toNat + j))) tw) tw)

/-- ACST (R279). -/
def execAcst (m : Mods) (f : RForm) (s : State) : Res :=
  issue (.acst m f) s fun c s => groupUniform c s <|
    let va := s.pairS c f.b.toNat
    let stride := (s.rdS c (f.b.toNat + 2)).toNat
    let w := s.rdS c (f.b.toNat + 3)
    let fmt := bits w 16 2
    let z := if fmt = 0 then 4 else 2
    let ill := bits w 7 1 != 0 || bits w 15 1 != 0 || fmt == 3 || bits w 18 6 != 0 || bits w 30 2 != 0 ||
      decide ((s.launchOf c.team).lrec.tags ≤ bits w 24 6)
    let mis := va.toNat % z != 0 || stride % z != 0
    let rows := (List.range (bits w 0 7 + 1)).map fun i =>
      s.memPieces (s.vdevOf c.team) (va + BitVec.ofNat 64 (i * stride)) ((bits w 8 7 + 1) * z) .write kindEngWrite
    let fs := (if ill then [(1, 0, 0)] else []) ++ (if mis then [(6, kindEngWrite, va)] else []) ++ rows.flatMap Prod.snd
    match engFault c 2 fs with
    | some e => .fault e
    | none => s.need c [.tableRoom] [] none <|
      let req : AcstReq := { tile := f.a.toNat, fmt := fmt, cols := bits w 8 7 + 1, rows := rows.map Prod.fst }
      .done (s.postEntry
        { id := 0, copyEng := false, unit := c.cluster, team := c.team, groups := [c.group]
          home := s.homeOf c.team c.group (lowest c.act), scope := m.scopeD .device, tag := some (bits w 24 6), hurdle := none
          prio := (s.launchOf c.team).lrec.prio, work := .acst req, writes := locKeys (rows.flatMap Prod.fst) })

/-- ACZ (R280). -/
def execAcz (m : Mods) (f : RForm) (s : State) : Res :=
  issue (.acz m f) s fun c s => groupUniform c s <| behindTile c s f.d.toNat [] <|
    .done ((s.claim c.cluster c.team f.d.toNat).setTile c.cluster f.d.toNat fun _ => List.replicate 16384 0)

/-- ACREL (R280). -/
def execAcrel (m : Mods) (f : RForm) (s : State) : Res :=
  issue (.acrel m f) s fun c s => groupUniform c s <| behindTile c s f.d.toNat [] <|
    .done (s.releaseTile c.team f.d.toNat)

end Accumulators

end Sys2Proof.Machine
end

