-- ==== Sys2Proof/Machine/LobeFn.lean ====
section
/-!
DEFINITION. Closures as numbers, their well-formedness, and the lobe engine's procedures: frame, value, selection, density and
sampling (16_lobe_engine R282-R297; 17_lobe_instructions R305-R308).
-/
namespace Sys2Proof.Machine
open Sys2Proof

section Image

/-- Bits [lo+n-1:lo] of a number. -/
def fld (x lo n : Nat) : Nat := (x >>> lo) % 2 ^ n
/-- The number with those bits replaced. -/
def setFld (x lo n v : Nat) : Nat := x - fld x lo n * 2 ^ lo + (v % 2 ^ n) * 2 ^ lo

/-- The 2048 bits of a closure register (R282). -/
def closureNat (c : Closure) : Nat := leNat (bytesOf ((List.range 64).map (rd c)))
/-- A closure register from its bits. -/
def closureOf (x : Nat) : Closure := wordsOf 64 (leBytes 256 x)

/-- Header fields (R283). -/
def ncount (x : Nat) : Nat := fld x 64 4
def rootOf (x : Nat) : Nat := fld x 68 4
def netBound (x : Nat) : Bool := fld x 73 1 == 1
/-- The table base: bits [55:8], sign-extended (R283). -/
def tableBase (x : Nat) : VAddr := BitVec.signExtend 64 (BitVec.ofNat 56 (fld x 80 48 * 256))

/-- The 128 bits of a slot (R284). -/
def slotOf (x i : Nat) : Nat := fld x (128 + 128 * i) 128
/-- The image with a slot replaced. -/
def setSlot (x i v : Nat) : Nat := setFld x (128 + 128 * i) 128 v
/-- KIND of a slot. -/
def kindOfSlot (v : Nat) : Nat := v % 16

/-- The children of a slot: the present CH0 to CH3, or TOP then BASE (R292). -/
def kidsOf (v : Nat) : List Nat :=
  match kindOfSlot v with
  | 1 => ((List.range 4).map fun j => fld v (64 + 4 * j) 4).filter fun c => c != 15
  | 2 => [fld v 64 4, fld v 68 4]
  | _ => []

/-- An F16 encoding in [2^-7, 1] (R285): positive encodings are ordered as their values. -/
def unitHalf (b : Nat) : Bool := decide (0x2000 ≤ b) && decide (b ≤ 0x3C00)

/-- The parameters of a slot lie in their ranges and its reserved bits are 0 (R284, R285). -/
def slotOk (v : Nat) : Bool :=
  fld v 4 12 == 0 && match kindOfSlot v with
    | 1 => fld v 80 48 == 0
    | 2 => fld v 72 8 == 0
    | 3 => fld v 64 64 == 0
    | 4 => fld v 74 54 == 0 && decide (1 ≤ fld v 64 10) && decide (fld v 64 10 ≤ 512)
    | 5 => fld v 112 16 == 0 && unitHalf (fld v 64 16) && unitHalf (fld v 80 16)
    | 6 => fld v 96 32 == 0 && decide (0 < fld v 64 16) && decide (fld v 64 16 < 0x7C00) && unitHalf (fld v 80 16)
    | 7 => fld v 80 48 == 0 && unitHalf (fld v 64 16)
    | 8 => fld v 84 12 == 0 && fld v 112 16 == 0 && (match fld v 80 4 with
        | 3 => fld v 96 16 == 0
        | 4 => decide (1 ≤ fld v 96 16) && decide (fld v 96 16 ≤ 512)
        | 5 => unitHalf (fld v 96 16)
        | _ => false)
    | _ => false

/-- The slots that a slot reaches in pre-order, none when one lies too deep or outside the allocated slots (R286). -/
def preorder (x : Nat) : Nat → Nat → Option (List Nat)
  | 0, _ => none
  | d + 1, s =>
    if ncount x ≤ s then none
    else (kidsOf (slotOf x s)).foldl (fun acc c => match acc, preorder x d c with
      | some l, some m => some (l ++ m)
      | _, _ => none) (some [s])

/-- The reachable slots of a closure whose tree is well formed, in pre-order (R286, R295). -/
def reachable (x : Nat) : List Nat := (preorder x 4 (rootOf x)).getD []

/-- A slot that needs a bound table base (R286). -/
def needsTable (v : Nat) : Bool := kindOfSlot v == 8 || (kindOfSlot v == 5 && fld v 96 16 != 0xFFFF)

/-- R286. -/
def wellFormed (x : Nat) : Bool :=
  fld x 74 6 == 0 && (netBound x || fld x 80 48 == 0) &&
    (if ncount x = 0 then rootOf x == 15
     else decide (rootOf x < ncount x) &&
      ((List.range (ncount x)).all fun i => slotOk (slotOf x i) && (kidsOf (slotOf x i)).all fun c => decide (c < ncount x)) &&
      match preorder x 4 (rootOf x) with
      | some l => l.eraseDups.length == l.length && (netBound x || !(l.any fun i => needsTable (slotOf x i)))
      | none => false)

/-- The closure is read as having no lobes (R287). -/
def readsEmpty (x : Nat) : Bool := !wellFormed x || ncount x == 0

/-- What CLOBE, CMIX and CLAY build on (R287, R303): an empty closure that keeps NU, NV, TU and TV when the image is malformed. -/
def buildBase (x : Nat) : Nat := if wellFormed x then x else fld x 0 64 + 15 * 2 ^ 68

end Image

section Vectors

/-- Three values. -/
structure V3 where
  x : Val
  y : Val
  z : Val
  deriving DecidableEq, Repr, Inhabited

/-- Component by component. -/
def V3.map (f : Val → Val) (a : V3) : V3 := ⟨f a.x, f a.y, f a.z⟩
def V3.zip (f : Val → Val → Val) (a b : V3) : V3 := ⟨f a.x b.x, f a.y b.y, f a.z b.z⟩
/-- The same value three times (R306). -/
def V3.all (v : Val) : V3 := ⟨v, v, v⟩
/-- (+0, +0, +0). -/
def V3.zero : V3 := V3.all .zero
/-- The three F32 words. -/
def V3.words (a : V3) : List Word := [a.x, a.y, a.z].map fun v => BitVec.ofNat 32 (rne32 v)

/-- The exact quotient of two values. -/
def divExact (a b : Val) : Val :=
  match a, b with
  | .nan, _ | _, .nan => .nan
  | .inf _, .inf _ => .nan
  | .inf s, .fin t _ _ => .inf (s != t)
  | .fin s _ _, .inf t => .fin (s != t) 0 1
  | .fin s n d, .fin t m e => if m = 0 then (if n = 0 then .nan else .inf (s != t)) else .fin (s != t) (n * e) (d * m)

/-- The operations of R306: one Rn of the exact result. -/
def sub32 (a b : Val) : Val := r32 (subExact a b)
def div32 (a b : Val) : Val := r32 (divExact a b)
/-- Rn(SumExact) of products and values (R288). -/
def sum32 (ts : List (Val × Bool)) : Val := r32 (sumTerms false ts).1
/-- A natural number as an F32 value. -/
def nat32 (n : Nat) : Val := r32 (.fin false n 1)
/-- At most 0. -/
def Val.le0 (a : Val) : Bool := a.le .zero
/-- sqrt(x) = Root(max(x, +0)) (R306). -/
def sqrt0 (a : Val) : Val := if a.le0 then .zero else root32 a
/-- -1 when the sign bit is set, else +1, times a value (R289). -/
def sgnTimes (s a : Val) : Val := if s.neg? then a.negate else a

/-- dot of R306. -/
def dot3 (a b : V3) : Val := sum32 [a.x.mul b.x, a.y.mul b.y, a.z.mul b.z]
/-- cross of R306. -/
def cross3 (a b : V3) : V3 :=
  let c (p q r s : Val) : Val := sum32 [p.mul q, let t := r.mul s; (t.1.negate, t.2)]
  ⟨c a.y b.z a.z b.y, c a.z b.x a.x b.z, c a.x b.y a.y b.x⟩

/-- Normalise (R289). -/
def normalise (v : V3) : V3 :=
  let q := dot3 v v
  if q.isZero then V3.zero
  else
    let r := r32 (rsqVal q).1
    v.map fun c => mul32 c r

/-- Comb (R306), which is also the form of ToWorld (R289). -/
def comb (d p q r : V3) : V3 :=
  let k (f : V3 → Val) : Val := sum32 [d.x.mul (f p), d.y.mul (f q), d.z.mul (f r)]
  normalise ⟨k V3.x, k V3.y, k V3.z⟩

/-- A signed 16-bit snorm as a value (R289). -/
def snorm (u : Nat) : Val := let i := max (BitVec.ofNat 16 u).toInt (-32767); r32 (.fin (decide (i < 0)) i.natAbs 32767)

/-- OctDecode (R289). -/
def octDecode (u v : Nat) : V3 :=
  let x := snorm u
  let y := snorm v
  let z := sum32 [(.one, false), (x.abs.negate, false), (y.abs.negate, false)]
  let fold (a b : Val) : Val := sgnTimes a (sub32 .one b.abs)
  normalise (if z.lt .zero then ⟨fold x y, fold y x, z⟩ else ⟨x, y, z⟩)

/-- A frame: tangent, bitangent, normal. -/
structure Frame where
  t : V3
  b : V3
  n : V3

/-- The tangent that a candidate gives, before it is normalised (R289). -/
def tangentOf (n c : V3) : V3 :=
  let d := dot3 c n
  let k (f : V3 → Val) : Val := sum32 [(f c, false), d.negate.mul (f n)]
  ⟨k V3.x, k V3.y, k V3.z⟩

/-- Frame (R289). -/
def frameOf (x : Nat) : Frame :=
  let n := octDecode (fld x 0 16) (fld x 16 16)
  let c1 := tangentOf n (octDecode (fld x 32 16) (fld x 48 16))
  let c2 := tangentOf n ⟨.one, .zero, .zero⟩
  let c3 := tangentOf n ⟨.zero, .one, .zero⟩
  let ok (t : V3) : Bool := (Val.fin false 1 (2 ^ 20)).le (dot3 t t)
  let t := normalise (if ok c1 then c1 else if ok c2 then c2 else c3)
  { t := t, b := cross3 n t, n := n }

/-- ToLocal and ToWorld (R289). -/
def Frame.toLocal (f : Frame) (w : V3) : V3 := ⟨dot3 w f.t, dot3 w f.b, dot3 w f.n⟩
def Frame.toWorld (f : Frame) (l : V3) : V3 := comb l f.t f.b f.n

/-- OctEncode (R305): the 32 bits of the two halves. -/
def octEncode (v : V3) : Nat :=
  let bad (a : Val) : Bool := a.isNan || a.isInf
  if bad v.x || bad v.y || bad v.z then 0
  else
    let w := normalise v
    let s := add32 (add32 w.x.abs w.y.abs) w.z.abs
    if s.isZero then 0
    else
      let x := div32 w.x s
      let y := div32 w.y s
      let p := if w.z.lt .zero then (sgnTimes x (sub32 .one y.abs), sgnTimes y (sub32 .one x.abs)) else (x, y)
      let half (a : Val) : Nat := match mul32 a (nat32 32767) with
        | .fin s n d => (BitVec.ofInt 16 (signedNum s (roundInt .rne 0 s n d))).toNat
        | _ => 0
      half p.1 + half p.2 * 65536

end Vectors

section Kinds

/-- An F16 encoding's value. -/
def half32 (b : Nat) : Val := widen (fmtOf .f16) b
/-- A weight component as it is read (R288). -/
def weightOf (b : Nat) : Val := let v := half32 b; if v.isNan || v.isInf || isNegVar v then .zero else v

/-- SinCos (R306). -/
def sinCos32 (u : Val) : Val × Val :=
  let w := sincosWords { mode := .rne, ftz := false, sat := false, gen := ⟨[], 0, 0⟩ } u { pos := 0 }
  (f32 w.1.1, f32 w.1.2)
/-- Exp2 and Log2 (R306). -/
def exp2r (x : Val) : Val := r32 (exp2Val x)
def log2r (x : Val) : Val := r32 (log2Val false x).1
/-- Pow (R306): bits 9 down to 0. -/
def powGo (c : Val) (e : Nat) : Nat → Val → Val
  | 0, r => r
  | b + 1, r => let q := mul32 r r; powGo c e b (if e.testBit b then mul32 q c else q)
def pow32 (c : Val) (e : Nat) : Val := powGo c e 10 .one

def invPi : Val := f32 0x3EA2F983
def inv2Pi : Val := f32 0x3E22F983
def four32 : Val := nat32 4
def halfVal : Val := f32 0x3F000000

/-- The bytes of the tables that an instruction reads (R300): Fresnel records and weight blocks by their indices. -/
structure Tables where
  fres : Nat → List Byte
  net  : Nat → List Byte

/-- A leaf by its kind (R285). -/
inductive Leaf where
  | matt
  | glossy (e : Nat)
  | micro (ax ay : Val) (fidx : Nat)
  | dielectric (eta alpha : Val)
  | sheen (rough : Val)
  deriving DecidableEq, Repr, Inhabited

/-- The lobe that a leaf's density and sampling are those of; a NET leaf's proxy (R297). -/
def leafOf (v : Nat) : Leaf :=
  let p (lo : Nat) : Nat := fld v lo 16
  match kindOfSlot v with
  | 4 => .glossy (fld v 64 10)
  | 5 => .micro (half32 (p 64)) (half32 (p 80)) (p 96)
  | 6 => .dielectric (half32 (p 64)) (half32 (p 80))
  | 7 => .sheen (half32 (p 64))
  | 8 => (match fld v 80 4 with
    | 4 => .glossy (p 96)
    | 5 => .micro (half32 (p 96)) (half32 (p 96)) 0xFFFF
    | _ => .matt)
  | _ => .matt

/-- Either direction is below the surface: zero both (R307). -/
def below (o i : V3) : Bool := o.z.le0 || i.z.le0

/-- Lam and Dg (R307). -/
def lam (ax ay : Val) (w : V3) : Val :=
  let k (a c : Val) : Val := mul32 (mul32 (mul32 a a) c) c
  let t := div32 (add32 (k ax w.x) (k ay w.y)) (mul32 w.z w.z)
  mul32 (sub32 (sqrt0 (add32 .one t)) .one) halfVal
def dg (ax ay : Val) (h : V3) : Val :=
  let k (a c : Val) : Val := div32 (mul32 c c) (mul32 a a)
  let q := add32 (add32 (k ax h.x) (k ay h.y)) (mul32 h.z h.z)
  div32 invPi (mul32 (mul32 (mul32 ax ay) q) q)

/-- Vndf (R307). -/
def vndf (ax ay : Val) (o : V3) (u1 u2 : Val) : V3 :=
  let v := normalise ⟨mul32 ax o.x, mul32 ay o.y, o.z⟩
  let k := add32 (mul32 v.x v.x) (mul32 v.y v.y)
  let t1 : V3 := if Val.zero.lt k then ⟨div32 v.y.negate (sqrt0 k), div32 v.x (sqrt0 k), .zero⟩ else ⟨.one, .zero, .zero⟩
  let t2 := cross3 v t1
  let r := sqrt0 u1
  let sc := sinCos32 u2
  let p1 := mul32 r sc.2
  let w := mul32 halfVal (add32 .one v.z)
  let p1s := mul32 p1 p1
  let p2 := add32 (mul32 (sub32 .one w) (sqrt0 (sub32 .one p1s))) (mul32 w (mul32 r sc.1))
  let n := comb ⟨p1, p2, sqrt0 (sub32 (sub32 .one p1s) (mul32 p2 p2))⟩ t1 t2 v
  normalise ⟨mul32 ax n.x, mul32 ay n.y, if n.z.le0 then .zero else n.z⟩

/-- Fres (R307). Its x and t are exact, and each component of F rounds at every operation (R306; DEDUCED, log entry 145). -/
def fresOf (tb : Tables) (fidx : Nat) (c : Val) : V3 :=
  if fidx = 0xFFFF then V3.all .one
  else
    let c := if c.le0 then Val.zero else if c.lt .one then c else .one
    match c with
    | .fin _ n d =>
      let j := min (15 * n / d) 14
      let t : Val := .fin false (15 * n - j * d) d
      let e (i k : Nat) : Val := weightOf (leNat (((tb.fres fidx).drop (8 * i + 2 * k)).take 2))
      let f (k : Nat) : Val := add32 (e j k) (r32 (t.mul (sub32 (e (j + 1) k) (e j k))).1)
      ⟨f 0, f 1, f 2⟩
    | _ => V3.zero

/-- FrD (R307). -/
def frD (c eta : Val) : Val :=
  let c := c.abs
  let g2 := sub32 .one (div32 (sub32 .one (mul32 c c)) (mul32 eta eta))
  if g2.le0 then .one
  else
    let g := sqrt0 g2
    let eg := mul32 eta g
    let ec := mul32 eta c
    let rs := div32 (sub32 c eg) (add32 c eg)
    let rp := div32 (sub32 ec g) (add32 ec g)
    mul32 (add32 (mul32 rs rs) (mul32 rp rp)) halfVal

/-- The side sign, η and the mirrored directions of DIELECTRIC (R307). -/
def sideEta (eta : Val) (o : V3) : Val := if o.z.lt .zero then div32 .one eta else eta
def sided (o w : V3) : V3 := if o.z.lt .zero then { w with z := w.z.negate } else w

/-- The parts of DIELECTRIC at (o, i): value and density (R307). -/
def dielectricOf (eta alpha : Val) (o i : V3) : Val × Val :=
  if o.z.isZero || i.z.isZero then (.zero, .zero)
  else
    let n := sideEta eta o
    let o' := sided o o
    let i' := sided o i
    let L := add32 .one (lam alpha alpha o')
    let G := div32 .one (add32 L (lam alpha alpha i'))
    if Val.zero.lt i'.z then
      let h := normalise (V3.zip add32 o' i')
      let F := frD (dot3 o' h) n
      let fd := mul32 F (dg alpha alpha h)
      let oz := mul32 four32 o'.z
      (div32 (mul32 fd G) oz, div32 fd (mul32 oz L))
    else
      let h0 := normalise (V3.zip (fun a b => add32 a (mul32 n b)) o' i')
      let h := if h0.z.lt .zero then h0.map Val.negate else h0
      let a := dot3 o' h
      let b := dot3 i' h
      if a.le0 || Val.zero.le b then (.zero, .zero)
      else
        let F := frD a n
        let s := add32 a (mul32 n b)
        let q := mul32 s s
        let fd := mul32 (sub32 .one F) (dg alpha alpha h)
        (div32 (mul32 (mul32 (mul32 fd G) a) b.negate) (mul32 o'.z q),
         div32 (mul32 (mul32 (mul32 (div32 (mul32 fd a) (mul32 o'.z L)) n) n) b.negate) q)

/-- The cosine lobe shared by MATT and SHEEN's density. -/
def mattOf (o i : V3) : Val := if below o i then .zero else mul32 i.z invPi

/-- Lobe of a leaf that is not NET, per component (R307). -/
def Leaf.lobe (tb : Tables) (o i : V3) : Leaf → V3
  | .matt => V3.all (mattOf o i)
  | .glossy e =>
    let k := dot3 ⟨o.x.negate, o.y.negate, o.z⟩ i
    if below o i || k.le0 then V3.zero
    else V3.all (mul32 (mul32 (mul32 (nat32 (e + 2)) inv2Pi) (pow32 k e)) i.z)
  | .micro ax ay fidx =>
    if below o i then V3.zero
    else
      let h := normalise (V3.zip add32 o i)
      let g := div32 .one (add32 (add32 .one (lam ax ay o)) (lam ax ay i))
      let w := div32 (mul32 (dg ax ay h) g) (mul32 four32 o.z)
      (fresOf tb fidx (dot3 o h)).map fun f => mul32 f w
  | .dielectric eta alpha => V3.all (dielectricOf eta alpha o i).1
  | .sheen rough =>
    if below o i then V3.zero
    else
      let h := normalise (V3.zip add32 o i)
      let x := sub32 .one (mul32 h.z h.z)
      let d := mul32 (mul32 (add32 (nat32 2) (div32 .one rough)) (exp2r (mul32 (log2r x) (div32 halfVal rough)))) inv2Pi
      V3.all (mul32 (div32 d (mul32 four32 (sub32 (add32 o.z i.z) (mul32 o.z i.z)))) i.z)

/-- LobePdf of a leaf (R307). -/
def Leaf.pdf (o i : V3) : Leaf → Val
  | .matt | .sheen _ => mattOf o i
  | .glossy e =>
    let k := dot3 ⟨o.x.negate, o.y.negate, o.z⟩ i
    if below o i || k.le0 then .zero else mul32 (mul32 (nat32 (e + 1)) inv2Pi) (pow32 k e)
  | .micro ax ay _ =>
    if below o i then .zero
    else
      let h := normalise (V3.zip add32 o i)
      div32 (dg ax ay h) (mul32 (mul32 four32 o.z) (add32 .one (lam ax ay o)))
  | .dielectric eta alpha => (dielectricOf eta alpha o i).2

/-- The cosine sample of MATT and SHEEN (R307). -/
def mattSample (o : V3) (u1 u2 : Val) : Option V3 :=
  if o.z.le0 then none
  else
    let r := sqrt0 u1
    let sc := sinCos32 u2
    some ⟨mul32 r sc.2, mul32 r sc.1, sqrt0 (sub32 .one u1)⟩

/-- Sample of a leaf: a local direction, or none (R307). -/
def Leaf.sample (o : V3) (u u1 u2 : Val) : Leaf → Option V3
  | .matt | .sheen _ => mattSample o u1 u2
  | .glossy e =>
    if o.z.le0 then none
    else
      let m : V3 := ⟨o.x.negate, o.y.negate, o.z⟩
      let ca := exp2r (mul32 (log2r u1) (div32 .one (nat32 (e + 1))))
      let sa := sqrt0 (sub32 .one (mul32 ca ca))
      let sc := sinCos32 u2
      let v : V3 := if m.y.abs.lt (f32 0x3F666666) then ⟨.zero, .one, .zero⟩ else ⟨.one, .zero, .zero⟩
      let a := normalise (cross3 v m)
      let b := cross3 m a
      let l := comb ⟨mul32 sa sc.2, mul32 sa sc.1, ca⟩ a b m
      if l.z.le0 then none else some l
  | .micro ax ay _ =>
    if o.z.le0 then none
    else
      let h := vndf ax ay o u1 u2
      let c := mul32 (nat32 2) (dot3 o h)
      let l := normalise (V3.zip (fun p q => sub32 (mul32 c p) q) h o)
      if l.z.le0 then none else some l
  | .dielectric eta alpha =>
    if o.z.isZero then none
    else
      let n := sideEta eta o
      let o' := sided o o
      let h := vndf alpha alpha o' u1 u2
      let a := dot3 o' h
      let back (l : V3) : V3 := normalise (sided o l)
      if u.lt (frD a n) then
        let l := V3.zip (fun p q => sub32 (mul32 (mul32 (nat32 2) a) p) q) h o'
        if Val.zero.lt l.z then some (back l) else none
      else
        let k := sub32 (div32 a n) (sqrt0 (sub32 .one (div32 (sub32 .one (mul32 a a)) (mul32 n n))))
        let l := V3.zip (fun p q => sub32 (mul32 k p) (div32 q n)) h o'
        if l.z.lt .zero then some (back l) else none

/-- A of R308. -/
def Leaf.albedo (tb : Tables) (o : V3) : Leaf → V3
  | .matt | .glossy _ => if o.z.le0 then V3.zero else V3.all .one
  | .micro _ _ fidx => if o.z.le0 then V3.zero else fresOf tb fidx o.z
  | .dielectric eta _ => if o.z.isZero then V3.zero else V3.all (frD (sided o o).z (sideEta eta o))
  | .sheen rough => if o.z.le0 then V3.zero else V3.all (mul32 halfVal rough)

/-- One layer of the network (R307): weights and biases at byte offsets. -/
def netLayer (w : List Byte) (wo bo ins outs : Nat) (x : List Val) : List Val :=
  let h (o : Nat) : Val := half32 (leNat ((w.drop o).take 2))
  (List.range outs).map fun j =>
    let s := sumTerms false (((List.range ins).map fun k => (h (wo + 2 * (ins * j + k))).mul (x.getD k .zero)) ++ [(h (bo + 2 * j), false)])
    let v := half32 (roundTo (fmtOf .f16) .rne false false 0 s.1).1
    if Val.zero.lt v then v else .zero

/-- The network's output (R307). -/
def netLobe (w : List Byte) (o i : V3) : V3 :=
  if below o i then V3.zero
  else
    let x := [o.x, o.y, o.z, i.x, i.y, i.z].map fun v => half32 (roundTo (fmtOf .f16) .rne false false 0 v).1
    let h1 := netLayer w 0 256 8 16 x
    let h2 := netLayer w 288 800 16 16 h1
    let y := netLayer w 832 928 16 3 h2
    ⟨y.getD 0 .zero, y.getD 1 .zero, y.getD 2 .zero⟩

end Kinds

section Trees

/-- The weight of a slot (R288). -/
def slotWeight (v : Nat) : V3 := ⟨weightOf (fld v 16 16), weightOf (fld v 32 16), weightOf (fld v 48 16)⟩
/-- ATT of a LAYER (R285, R288). -/
def slotAtt (v : Nat) : V3 := ⟨weightOf (fld v 80 16), weightOf (fld v 96 16), weightOf (fld v 112 16)⟩

/-- Val and Alb (R290, R308) over a function of the leaves. -/
def treeVal (x : Nat) (leaf : Nat → V3) : Nat → Nat → V3
  | 0, _ => V3.zero
  | d + 1, n =>
    let v := slotOf x n
    let s := match kindOfSlot v, kidsOf v with
      | 1, ks => ks.foldl (fun s c => V3.zip (fun a b => sum32 [(a, false), (b, false)]) s (treeVal x leaf d c)) V3.zero
      | 2, [t, b] => V3.zip (fun a q => sum32 [(a, false), (q, false)]) (treeVal x leaf d t)
          (V3.zip mul32 (slotAtt v) (treeVal x leaf d b))
      | _, _ => leaf v
    V3.zip mul32 (slotWeight v) s

/-- Val(ROOT) at (o, i) (R290). -/
def valueAt (tb : Tables) (x : Nat) (o i : V3) : V3 :=
  treeVal x (fun v => if kindOfSlot v = 8 then netLobe (tb.net (fld v 64 16)) o i else (leafOf v).lobe tb o i) 4 (rootOf x)

/-- Alb(n) at o (R308). R286 bounds the depth below ROOT; a detached node, as TOP of CLAY may be, can stand over up to 15 slots. -/
def albedoAt (tb : Tables) (x : Nat) (o : V3) (n : Nat) : V3 := treeVal x (fun v => (leafOf v).albedo tb o) 16 n

/-- sw and sw′ (R291). -/
def selWeight (v : Nat) (att : Option V3) : Val :=
  let w := slotWeight v
  let p (a b : Val) : Val := match att with | some _ => (a.mul b).1 | none => a
  let t := att.getD V3.zero
  let s := (sumTerms false [(p w.x t.x, false), ((Val.fin false 2 1).mul (p w.y t.y)), (p w.z t.z, false)]).1
  r32 (s.mul2 (-2))

/-- The children of a node with p_j and cum_j (R292). -/
def childProbs (x n : Nat) : List (Nat × Val × Val) :=
  let v := slotOf x n
  let ks := kidsOf v
  let att (j : Nat) : Option V3 := if kindOfSlot v = 2 ∧ j = 1 then some (slotAtt v) else none
  let ws := ((List.range ks.length).zip ks).map fun p => (p.2, selWeight (slotOf x p.2) (att p.1))
  let S := sum32 (ws.map fun w => (w.2, false))
  (ws.foldl (fun (acc : List (Nat × Val × Val) × Val) w =>
    let p := if S.isZero then .zero else div32 w.2 S
    let cum := sum32 [(acc.2, false), (p, false)]
    (acc.1 ++ [(w.1, p, cum)], cum)) ([], .zero)).1

/-- The reachable leaves with their path probabilities, in pre-order (R292, R295). -/
def leafProbs (x : Nat) : Nat → Nat → Val → List (Nat × Val)
  | 0, _, _ => []
  | d + 1, n, p =>
    if kindOfSlot (slotOf x n) ≤ 2 then (childProbs x n).flatMap fun c => leafProbs x d c.1 (mul32 p c.2.1)
    else [(n, p)]

/-- Pdf (R295) for local directions of a wi that is not zero. -/
def pdfAt (x : Nat) (o i : V3) : Val :=
  (leafProbs x 4 (rootOf x) .one).foldl (fun acc q =>
    if Val.zero.lt q.2 then sum32 [(acc, false), (mul32 q.2 ((leafOf (slotOf x q.1)).pdf o i), false)] else acc) .zero

/-- 0x3F7F_FFFF. -/
def uMax : Val := f32 0x3F7FFFFF
/-- The clamp of a uniform number (R293). -/
def clampU (u : Val) : Val := if u.isNan || u.lt .zero then .zero else if Val.one.le u then uMax else u

/-- The selection walk (R293): the leaf and the rescaled number, or none (R294). -/
def selectLeaf (x : Nat) : Nat → Nat → Val → Option (Nat × Val)
  | 0, _, _ => none
  | d + 1, n, u =>
    if 2 < kindOfSlot (slotOf x n) then some (n, u)
    else
      let ps := childProbs x n
      let prev (j : Nat) : Val := match j with | 0 => .zero | k + 1 => ((ps.getD k (0, .zero, .zero)).2).2
      let live := ((List.range ps.length).zip ps).filter fun p => Val.zero.lt p.2.2.1
      match live.find? fun p => u.lt p.2.2.2, live.getLast? with
      | some p, _ | none, some p =>
        let q := r32 (divExact (subExact u (prev p.1)) p.2.2.1)
        selectLeaf x d p.2.1 (if q.lt uMax then q else uMax)
      | none, none => none

/-- A direction as it is read (R308). -/
def readDir (a b c : Word) : V3 :=
  let v (w : Word) : Val := f32 w.toNat
  let bad (w : Word) : Bool := (v w).isNan || (v w).isInf
  if bad a || bad b || bad c then V3.zero else ⟨v a, v b, v c⟩

/-- What a query gives: the sampled direction, value, density and leaf (R308). -/
structure Answer where
  wi    : V3 := V3.zero
  value : V3 := V3.zero
  pdf   : Val := .zero
  leaf  : Nat := 15

/-- Where a closure samples: the leaf, and the world direction when there is one (R293, R294, R308). -/
def sampleWi (x : Nat) (wo : V3) (u0 u1 u2 : Val) : Nat × Option V3 :=
  if readsEmpty x then (15, none)
  else
    let fr := frameOf x
    match selectLeaf x 5 (rootOf x) (clampU u0) with
    | none => (15, none)
    | some (n, u) =>
      (n, ((leafOf (slotOf x n)).sample (fr.toLocal (normalise wo)) u (clampU u1) (clampU u2)).map fr.toWorld)

/-- The local directions of a pair, none when wi normalises to zero (R289, R295). -/
def localPair (x : Nat) (wo wi : V3) : Option (V3 × V3) :=
  let fr := frameOf x
  let w := normalise wi
  if w.x.isZero && w.y.isZero && w.z.isZero then none else some (fr.toLocal (normalise wo), fr.toLocal w)

/-- Val and Pdf at world directions (R290, R295). -/
def evalAt (tb : Tables) (x : Nat) (wo wi : V3) : V3 × Val :=
  if readsEmpty x then (V3.zero, .zero)
  else match localPair x wo wi with
  | none => (V3.zero, .zero)
  | some (o, i) => (valueAt tb x o i, pdfAt x o i)

end Trees

end Sys2Proof.Machine
end

