-- ==== Sys2Proof/Machine/Lobe.lean ====
section
/-!
DEFINITION. The lobe instructions, majors 0x1F and 0x20, the table path, and the completion of a lobe operation (16_lobe_engine
R298-R300; 17_lobe_instructions R301-R312; 04_ordering_machine R84).
-/
namespace Sys2Proof.Machine
open Sys2Proof

section Building

/-- Read and write cr of a lane as its 2048 bits. -/
def State.rdC (s : State) (c : Cur) (l r : Nat) : Nat := closureNat (rd (s.lane c.team c.group l).c r)
def putC (r : Nat) (x : Nat) : Fx := { other := fun ln => { ln with c := wr ln.c r (closureOf x) } }

/-- A child link is linkable (R303). -/
def linkable (x ch : Nat) (newRoot : Bool) : Bool :=
  decide (ch < ncount x) && (newRoot || ch != rootOf x) && !((List.range (ncount x)).any fun i => (kidsOf (slotOf x i)).contains ch)

/-- The new node becomes ROOT (R303). -/
def makesRoot (x : Nat) (att : Word) : Bool := ncount x == 0 || att.getLsbD 20

/-- The closure with a node put into slot NCOUNT and linked (R303): NCOUNT is raised first, so that PAR may name the new slot itself. -/
def attachNode (x v : Nat) (att : Word) : Nat :=
  let n := ncount x
  let y := setFld (setSlot x n v) 64 4 (n + 1)
  if makesRoot x att then setFld y 68 4 n
  else
    let p := bits att 16 4
    let pv := slotOf y p
    if p ≤ n ∧ p ≠ 15 ∧ kindOfSlot pv = 1 then
      match (List.range 4).find? fun j => fld pv (64 + 4 * j) 4 == 15 with
      | some j => setSlot y p (setFld pv (64 + 4 * j) 4 n)
      | none => y
    else y

/-- A full closure (R298). -/
def fullClosure (x : Nat) : Bool := ncount (buildBase x) == 15

/-- What a build leaves: nothing changes when the closure that results fails R286 (R303). -/
def keepIfBad (x y : Nat) : Nat := if wellFormed y then y else x

/-- The slot image of CLOBE is admitted (R304). -/
def lobeOk (v : Nat) : Bool := decide (3 ≤ kindOfSlot v) && slotOk v

/-- `.CLIP` on a full closure (R298). -/
def clipNode (x v : Nat) : Nat :=
  let cands := (reachable x).filter fun i => decide (3 ≤ kindOfSlot (slotOf x i))
  let sw (i : Nat) : Val := selWeight (slotOf x i) none
  let least (a b : Nat) : Nat := if (sw b).lt (sw a) || (!(sw a).lt (sw b) && decide (b < a)) then b else a
  let y := setFld x 72 1 1
  match cands with
  | [] => y
  | h :: t => let i := t.foldl least h; if (sw i).lt (selWeight v none) then setSlot y i v else y

/-- CLOBE in one lane (R298, R303, R304). -/
def clobeOf (clip : Bool) (x v : Nat) (att : Word) : Nat :=
  let b := buildBase x
  if !lobeOk v then x
  else if clip && ncount b == 15 then keepIfBad x (clipNode b v)
  else keepIfBad x (attachNode b v att)

/-- CMIX in one lane (R304): WR, and WG and WB. -/
def cmixOf (x : Nat) (w0 w1 att : Word) : Nat :=
  let b := buildBase x
  let ch := (List.range 4).foldl (fun (acc : List Nat) j =>
    let c := bits att (4 * j) 4
    acc ++ [if c != 15 && linkable b c (makesRoot b att) && !acc.contains c then c else 15]) []
  let v := 1 + bits w0 16 16 * 2 ^ 16 + w1.toNat * 2 ^ 32 + (rd ch 0 + rd ch 1 * 16 + rd ch 2 * 256 + rd ch 3 * 4096) * 2 ^ 64
  keepIfBad x (attachNode b v att)

/-- The closure that CLAY leaves with a given ATT, none when it leaves the lane unchanged (R303, R304): of vA only KIND is replaced, so
that a nonzero reserved bit fails R286. -/
def clayOf (x : Nat) (w0 w1 att : Word) (ar ag ab : Nat) : Option Nat :=
  let b := buildBase x
  let t := bits att 0 4
  let s := bits att 4 4
  let v := 2 + w0.toNat / 16 * 16 + w1.toNat * 2 ^ 32 + (t + s * 16) * 2 ^ 64 + ar * 2 ^ 80 + ag * 2 ^ 96 + ab * 2 ^ 112
  if t != s && linkable b t (makesRoot b att) && linkable b s (makesRoot b att) then
    let y := attachNode b v att
    if wellFormed y then some y else none
  else none

/-- One component of ATT (R304): 1 - α, at least +0, as F16. -/
def attOf (a : Val) : Nat :=
  let d := subExact .one a
  (roundTo (fmtOf .f16) .rne false false 0 (if d.le0 then .zero else d)).1

/-- The slots below a slot, itself included; none when its links run in a circle. -/
def subtree (x n : Nat) : Option (List Nat) := preorder x 16 n

/-- OctEncode of three words, or the words themselves. -/
def octWords (s : State) (c : Cur) (l r : Nat) : Nat :=
  let v (k : Nat) : Val := f32 (s.rdV c.team c.group l (r + k)).toNat
  octEncode ⟨v 0, v 1, v 2⟩

/-- An instruction that builds: the capacity fault (R298, R302), then its effect lane by lane. -/
def buildAct (c : Cur) (s : State) (f : RForm) (full : Nat → Bool) (k : Nat → Nat → Nat) : Act :=
  let g := s.guarded c f.g
  let bad := maskOf fun l => inMask g l && full (s.rdC c l f.d.toNat)
  if bad != 0 then .fault { cls := 7, mask := bad }
  else lanewise c s f.g fun l => putC f.d.toNat (k l (s.rdC c l f.d.toNat))

/-- CCLR (R304). -/
def execCclr (m : Mods) (f : RForm) (s : State) : Res :=
  issue (.cclr m f) s fun c s => buildAct c s f (fun _ => false) fun _ _ => 15 * 2 ^ 68

/-- CFRM (R304, R305). -/
def execCfrm (m : Mods) (f : RForm) (s : State) : Res :=
  issue (.cfrm m f) s fun c s => buildAct c s f (fun _ => false) fun l x =>
    let half (r : Nat) : Nat := if m.clsBit 0 then (s.rdV c.team c.group l r).toNat else octWords s c l r
    setFld (setFld x 0 32 (half f.a.toNat)) 32 32 (half f.b.toNat)

/-- CLOBE (R298, R303, R304). -/
def execClobe (m : Mods) (f : RForm) (s : State) : Res :=
  issue (.clobe m f) s fun c s => buildAct c s f (fun x => !m.clsBit 0 && fullClosure x) fun l x =>
    clobeOf (m.clsBit 0) x (leNat (bytesOf (s.rdVs c.team c.group l f.a.toNat 4))) (s.rdV c.team c.group l f.b.toNat)

/-- CMIX (R303, R304). -/
def execCmix (m : Mods) (f : RForm) (s : State) : Res :=
  issue (.cmix m f) s fun c s => buildAct c s f fullClosure fun l x =>
    cmixOf x (s.rdV c.team c.group l f.a.toNat) (s.rdV c.team c.group l (f.a.toNat + 1)) (s.rdV c.team c.group l f.b.toNat)

/-- CNET and CNET.UNB (R304). -/
def execCnet (m : Mods) (f : RForm) (s : State) : Res :=
  issue (.cnet m f) s fun c s =>
    if m.clsBit 0 then lanewise c s f.g fun l => putC f.d.toNat (setFld (setFld (s.rdC c l f.d.toNat) 73 1 0) 80 48 0)
    else
      let fs := (lanesOf (s.guarded c f.g)).filterMap fun l =>
        let a := s.pairV c l f.a.toNat
        if a.toNat % 256 != 0 then some (l, 6, a) else if !canonical a then some (l, 4, a) else none
      match firstFault 0 fs with
      | some e => .fault e
      | none => lanewise c s f.g fun l =>
          putC f.d.toNat (setFld (setFld (s.rdC c l f.d.toNat) 73 1 1) 80 48 ((s.pairV c l f.a.toNat).toNat % 2 ^ 56 / 256))

end Building

section TablePath

/-- What a lobe instruction reads through the table path: a line, or a weight block (R299, R300). -/
inductive TableRef where
  | line (va : VAddr)
  | block (va : VAddr)
  deriving DecidableEq, Repr, Inhabited

/-- Address and size of a table. -/
def TableRef.va : TableRef → VAddr | .line a | .block a => a
def TableRef.size : TableRef → Nat | .line _ => 128 | .block _ => 1024

/-- The Fresnel record and the weight block of an index (R285). -/
def fresRef (x i : Nat) : TableRef := .line (tableBase x + BitVec.ofNat 64 (128 * i))
def netRef (x i : Nat) : TableRef := .block (tableBase x + BitVec.ofNat 64 (1024 * i))

/-- The Fresnel records of leaves. -/
def fresRefs (x : Nat) (slots : List Nat) : List TableRef :=
  slots.filterMap fun i => match leafOf (slotOf x i) with
    | .micro _ _ k => if k = 0xFFFF then none else some (fresRef x k)
    | _ => none

/-- The tables that Val reads at local directions (R307). -/
def valueRefs (x : Nat) (o i : V3) : List TableRef :=
  if below o i then []
  else fresRefs x (reachable x) ++ (reachable x).filterMap fun n =>
    if kindOfSlot (slotOf x n) = 8 then some (netRef x (fld (slotOf x n) 64 16)) else none

/-- The tables that Val reads at world directions. -/
def evalRefs (x : Nat) (wo wi : V3) : List TableRef :=
  if readsEmpty x then []
  else match localPair x wo wi with
  | none => []
  | some (o, i) => valueRefs x o i

/-- The direction of three operand words. -/
def dirAt (ws : List Word) (k : Nat) : V3 := readDir (rd ws k) (rd ws (k + 1)) (rd ws (k + 2))
/-- The number of an operand word. -/
def numAt (ws : List Word) (k : Nat) : Val := f32 (rd ws k).toNat

/-- The tables that a query reads, by its operands and its closure (R308): FN 0 CSMP, 1 CEVL, 2 CPDF, 3 CALB. -/
def queryRefs (fn : Nat) (ws : List Word) (x : Nat) : List TableRef :=
  match fn with
  | 0 => (match (sampleWi x (dirAt ws 0) (numAt ws 3) (numAt ws 4) (numAt ws 5)).2 with
    | some wi => evalRefs x (dirAt ws 0) wi
    | none => [])
  | 1 => evalRefs x (dirAt ws 0) (dirAt ws 3)
  | 3 => if readsEmpty x then [] else
      let o := (frameOf x).toLocal (normalise (dirAt ws 0))
      if o.z.le0 then [] else fresRefs x (reachable x)
  | _ => []

/-- What a query writes (R308). -/
def queryWords (tb : Tables) (fn : Nat) (ws : List Word) (x : Nat) : List Word :=
  match fn with
  | 0 =>
    let wo := dirAt ws 0
    let p := sampleWi x wo (numAt ws 3) (numAt ws 4) (numAt ws 5)
    (match p.2 with
    | some wi => let e := evalAt tb x wo wi; wi.words ++ e.1.words ++ [BitVec.ofNat 32 (rne32 e.2)]
    | none => List.replicate 7 0) ++ [BitVec.ofNat 32 p.1]
  | 1 => (evalAt tb x (dirAt ws 0) (dirAt ws 3)).1.words
  | 2 =>
    let p := if readsEmpty x then Val.zero else match localPair x (dirAt ws 0) (dirAt ws 3) with
      | some (o, i) => pdfAt x o i
      | none => .zero
    [BitVec.ofNat 32 (rne32 p)]
  | _ =>
    (if readsEmpty x then V3.zero
     else albedoAt tb x ((frameOf x).toLocal (normalise (dirAt ws 0))) (rootOf x)).words

/-- INFO of a table-path fault (R302). -/
def tableInfo (f : FaultInfo) : FaultInfo := { f with info := if f.cls == 3 || f.cls == 4 || f.cls == 5 then 3 else 0 }

/-- Requests of table reads. -/
def refReqs (rs : List (Nat × TableRef)) : List Req := rs.map fun r => ⟨r.1, r.2.va, r.2.size⟩

/-- The lines of placed tables by virtual address. -/
def refMaps (ps : List Placed) : List (VAddr × Nat) :=
  ps.flatMap fun p => ((List.range p.segs.length).zip p.segs).map fun q => (p.va + BitVec.ofNat 64 (128 * q.1), q.2.1)

/-- The physical lines of a table. -/
def TableRef.lines (r : TableRef) (maps : List (VAddr × Nat)) : List Nat :=
  (List.range (r.size / 128)).map fun i =>
    match maps.find? fun q => q.1 == r.va + BitVec.ofNat 64 (128 * i) with | some q => lineOf q.2 | none => 0

/-- Fill (R84): LC(c) takes the line from CP(x). -/
def State.lcFill (s : State) (c x : Nat) : State :=
  let s1 := s.prepLine x
  s1.modCore c fun k => { k with lc := (x, s1.cpLine x) :: k.lc.filter fun q => q.1 != x }

/-- A copy of a line in LC(c). -/
def State.lc? (s : State) (c x : Nat) : Option (List Byte) := ((s.core c).lc.find? fun q => q.1 == x).map Prod.snd
/-- A copy of a block in WC(c). -/
def State.wc? (s : State) (c v : Nat) (a : VAddr) : Option (List Byte) :=
  ((s.core c).wc.find? fun q => q.1 == v && q.2.1 == a).map fun q => q.2.2

/-- Weight fill (R299): all eight lines in one step; at most 16 copies. -/
def State.wcFill (s : State) (c v : Nat) (a : VAddr) (lines : List Nat) : State :=
  let s1 := lines.foldl State.prepLine s
  s1.modCore c fun k => { k with wc := ((v, a, lines.flatMap s1.cpLine) :: k.wc.filter fun q => !(q.1 == v && q.2.1 == a)).take 16 }

/-- What a table-path read on behalf of a block finds for a line without a Fill: the phase image in place of the commons point (R86, R376),
else the copy in LC(c). -/
def State.lineGives (s : State) (tm c b x : Nat) : Option (List Byte) :=
  match (s.launchOf tm).image? b x with | some im => some im | none => s.lc? c x

/-- A table as a lane reads it, with the block that the lane acts as (R376). -/
abbrev BlockRef := Nat × TableRef

/-- The block as which a lane reads a table. -/
def State.blockRef (s : State) (tm g l : Nat) (r : TableRef) : BlockRef := ((s.lane tm g l).home.1, r)

/-- The lines of a table that come from the commons points: a line in place of which no copy and no phase image stands (R84), and all eight
of a block of which there is no copy, since a weight fill takes them all in one step (R299). -/
def State.refNeeds (s : State) (tm c v : Nat) (maps : List (VAddr × Nat)) (r : BlockRef) : List Nat :=
  match r.2 with
  | .line _ => (r.2.lines maps).filter fun x => ((s.launchOf tm).image? r.1 x).isNone && (s.lc? c x).isNone
  | .block a => if (s.wc? c v a).isSome then [] else r.2.lines maps

/-- Read tables, each once and all at one step (R300): the bytes of each. What LC(c) and WC(c) hold at that step supplies its table; the
rest is filled. A block with a line of which a phase image is read is put together from both (R376). -/
def State.readRefs (s : State) (tm c v : Nat) (maps : List (VAddr × Nat)) (rs : List BlockRef) : State × List (BlockRef × List Byte) :=
  let img (b x : Nat) : Option (List Byte) := (s.launchOf tm).image? b x
  rs.eraseDups.foldl (fun (acc : State × List (BlockRef × List Byte)) r =>
    let ls := r.2.lines maps
    match r.2 with
    | .line _ =>
      let x := ls.headD 0
      let s1 := if (acc.1.lineGives tm c r.1 x).isSome then acc.1 else acc.1.lcFill c x
      (s1, acc.2 ++ [(r, (s1.lineGives tm c r.1 x).getD [])])
    | .block a =>
      let s1 := if (s.wc? c v a).isSome then acc.1 else acc.1.wcFill c v a ls
      let bytes := match s.wc? c v a with | some bs => bs | none => (s1.wc? c v a).getD []
      let parts := ((List.range ls.length).zip ls).flatMap fun p => (img r.1 p.2).getD ((bytes.drop (128 * p.1)).take 128)
      (s1, acc.2 ++ [(r, parts)])) (s, [])

/-- The tables of a closure from what was read for a block. -/
def tablesOf (b x : Nat) (got : List (BlockRef × List Byte)) : Tables :=
  let find (r : TableRef) : List Byte := match got.find? fun q => q.1 == (b, r) with | some q => q.2 | none => []
  { fres := fun i => find (fresRef x i), net := fun i => find (netRef x i) }

/-- CLAY (R303, R304, R308): the albedo of TOP is read at issue. -/
def execClay (m : Mods) (f : RForm) (s : State) : Res :=
  issue (.clay m f) s fun c s =>
    let g := s.guarded c f.g
    let full := maskOf fun l => inMask g l && fullClosure (s.rdC c l f.d.toNat)
    if full != 0 then .fault { cls := 7, mask := full }
    else
      let x (l : Nat) : Nat := s.rdC c l f.d.toNat
      let w (l k : Nat) : Word := s.rdV c.team c.group l (f.a.toNat + k)
      let att (l : Nat) : Word := s.rdV c.team c.group l f.b.toNat
      let live := (lanesOf g).filter fun l => (clayOf (x l) (w l 0) (w l 1) (att l) 0 0 0).isSome
      let top (l : Nat) : Nat := bits (att l) 0 4
      let refs := live.flatMap fun l => (fresRefs (x l) ((subtree (x l) (top l)).getD [])).map fun r => (l, s.blockRef c.team c.group l r)
      match s.placeAll (s.vdevOf c.team) (refReqs (refs.map fun r => (r.1, r.2.2))) .read 1 kindOperand false with
      | .error e => accessFault c (refReqs (refs.map fun r => (r.1, r.2.2))) (tableInfo e)
      | .ok (ps, _) =>
        let v := s.vdevOf c.team
        let maps := refMaps ps
        s.need c [.unowned ((refs.flatMap fun r => s.refNeeds c.team c.core v maps r.2).map LineKey.mem)] [] none <|
          let q := s.readRefs c.team c.core v maps (refs.map Prod.snd)
          let alpha (l : Nat) : V3 := albedoAt (tablesOf (s.lane c.team c.group l).home.1 (x l) q.2) (x l) ⟨.zero, .zero, .one⟩ (top l)
          let half (l k : Nat) (a : Val) : Nat :=
            if (subtree (x l) (top l)).isSome then attOf a else (Config.freeWord (s.tick * 128 + 4 * l + k)).toNat % 65536
          .done (q.1.applyFx c.team c.group (maskOf live.contains) fun l =>
            let a := alpha l
            match clayOf (x l) (w l 0) (w l 1) (att l) (half l 0 a.x) (half l 1 a.y) (half l 2 a.z) with
            | some y => putC f.d.toNat y
            | none => {})

/-- A query (R300, R302, R308): tested and posted at issue; its result lands when the operation completes (R27). -/
def queryAct (fn na nd : Nat) (i : Instr) (f : RForm) (s : State) : Res :=
  issue i s fun c s =>
    let g := s.guarded c f.g
    let ops (l : Nat) : List Word := s.rdVs c.team c.group l f.a.toNat na
    let refs := (lanesOf g).flatMap fun l => (queryRefs fn (ops l) (s.rdC c l f.b.toNat)).map fun r => (l, r)
    match s.placeAll (s.vdevOf c.team) (refReqs refs) .read 1 kindOperand false with
    | .error e => accessFault c (refReqs refs) (tableInfo e)
    | .ok (ps, _) =>
      if g == 0 then .done s
      else
        let (id, s1) := s.fresh
        let fl : Flight :=
          { id := id, batch := id, vis := false, team := c.team, group := c.group, core := c.core, act := g, pc := c.pc, len := c.len
            instr := i, dest := (f.d.toNat, nd), maps := refMaps ps
            args := (lanesOf g).map fun l => (l, ops l ++ (List.range 64).map fun k => rd (rd (s.lane c.team c.group l).c f.b.toNat) k) }
        .done { s1 with flights := s1.flights ++ [fl] }

/-- CSMP, CEVL, CPDF, CALB (R308). -/
def execCsmp (m : Mods) (f : RForm) (s : State) : Res := queryAct 0 6 8 (.csmp m f) f s
def execCevl (m : Mods) (f : RForm) (s : State) : Res := queryAct 1 6 3 (.cevl m f) f s
def execCpdf (m : Mods) (f : RForm) (s : State) : Res := queryAct 2 6 1 (.cpdf m f) f s
def execCalb (m : Mods) (f : RForm) (s : State) : Res := queryAct 3 3 3 (.calb m f) f s

/-- FN and operand count of a posted query. -/
def Flight.fnArgs (q : Flight) : Nat × Nat := match q.instr with | .csmp .. => (0, 6) | .cevl .. => (1, 6) | .cpdf .. => (2, 6) | _ => (3, 3)

/-- Each lane's operands and closure. -/
def Flight.lanes (q : Flight) : List (Nat × List Word × Nat) :=
  q.args.map fun a => (a.1, a.2.take q.fnArgs.2, closureNat (a.2.drop q.fnArgs.2))

/-- The tables that a posted query reads. -/
def State.flightRefs (s : State) (q : Flight) : List BlockRef :=
  q.lanes.flatMap fun a => (queryRefs q.fnArgs.1 a.2.1 a.2.2).map (s.blockRef q.team q.group a.1)

/-- LOBE_OPERATION_COMPLETE (R27, R300): the tables are read, and the results land. -/
def execLobeOperationComplete (id : Nat) (s : State) : Res :=
  match s.flights.find? fun q => q.id == id && !q.vis with
  | none => .next s
  | some q =>
    let v := s.vdevOf q.team
    let refs := s.flightRefs q
    if (refs.flatMap fun r => s.refNeeds q.team q.core v q.maps r).any fun x => s.owned (.mem x) then .next s
    else
      let r := s.readRefs q.team q.core v q.maps refs
      let out (l : Nat) : List Word := match q.lanes.find? fun a => a.1 == l with
        | some a => queryWords (tablesOf (s.lane q.team q.group l).home.1 a.2.2 r.2) q.fnArgs.1 a.2.1 a.2.2
        | none => []
      let s1 := r.1.applyFx q.team q.group q.act fun l => { v := vWrites q.dest.1 (out l) }
      .next { s1 with flights := s1.flights.filter fun z => z.id != id }

/-- CSPL (R309): 16 linked entries, one Enqueue. -/
def execCspl (m : Mods) (f : RForm) (s : State) : Res :=
  issue (.cspl m f) s fun c s =>
    let rs := (s.storing c f.g).map fun l => (⟨l, s.address c m f 256 l, 256⟩ : Req)
    match s.placeAll (s.vdevOf c.team) rs .write 128 kindWrite false with
    | .error e => accessFault c rs e
    | .ok (ps, _) =>
      if ps.isEmpty then .done s
      else s.need c [.sqRoom 16] [] none <|
        let img (l : Nat) : List Byte := leBytes 256 (s.rdC c l f.d.toNat)
        let slots (k : Nat) : List SqSlot := ps.map fun p =>
          { lane := p.lane, addr := p.va + BitVec.ofNat 64 (16 * k), phys := (p.segs.getD (k / 8) (0, 0)).1 + 16 * (k % 8)
            data := ((img p.lane).drop (16 * k)).take 16, home := s.homeOf c.team c.group p.lane }
        .done ((List.range 16).foldl (fun s k => s.enqueue c.team c.group false 16 m .plain .group (k + 1) (slots k)) s)

/-- CFIL (R309). -/
def execCfil (m : Mods) (f : RForm) (s : State) : Res :=
  issue (.cfil m f) s fun c s =>
    let rs := (lanesOf (s.guarded c f.g)).map fun l => (⟨l, s.address c m f 256 l, 256⟩ : Req)
    loadAct c s rs 128 kindRead ((m.x.map XMod.nf).getD false) .plain .group fun s1 _ bytes =>
      lanewise c s1 f.g fun l => { other := fun ln => { ln with c := wr ln.c f.d.toNat (wordsOf 64 (bytes l)) } }

/-- LDT (R84, R310). -/
def execLdt (m : Mods) (f : RForm) (s : State) : Res :=
  issue (.ldt m f) s fun c s =>
    let size := sizeBytes (m.clsField 0 3)
    let rs := (lanesOf (s.guarded c f.g)).map fun l => (⟨l, s.address c m f size l, size⟩ : Req)
    match s.placeAll (s.vdevOf c.team) rs .read size kindOperand ((m.x.map XMod.nf).getD false) with
    | .error e => accessFault c rs (tableInfo e)
    | .ok (ps, _) =>
      let block (l : Nat) : Nat := (s.lane c.team c.group l).home.1
      let need := (linesOf ps).filter fun x =>
        ps.any fun p => (p.segs.any fun q => lineOf q.1 == x) && (s.lineGives c.team c.core (block p.lane) x).isNone
      s.need c [.unowned (need.map LineKey.mem)] [] none <|
        let s1 := need.foldl (fun s x => s.lcFill c.core x) s
        let bytes (l : Nat) : List Byte := match ps.find? fun p => p.lane == l with
          | some p => p.segs.flatMap fun q => (((s1.lineGives c.team c.core (block l) (lineOf q.1)).getD []).drop (q.1 % 128)).take q.2
          | none => List.replicate size 0
        lanewise c s1 f.g fun l => { v := vWrites f.d.toNat (loadedWords size (m.clsBit 3) (bytes l)) }

/-- Propagate every write of a core's view. -/
def State.propagateAll (s : State) (c : Nat) : State :=
  (s.core c).cv.foldl (fun s l => l.pend.foldl (fun s _ => s.propagateLine c l.line) s) s

/-- CFENCE (R84, R299, R311). -/
def execCfence (m : Mods) (f : RForm) (s : State) : Res :=
  issue (.cfence m f) s fun c s => groupUniform c s <|
    let drop (s : State) : State := s.modCore c.core fun k => { k with lc := [], wc := [] }
    if scopeWide (m.scopeD .device) then .done (drop s)
    else
      let lines := ((s.core c.core).cv.filter fun l => !l.pend.isEmpty).map fun l => LineKey.mem l.line
      s.need c [.unowned lines] [] none <| .done (drop (s.propagateAll c.core))

end TablePath

section TableEvents

/-- FILL (R84): any line that is not owned; no access asks for a line that cannot be decoded (R372). -/
def execFill (core line : Nat) (s : State) : Res :=
  .next (if s.owned (.mem line) || s.undecodable line then s else s.lcFill core line)

/-- Drop (R84). -/
def execTableDrop (core line : Nat) (s : State) : Res :=
  .next (s.modCore core fun k => { k with lc := k.lc.filter fun q => q.1 != line })

/-- Weight fill (R299): a block of a context, when all its lines are readable and none is owned. -/
def execWeightFill (core vdev : Nat) (addr : VAddr) (s : State) : Res :=
  let a := addr - BitVec.ofNat 64 (addr.toNat % 128)
  match s.place vdev ⟨0, a, 1024⟩ .read with
  | .error _ => .next s
  | .ok segs =>
    let lines := segs.map fun q => lineOf q.1
    .next (if lines.any fun x => s.owned (.mem x) || s.undecodable x then s else s.wcFill core vdev a lines)

/-- Weight drop (R299). -/
def execWeightDrop (core vdev : Nat) (addr : VAddr) (s : State) : Res :=
  .next (s.modCore core fun k => { k with wc := k.wc.filter fun q => !(q.1 == vdev && q.2.1 == addr) })

end TableEvents

end Sys2Proof.Machine
end

