-- ==== Sys2Proof/Machine/Trace.lean ====
section
/-!
DEFINITION. Traversal: structures in memory, exact box and triangle tests, the closest hit and the candidates, and what a lane's
query becomes (19_visibility_engine R315-R325, R460, R461; 20_visibility_instructions R338-R343). Reads go through the lines that
Trace reads have brought (R335).
-/
namespace Sys2Proof.Machine
open Sys2Proof

section Exact

/-- A bound of a segment. -/
inductive Ext where
  | ninf
  | fin (q : Rat)
  | pinf
  deriving DecidableEq, Inhabited

/-- The order of bounds. -/
def Ext.le : Ext → Ext → Bool
  | .ninf, _ => true
  | _, .pinf => true
  | .fin a, .fin b => decide (a ≤ b)
  | _, _ => false
def Ext.max (a b : Ext) : Ext := if a.le b then b else a
def Ext.min (a b : Ext) : Ext := if a.le b then a else b

/-- The rational of a finite value. -/
def Val.rat? : Val → Option Rat
  | .fin s n d => some (if s then -((n : Rat) / d) else (n : Rat) / d)
  | _ => none
/-- A bound of a value; NaN never reaches it. -/
def Val.ext : Val → Ext
  | .fin s n d => .fin ((Val.fin s n d).rat?.getD 0)
  | .inf true => .ninf
  | _ => .pinf
/-- The value of a rational. -/
def ratVal (q : Rat) : Val := .fin (decide (q < 0)) q.num.natAbs q.den
/-- Rn of a rational as a word (R288). -/
def ratWord (q : Rat) : Word := BitVec.ofNat 32 (rne32 (ratVal q))
/-- An F32 word as a value. -/
def wordVal (w : Word) : Val := f32 w.toNat

/-- Three rationals. -/
structure Q3 where
  x : Rat
  y : Rat
  z : Rat
  deriving DecidableEq, Inhabited

/-- Three finite values. -/
def q3? (a b c : Val) : Option Q3 :=
  match a.rat?, b.rat?, c.rat? with
  | some x, some y, some z => some ⟨x, y, z⟩
  | _, _, _ => none

def Q3.sub (a b : Q3) : Q3 := ⟨a.x - b.x, a.y - b.y, a.z - b.z⟩
def Q3.dot (a b : Q3) : Rat := a.x * b.x + a.y * b.y + a.z * b.z
def Q3.cross (a b : Q3) : Q3 := ⟨a.y * b.z - a.z * b.y, a.z * b.x - a.x * b.z, a.x * b.y - a.y * b.x⟩
def Q3.axes (a : Q3) : List Rat := [a.x, a.y, a.z]

end Exact

section Reads

/-- Why an evaluation cannot give a result: a line that has not been read, or a fault. -/
inductive TStop where
  | need (line : Nat)
  | fault (cls : Nat) (va : VAddr)
  deriving DecidableEq, Inhabited

/-- What a traversal's reads go through; `part` asks for what can be told from the lines read so far. -/
structure TEnv where
  s     : State
  vdev  : Nat
  lines : List (Nat × List Byte)
  part  : Bool := false

/-- Where a part of the answer is asked for, what an unread line or a fault stops is left out of it. -/
def TEnv.sofar {α : Type} (e : TEnv) (out : α) (x : Except TStop α) : Except TStop α :=
  match x with
  | .ok a => .ok a
  | .error y => if e.part then .ok out else .error y

/-- A bound on the length of a path of nodes: the lines that the context maps. -/
def TEnv.fuel (e : TEnv) : Nat :=
  match e.s.vdev? e.vdev with
  | some d => d.cfg.maps.foldl (fun n m => n + 512 * m.units) 2
  | none => 2

/-- Bytes that lie in one line. -/
def TEnv.piece (e : TEnv) (va : VAddr) (n : Nat) : Except TStop (List Byte) :=
  match e.s.translate e.vdev va .read with
  | .error c => .error (.fault c va)
  | .ok pa => match e.lines.find? fun l => l.1 == lineOf pa with
    | none => .error (.need (lineOf pa))
    | some l => match l.2 with
      | [c] => .error (.fault c.toNat va)
      | bs => .ok ((bs.drop (pa % 128)).take n)

/-- n bytes from an address on. -/
def TEnv.get (e : TEnv) (va : VAddr) (n : Nat) : Except TStop (List Byte) :=
  (piecesOf (va.toNat % 128) n).foldlM (fun acc p =>
    match e.piece (va + BitVec.ofNat 64 p.1) p.2 with
    | .ok bs => .ok (acc ++ bs)
    | .error x => .error x) []

end Reads

section Structures

/-- A header (R315). -/
structure Header where
  level  : Nat
  count  : Nat
  root   : VAddr
  table  : VAddr
  resmap : VAddr
  deriving DecidableEq, Inhabited

/-- The header of 128 bytes; none gives a miss (R315, R339, R460). -/
def headerOf (bs : List Byte) : Option Header :=
  let w := leNat bs
  let a (lo : Nat) : VAddr := BitVec.ofNat 64 (fld w lo 64)
  let lev := fld w 0 4
  if (lev != 1 && lev != 2) || fld w 4 28 != 0 || fld w 256 768 != 0 then none
  else if fld w 64 64 % 128 != 0 || fld w 128 64 % (if lev = 1 then 64 else 65536) != 0 ||
      (if lev = 1 then fld w 192 64 != 0 else fld w 192 64 % 8 != 0) then none
  else some { level := lev, count := fld w 32 32, root := a 64, table := a 128, resmap := a 192 }

/-- Read a header; its own address must be aligned (R339, R460). -/
def TEnv.header (e : TEnv) (va : VAddr) : Except TStop (Option Header) :=
  if va.toNat % 128 != 0 then .error (.fault 6 va)
  else match e.get va 128 with
    | .ok bs => .ok (headerOf bs)
    | .error x => .error x

/-- An F32 word at a byte offset. -/
def f32At (bs : List Byte) (o : Nat) : Val := f32 (leNat ((bs.drop o).take 4))

/-- 2^k as a value. -/
def pow2Val (n : Nat) (e : Nat) : Val := (Val.fin false n 1).mul2 ((e : Int) - 127)

/-- The children of a node: the box by axis, and the reference (R316). -/
def nodeKids (bs : List Byte) : List (List (Rat × Ext) × Nat) :=
  let ex (k : Nat) : Nat := (rd bs (12 + k)).toNat
  let org (k : Nat) : Val := f32At bs (4 * k)
  if rd bs 15 != 0 || (List.range 3).any fun k => ex k == 0 || ex k == 255 || (org k).isNan || (org k).isInf then []
  else (List.range 8).filterMap fun j =>
    let q (k : Nat) : Nat := (rd bs (16 + 6 * j + k)).toNat
    if (List.range 3).any fun k => decide (q (3 + k) < q k) then none
    else
      let at' (m : Rnd) (k n : Nat) : Val := f32 (roundTo (fmtOf .w32) m false false 0 (sumExact (m == .rdn) [org k, pow2Val n (ex k)]).1).1
      some ((List.range 3).map fun k => ((at' .rdn k (q k)).rat?.getD 0, (at' .rup k (q (3 + k))).ext),
        leNat ((bs.drop (64 + 8 * j)).take 8))

/-- The first point that a box and a segment have in common (R324). -/
def slab (box : List (Rat × Ext)) (o d : Q3) (t0 t1 : Ext) : Option Ext :=
  ((box.zip (o.axes.zip d.axes)).foldl (fun (acc : Option (Ext × Ext)) p =>
    match acc with
    | none => none
    | some (a, b) =>
      let o := p.2.1
      let d := p.2.2
      if d = 0 then (if p.1.1 ≤ o ∧ (Ext.fin o).le p.1.2 = true then some (a, b) else none)
      else
        let u : Ext := .fin ((p.1.1 - o) / d)
        let v : Ext := match p.1.2 with
          | .fin h => .fin ((h - o) / d)
          | _ => if 0 < d then .pinf else .ninf
        let lo := a.max (if 0 < d then u else v)
        let hi := b.min (if 0 < d then v else u)
        if lo.le hi then some (lo, hi) else none) (some (t0, t1))).map Prod.fst

/-- The leaf references below a node whose path boxes meet [tmin, tmax], each with the least tc for which all are met; `path` holds
the nodes above (R316, R317, R324). -/
def TEnv.walk (e : TEnv) (level : Nat) (o d : Q3) (tmin tmax : Ext) :
    Nat → VAddr → Ext → List VAddr → Except TStop (List (Nat × Ext))
  | 0, _, _, _ => .ok []
  | k + 1, addr, req, path =>
    if path.contains addr then .ok []
    else match e.get addr 128 with
    | .error x => .error x
    | .ok bs =>
      (nodeKids bs).foldlM (fun acc c =>
        let kind := c.2 % 4
        if kind = 0 ∨ fld c.2 2 5 ≠ 0 then .ok acc
        else match slab c.1 o d tmin tmax with
        | none => .ok acc
        | some t =>
          if kind = 1 then
            match e.sofar [] (e.walk level o d tmin tmax k (BitVec.ofNat 64 (c.2 / 128 * 128)) (req.max t) (addr :: path)) with
            | .ok l => .ok (acc ++ l)
            | .error x => .error x
          else if kind = level + 1 then .ok (acc ++ [(c.2, req.max t)])
          else .ok acc) []

/-- A page of a pool is resident (R319). -/
def TEnv.resident (e : TEnv) (resmap : VAddr) (page : Nat) : Except TStop Bool :=
  match e.get (resmap + BitVec.ofNat 64 (page / 8)) 1 with
  | .ok bs => .ok ((bs.headD 0).getLsbD (page % 8))
  | .error x => .error x

/-- A cluster as decoded (R319). -/
structure Cluster where
  verts : List (List Val)
  tris  : List (List Nat)
  mask  : Nat
  deriving DecidableEq, Inhabited

/-- The vertices of a triangle; none when an index is at or above NV, or when there is no such triangle. -/
def Cluster.tri? (c : Cluster) (t : Nat) : Option (List (List Val)) :=
  match c.tris[t]? with
  | none => none
  | some ix => ix.foldl (fun acc i => match acc, c.verts[i]? with | some l, some v => some (l ++ [v]) | _, _ => none) (some [])

/-- A vertex as three rationals. -/
def vert3? (v : List Val) : Option Q3 := match v with | [a, b, c] => q3? a b c | _ => none

/-- Read a cluster; none when it is missed (R319). -/
def TEnv.cluster (e : TEnv) (pool : VAddr) (page cidx : Nat) : Except TStop (Option Cluster) := do
  let base := pool + BitVec.ofNat 64 (65536 * page)
  let ncl := leNat (← e.get base 4)
  if 256 ≤ ncl ∨ ncl ≤ cidx then return none
  let w := leNat (← e.get (base + BitVec.ofNat 64 (4 + 4 * cidx)) 4)
  let off := 16 * fld w 0 12
  let nt := fld w 12 7 + 1
  let nv := fld w 19 8 + 1
  if fld w 27 5 ≠ 0 ∨ 65536 < off + 32 + 6 * nv + 3 * nt then return none
  let at' (o : Nat) : VAddr := base + BitVec.ofNat 64 (off + o)
  let h ← e.get (at' 0) 32
  let ex (k : Nat) : Nat := (rd h (12 + k)).toNat
  if rd h 15 ≠ 0 ∨ (List.range 3).any (fun k => ex k == 0 || ex k == 255) then return none
  let vs ← e.get (at' 32) (6 * nv)
  let ts ← e.get (at' (32 + 6 * nv)) (3 * nt)
  let coord (i k : Nat) : Val := r32 (sumExact false [f32At h (4 * k), pow2Val (leNat ((vs.drop (6 * i + 2 * k)).take 2)) (ex k)]).1
  return some
    { verts := (List.range nv).map fun i => (List.range 3).map (coord i)
      tris := (List.range nt).map fun t => (List.range 3).map fun k => (rd ts (3 * t + k)).toNat
      mask := leNat (h.drop 16) }

end Structures

section Rays

/-- A ray in one space: its words and, where every component is finite, its values. -/
structure Ray where
  ow : List Word
  dw : List Word
  o  : Q3
  d  : Q3
  deriving DecidableEq, Inhabited

/-- A query's flags: `.OPQ`, `.CULLB`. -/
def Query.opq (q : Query) : Bool := q.cls.getLsbD 1
def Query.cullb (q : Query) : Bool := q.cls.getLsbD 2

/-- The ray of a query; none when it misses without a read (R339). -/
def Query.world (q : Query) : Option (Ray × Ext × Ext) :=
  let v (k : Nat) : Val := wordVal (rd q.ray k)
  match q3? (v 0) (v 1) (v 2), q3? (v 4) (v 5) (v 6) with
  | some o, some d =>
    if (v 3).isNan || (v 7).isNan || !((v 3).ext.le (v 7).ext) then none
    else some (⟨q.ray.take 3, (q.ray.drop 4).take 3, o, d⟩, (v 3).ext, (v 7).ext)
  | _, _ => none

/-- The triangle test (R321): t, b1, b2 and FRONT. -/
def triHit (r : Ray) (cull : Bool) (tmin tmax : Ext) (p0 p1 p2 : Q3) : Option (Rat × Rat × Rat × Bool) :=
  let e1 := p1.sub p0
  let e2 := p2.sub p0
  let s := r.o.sub p0
  let n := e1.cross e2
  let det := -(r.d.dot n)
  if det = 0 ∨ (cull ∧ det < 0) then none
  else
    let t := s.dot n / det
    let b1 := -(r.d.dot (s.cross e2)) / det
    let b2 := -(r.d.dot (e1.cross s)) / det
    if 0 ≤ b1 ∧ 0 ≤ b2 ∧ b1 + b2 ≤ 1 ∧ tmin.le (.fin t) ∧ (Ext.fin t).le tmax then some (t, b1, b2, decide (0 < det)) else none

/-- A hit: its key, what it reports, and what HITGET answers about it. -/
structure Hit where
  t     : Rat
  id    : HitId
  words : List Word
  opq   : Bool
  deriving DecidableEq, Inhabited

/-- The order of keys (R322). -/
def keyLt (a b : Rat × HitId) : Bool :=
  if a.1 ≠ b.1 then decide (a.1 < b.1)
  else if a.2.inst ≠ b.2.inst then a.2.inst.ult b.2.inst
  else if a.2.page ≠ b.2.page then decide (a.2.page < b.2.page)
  else if a.2.cidx ≠ b.2.cidx then decide (a.2.cidx < b.2.cidx)
  else decide (a.2.tri < b.2.tri)
def Hit.key (h : Hit) : Rat × HitId := (h.t, h.id)
/-- The hit of least key. -/
def bestHit (hs : List Hit) : Option Hit :=
  match hs with
  | [] => none
  | h :: t => some (t.foldl (fun a b => if keyLt b.key a.key then b else a) h)

/-- An instance as traversal enters it: number, opacity flags, USERID, and the structure it names (R318). -/
structure Inst where
  index : Word
  fopq  : Bool
  fnop  : Bool
  user  : Word
  hdr   : VAddr
  head  : Header
  ray   : Ray
  deriving DecidableEq, Inhabited

/-- The 17 words that a query keeps of a hit: the six of R338 with PARTIAL and CAND clear, USERID, o′, d′, and the pool and
residency bitmap. -/
def hitWords (i : Inst) (t b1 b2 : Rat) (front opq : Bool) (id : HitId) : List Word :=
  [ratWord t, ratWord b1, ratWord b2, id.inst, BitVec.ofNat 32 id.page,
    BitVec.ofNat 32 (id.cidx + id.tri * 2 ^ 8 + 2 ^ 16 + (if front then 2 ^ 17 else 0) + (if opq then 2 ^ 19 else 0))] ++
  [i.user] ++ i.ray.ow ++ i.ray.dw ++
  [i.head.table.extractLsb' 0 32, i.head.table.extractLsb' 32 32, i.head.resmap.extractLsb' 0 32, i.head.resmap.extractLsb' 32 32]

/-- An offer that a traversal makes (R325): a key, and the key of the reference's own page, which comes before its proxy's. -/
structure Offer where
  key   : VAddr × Nat
  after : Option (VAddr × Nat) := none
  deriving DecidableEq, Repr, Inhabited

/-- What a traversal has found: the admitted hits, the non-resident references, and the keys to be offered, the latter two with
the least tc that reaches them (R322, R325); and the hits that a saved query keeps, met again by their identity (R429). -/
structure Found where
  hits   : List Hit := []
  nonres : List Ext := []
  offers : List (Ext × Offer) := []
  saved  : List Hit := []
  deriving DecidableEq, Inhabited

/-- The results of two parts. -/
def Found.join (a b : Found) : Found :=
  { hits := a.hits ++ b.hits, nonres := a.nonres ++ b.nonres, offers := a.offers ++ b.offers }

/-- The admitted hits in a cluster (R321, R322). -/
def TEnv.clusterHits (e : TEnv) (q : Query) (i : Inst) (tmin tmax req : Ext) (page cidx : Nat) : Except TStop (List Hit) := do
  match ← e.cluster i.head.table page cidx with
  | none => return []
  | some c => return (List.range c.tris.length).filterMap fun t =>
    match (c.tri? t).map fun vs => vs.map vert3? with
    | some [some p0, some p1, some p2] =>
      match triHit i.ray q.cullb tmin tmax p0 p1 p2 with
      | some (tt, b1, b2, front) =>
        if req.le (.fin tt) then
          let opq := q.opq || i.fopq || (!i.fnop && c.mask.testBit t)
          let id : HitId := { inst := i.index, page := page, cidx := cidx, tri := t }
          some { t := tt, id := id, opq := opq, words := hitWords i tt b1 b2 front opq id }
        else none
      | none => none
    | _ => none

/-- One cluster reference (R317, R325). -/
def TEnv.clusterRef (e : TEnv) (q : Query) (i : Inst) (tmin tmax : Ext) (ref : Nat) (req : Ext) : Except TStop Found := do
  let page := fld ref 8 20
  let pp := fld ref 36 20
  if fld ref 7 1 ≠ 0 ∨ i.head.count ≤ page then return {}
  if ← e.resident i.head.resmap page then return { hits := ← e.clusterHits q i tmin tmax req page (fld ref 28 8) }
  let own : VAddr × Nat := (i.hdr, page)
  let miss : Found := { nonres := [req], offers := [(req, { key := own })] }
  if pp = 0xFFFFF ∨ i.head.count ≤ pp then return miss
  if ← e.sofar true (e.resident i.head.resmap pp) then
    return { miss with hits := ← e.sofar [] (e.clusterHits q i tmin tmax req pp (fld ref 56 8)) }
  return { miss with offers := miss.offers ++ [(req, { key := (i.hdr, pp), after := some own })] }

/-- A level-2 structure (R317-R325). -/
def TEnv.level2 (e : TEnv) (q : Query) (i : Inst) (tmin tmax req : Ext) : Except TStop Found := do
  let refs ← e.walk 2 i.ray.o i.ray.d tmin tmax e.fuel i.head.root req []
  refs.foldlM (fun acc r => do return acc.join (← e.sofar {} (e.clusterRef q i tmin tmax r.1 r.2))) {}

/-- The ray in an instance's space (R320): the words, and none when a component is not finite. -/
def objectRay (w2o : List Val) (q : Query) : List Word × List Word × Option Ray :=
  let v (k : Nat) : Val := wordVal (rd q.ray k)
  let w (k : Nat) : Val := rd w2o k
  let row (r b : Nat) (more : List (Val × Bool)) : Val :=
    sum32 ([(w (4 * r)).mul (v b), (w (4 * r + 1)).mul (v (b + 1)), (w (4 * r + 2)).mul (v (b + 2))] ++ more)
  let o := (List.range 3).map fun r => row r 0 [(w (4 * r + 3), false)]
  let d := (List.range 3).map fun r => row r 4 []
  let words (l : List Val) : List Word := l.map fun x => BitVec.ofNat 32 (rne32 x)
  (words o, words d, match q3? (rd o 0) (rd o 1) (rd o 2), q3? (rd d 0) (rd d 1) (rd d 2) with
    | some a, some b => some ⟨words o, words d, a, b⟩
    | _, _ => none)

/-- An instance record whose reserved bits and BLAS address are in order: the record, and the address (R318, R461). -/
def TEnv.instBytes (e : TEnv) (h : Header) (index : Nat) : Except TStop (Option (List Byte × VAddr)) := do
  if h.count ≤ index then return none
  let b ← e.get (h.table + BitVec.ofNat 64 (64 * index)) 64
  let w := leNat b
  let blas : VAddr := BitVec.ofNat 64 (fld w 384 64)
  if fld w 458 22 ≠ 0 ∨ blas.toNat % 128 ≠ 0 then return none
  return some (b, blas)

/-- The structure that an instance names (R318, R461). -/
def TEnv.blas (e : TEnv) (a : VAddr) : Except TStop (Option Header) := do
  match ← e.header a with
  | some bh => if bh.level = 2 then return some bh else return none
  | none => return none

/-- The matrix of an instance record. -/
def w2oOf (b : List Byte) : List Val := (List.range 12).map fun k => f32At b (4 * k)

/-- An instance with its structure and the ray in its space; none for one that is skipped (R318, R320, R461). -/
def TEnv.instAt (e : TEnv) (q : Query) (h : Header) (index : Nat) : Except TStop (Option Inst) := do
  match ← e.instBytes h index with
  | none => return none
  | some (b, blas) =>
    match (objectRay (w2oOf b) q).2.2 with
    | none => return none
    | some r =>
      let some bh ← e.blas blas | return none
      let w := leNat b
      return some { index := BitVec.ofNat 32 index, fopq := w.testBit 456, fnop := w.testBit 457
                    user := BitVec.ofNat 32 (fld w 480 32), hdr := blas, head := bh, ray := r }

/-- A level-2 structure that a query names itself, as the one instance of its world. -/
def topInst (q : Query) (h : Header) (r : Ray) : Inst :=
  { index := 0xFFFFFFFF, fopq := false, fnop := false, user := 0, hdr := q.hdr, head := h, ray := r }

/-- One instance reference (R317, R318, R320). The mask and the ray in object space are tested before the BLAS is read: nothing below an
instance that is skipped is read. -/
def TEnv.instRef (e : TEnv) (q : Query) (h : Header) (tmin tmax : Ext) (ref : Nat) (req : Ext) : Except TStop Found := do
  let index := fld ref 8 24
  if fld ref 7 1 ≠ 0 ∨ fld ref 32 32 ≠ 0 ∨ h.count ≤ index then return {}
  let b ← e.get (h.table + BitVec.ofNat 64 (64 * index)) 64
  if fld (leNat b) 448 8 &&& q.mask.toNat = 0 then return {}
  match ← e.instAt q h index with
  | none => return {}
  | some i => e.level2 q i tmin tmax req

/-- Traverse a query's structure (R320-R325, R339). A helper lane traverses nothing (R110). -/
def TEnv.found (e : TEnv) (q : Query) (helper : Bool) : Except TStop Found := do
  if helper then return {}
  match q.world with
  | none => return {}
  | some (r, tmin, tmax) =>
    match ← e.header q.hdr with
    | none => return {}
    | some h =>
      if h.level = 2 then
        e.level2 q (topInst q h r) tmin tmax tmin
      else
        let refs ← e.walk 1 r.o r.d tmin tmax e.fuel h.root tmin []
        refs.foldlM (fun acc x => do return acc.join (← e.sofar {} (e.instRef q h tmin tmax x.1 x.2))) {}

/-- The hit of an identity, computed again from it and the ray (R321, R429); none when the structure does not hold it any more. -/
def TEnv.hitOf (e : TEnv) (q : Query) (id : HitId) : Except TStop (Option Hit) := do
  match q.world with
  | none => return none
  | some (r, tmin, tmax) =>
    match ← e.header q.hdr with
    | none => return none
    | some h =>
      match ← (if h.level = 2 then pure (some (topInst q h r)) else e.instAt q h id.inst.toNat) with
      | none => return none
      | some i =>
        if i.head.count ≤ id.page then return none
        if !(← e.resident i.head.resmap id.page) then return none
        return (← e.clusterHits q i tmin tmax tmin id.page id.cidx).find? fun x => x.id == id

/-- What TSTEP finds: the traversal, and the hits whose exact t a save has dropped (R340, R429). -/
def TEnv.foundAgain (e : TEnv) (q : Query) (helper : Bool) : Except TStop Found := do
  let f ← e.found q helper
  if helper then return f
  let acc ← if q.acc && q.accT.isNone then e.hitOf q q.accId else pure none
  let last ← if q.last && q.lastT.isNone then e.hitOf q q.lastId else pure none
  return { f with saved := acc.toList ++ last.toList }

end Rays

section Answers

/-- The six words of a miss (R338). -/
def missWords (partial' : Bool) : List Word := [0x7F800000, 0, 0, 0xFFFFFFFF, 0, if partial' then 0x40000 else 0]

/-- The six words of a hit from what the query keeps (R338). -/
def reportWords (ws : List Word) (partial' cand : Bool) : List Word :=
  ws.take 5 ++ [rd ws 5 ||| (if partial' then 0x40000 else 0) ||| (if cand then 0x100000 else 0)]

/-- tc: the t of the final closest hit, or tmax (R324). -/
def tcOf (q : Query) (t : Option Rat) : Ext :=
  match t, q.world with
  | some t, _ => .fin t
  | none, some w => w.2.2
  | none, none => .pinf

/-- A rational as State holds it. -/
def ratPair (q : Rat) : Int × Nat := (q.num, q.den)
def pairRat (p : Int × Nat) : Rat := (p.1 : Rat) / p.2

/-- What a traversal step answers: the words, the query after it, and the keys to offer: those it must, and those it may (R325). -/
structure Step where
  words  : List Word
  query  : Query
  must   : List Offer := []
  may    : List Offer := []
  deriving DecidableEq, Inhabited

/-- The offers by tc (R325). -/
def splitOffers (f : Found) (tc : Ext) : List Offer × List Offer :=
  ((f.offers.filter fun o => o.1.le tc).map Prod.snd, (f.offers.filter fun o => !o.1.le tc).map Prod.snd)

/-- A query that is closed with a committed hit. -/
def Query.close (q : Query) (h : Option (Rat × HitId × List Word)) : Query :=
  match h with
  | some x => { q with isOpen := false, pend := false, ended := false, acc := true, accId := x.2.1, accT := some (ratPair x.1), accW := x.2.2 }
  | none => { q with isOpen := false, pend := false, ended := false, acc := false, accW := [] }

/-- Close a query and report its closest hit (R322, R338, R341). -/
def closeStep (q : Query) (f : Found) (h : Option (Rat × HitId × List Word)) : Step :=
  let tc := tcOf q (h.map Prod.fst)
  let part := f.nonres.any fun r => r.le tc
  let o := splitOffers f tc
  { words := match h with | some x => reportWords x.2.2 part false | none => missWords part
    query := q.close h, must := o.1, may := o.2 }

def Hit.full (h : Hit) : Rat × HitId × List Word := (h.t, h.id, h.words)

/-- TRACE without stepping (R323, R339). -/
def traceStep (q : Query) (f : Found) : Step := closeStep q f ((bestHit f.hits).map Hit.full)

/-- A saved key is recomputed from its identity (R429); one that the structure no longer holds is free. -/
def keyT (f : Found) (id : HitId) (t : Option (Int × Nat)) (free : Nat → Word) : Rat :=
  match t, f.saved.find? fun h => h.id == id with
  | some p, _ => pairRat p
  | none, some h => h.t
  | none, none => ((free 0).toInt : Rat) / ((free 1).toNat + 1)

/-- The words of the accepted hit; those that a save has dropped are computed again, or free. -/
def accWords (q : Query) (f : Found) (free : Nat → Word) : List Word :=
  if !q.accW.isEmpty then q.accW
  else match f.saved.find? fun h => h.id == q.accId with
    | some h => h.words
    | none => (List.range 17).map fun k => free (2 + k)

/-- The query has something left to report (R341, R342). -/
def Query.stepping (q : Query) : Bool := q.isOpen || q.ended

/-- TSTEP (R323, R341, R342). -/
def tstepStep (q0 : Query) (f : Found) (free : Nat → Word) : Step :=
  if !q0.stepping then { words := missWords false, query := q0 }
  else
    let q := { q0 with pend := false, pendW := [] }
    let acc : Option (Rat × HitId × List Word) :=
      if q.acc then some (keyT f q.accId q.accT free, q.accId, accWords q f free) else none
    let opq := (f.hits.filter Hit.opq).map Hit.full
    let least : Option (Rat × HitId × List Word) := (opq ++ acc.toList).foldl (fun a b => match a with
      | none => some b
      | some a => if keyLt (b.1, b.2.1) (a.1, a.2.1) then some b else some a) none
    let above (h : Hit) : Bool := !q.last || keyLt (keyT f q.lastId q.lastT free, q.lastId) h.key
    let below (h : Hit) : Bool := match least with | some l => keyLt h.key (l.1, l.2.1) | none => true
    match if q.ended then none else bestHit (f.hits.filter fun h => !h.opq && above h && below h) with
    | some h =>
      let o := splitOffers f (.fin h.t)
      { words := reportWords h.words false true, must := o.1, may := o.2
        query := { q with pend := true, pendId := h.id, pendT := some (ratPair h.t), pendW := h.words
                          last := true, lastId := h.id, lastT := some (ratPair h.t) } }
    | none => closeStep q f least

/-- Registers of a HITGET selector (R343). -/
def hitgetCount (sel : Nat) : Nat := match sel with | 0 => 1 | 3 => 9 | _ => 3

/-- The hit that HITGET asks about: its identity and what the query keeps of it (R343). Without .CAND there is none before the query's
result has been reported (DEDUCED, log entry 149). -/
def Query.asked (q : Query) (cand : Bool) : Option (HitId × List Word) :=
  if cand then (if q.isOpen && q.pend then some (q.pendId, q.pendW) else none)
  else if !q.stepping && q.acc then some (q.accId, q.accW) else none

/-- The eleven words of a hit that a save has dropped, met again: USERID, o′, d′, pool and bitmap; none when the structure no longer
holds the instance. -/
def TEnv.locate (e : TEnv) (q : Query) (id : HitId) : Except TStop (Option (List Word)) := do
  match ← e.header q.hdr with
  | none => return none
  | some h =>
    let tail (h : Header) : List Word :=
      [h.table.extractLsb' 0 32, h.table.extractLsb' 32 32, h.resmap.extractLsb' 0 32, h.resmap.extractLsb' 32 32]
    if h.level = 2 then return some ([0] ++ q.ray.take 3 ++ (q.ray.drop 4).take 3 ++ tail h)
    match ← e.instBytes h id.inst.toNat with
    | none => return none
    | some (b, blas) =>
      let some bh ← e.blas blas | return none
      let r := objectRay (w2oOf b) q
      return some ([BitVec.ofNat 32 (fld (leNat b) 480 32)] ++ r.1 ++ r.2.1 ++ tail bh)

/-- HITGET's words (R343). -/
def TEnv.hitget (e : TEnv) (q : Query) (sel : Nat) (cand : Bool) (free : Nat → Word) : Except TStop (List Word) := do
  let n := hitgetCount sel
  let open' : List Word := (List.range n).map free
  match q.asked cand with
  | none => return List.replicate n 0
  | some (id, ws) =>
    let at' ← if ws.isEmpty then e.locate q id else pure (some (ws.drop 6))
    match at' with
    | none => return open'
    | some a =>
      if sel = 0 then return [rd a 0]
      if sel = 1 then return (a.drop 1).take 3
      if sel = 2 then return (a.drop 4).take 3
      if !(← e.resident (pair (rd a 9) (rd a 10)) id.page) then return List.replicate n 0
      match (← e.cluster (pair (rd a 7) (rd a 8)) id.page id.cidx).bind fun c => c.tri? id.tri with
      | none => return open'
      | some vs =>
        if sel = 3 then return vs.flatten.map fun v => BitVec.ofNat 32 (rne32 v)
        match vs.map vert3? with
        | [some p0, some p1, some p2] => return ((p1.sub p0).cross (p2.sub p0)).axes.map ratWord
        | _ => return open'

end Answers

end Sys2Proof.Machine
end

