-- ==== Sys2Proof/Machine/Visibility.lean ====
section
/-!
DEFINITION. The visibility instructions, major 0x21: traversals in flight and how they land, residency feedback, rasterisation
and quad differences (19_visibility_engine R325-R335, R458; 20_visibility_instructions R336-R347).
-/
namespace Sys2Proof.Machine
open Sys2Proof

/-- The lane of a traversal. -/
def Flight.lane (f : Flight) : Nat := match f.args with | a :: _ => a.1 | [] => 0

section Feedback

/-- The words of the ring control block (R327). -/
def ringAt (bs : List Byte) (o n : Nat) : Nat := leNat ((bs.drop o).take n)

/-- The place of the control block of a team's launch, when it can be read and written in the context (R327, R458). -/
def State.ring? (s : State) (tm : Nat) : Option Nat :=
  let va := (s.launchOf tm).lrec.ring
  if va == 0 then none
  else match s.translate (s.vdevOf tm) va .rmw with
  | .ok pa => if (s.lineFault (.mem (lineOf pa))).isSome then none else some pa
  | .error _ => none

/-- Write bytes at CP and in the core's own copy, as an atomic does (R76, R335), in every launch: the write sets no brand (DEDUCED, log
entry 146). -/
def State.ringWrite (s : State) (core pa : Nat) (bs : List Byte) : State :=
  let cells := cellsAt pa bs
  let x := lineOf pa
  (s.cpWrite x cells).modCore core fun k =>
    let y := k.line x
    k.setLine { y with copy := y.copy.map fun b => overlay x b cells }

/-- A reservation for a traversal (R327): one step at the control line; answers whether a slot was taken. -/
def State.reserve (s : State) (f : Flight) (pa : Nat) (key : VAddr × Nat) : State × Bool :=
  let s1 := s.prepLine (lineOf pa)
  let b := Memory.read s1.mem pa 24
  let size := ringAt b 8 4
  let wr := ringAt b 12 4
  let bad := !((List.range 21).any fun k => size == 16 * 2 ^ k) || ringAt b 0 8 % 16 != 0
  if bad || decide (size ≤ (wr + 2 ^ 32 - ringAt b 16 4) % 2 ^ 32) then
    (s1.ringWrite f.core (pa + 20) (leBytes 4 (ringAt b 20 4 + 1)), false)
  else
    let (id, s2) := (s1.ringWrite f.core (pa + 12) (leBytes 4 (wr + 1))).fresh
    let w : Feedback :=
      { slot := id, vdev := s.vdevOf f.team, team := f.team, group := f.group, core := f.core, flight := f.id
        home := s.homeOf f.team f.group f.lane, addr := (ringAt b 0 8 + 16 * (wr % size)) % 2 ^ 64
        data := leBytes 8 (1 + key.1.toNat / 128 * 128) ++ leBytes 8 key.2 }
    ({ s2 with feedback := s2.feedback ++ [w] }, true)

/-- An offer of a traversal (R326, R430, R458): one step at the commons; the filter is the launch's. -/
def State.offer (s : State) (f : Flight) (key : VAddr × Nat) : State :=
  match s.ring? f.team with
  | none => match s.translate (s.vdevOf f.team) (s.launchOf f.team).lrec.ring .rmw with
    | .ok pa => if (s.launchOf f.team).lrec.ring == 0 then s else s.prepKey (.mem (lineOf pa))
    | .error _ => s
  | some pa =>
    let l := s.launchOf f.team
    let k := (key.1.toNat, key.2)
    if l.filter.contains k then s
    else
      let r := s.reserve f pa key
      if r.2 && decide (l.filter.length < 4096) then r.1.modLaunch l.key fun l => { l with filter := l.filter ++ [k] } else r.1

/-- Some key would be offered to the ring. -/
def State.offering (s : State) (tm : Nat) (keys : List (VAddr × Nat)) : Bool :=
  keys.any fun k => !(s.launchOf tm).filter.contains (k.1.toNat, k.2)

/-- A reservation may be made at the control line, as an atomic of the group may (R76, R335). -/
def State.ringFree (s : State) (tm g core : Nat) : Bool :=
  match s.ring? tm with
  | some pa => (s.group tm g).sq.isEmpty && !s.owned (.mem (lineOf pa)) && ((s.core core).line (lineOf pa)).pend.isEmpty
  | none => true

/-- FEEDBACK_WRITE (R335, R458): the entry enters the view of the core that traced; one that cannot be translated and written is
lost. -/
def execFeedbackWrite (slot : Nat) (s : State) : Res :=
  match s.feedback.find? fun f => f.slot == slot with
  | none => .next s
  | some f =>
    let s1 := { s with feedback := s.feedback.filter fun q => q.slot != slot }
    match s.translate f.vdev (BitVec.ofNat 64 f.addr) .write with
    | .error _ => .next s1
    | .ok pa =>
      if (s.lineFault (.mem (lineOf pa))).isSome then .next (s1.prepKey (.mem (lineOf pa)))
      else .next ((s1.dropExec (pa / 65536)).viewWrite f.core
        { id := slot, team := f.team, group := f.group, home := f.home, cells := cellsAt pa f.data, vis := some f.flight })

end Feedback

section Landing

/-- The traversals of one instruction. -/
def State.batch (s : State) (b : Nat) : List Flight := s.flights.filter fun f => f.vis && f.batch == b

/-- What a landed instruction writes in a lane. -/
def landFx (fs : List Flight) (l : Nat) : Fx :=
  match fs.find? fun f => f.lane == l with
  | some f => (match f.landing with
    | some r => { v := vWrites f.dest.1 r.words, other := fun ln => { ln with query := r.query } }
    | none => {})
  | none => {}

/-- The lanes of a batch. -/
def flightMask (fs : List Flight) : BitVec 32 := maskOf fun l => fs.any fun f => f.lane == l

/-- The reads of twin registers take place when the instruction leaves its issue point (R104). -/
def State.takeTwins (s : State) (tm g : Nat) (m : BitVec 32) (i : Instr) : State :=
  s.modTeam tm fun t =>
    t.twinTake g (t.twinReads g m (i.vUse 0).1)

/-- Take the result, or the fault, of an instruction all of whose traversals have landed (R328, R339); a fault waits while a trap
holds its lanes. Its run has ended when its rays went out, and the next goes on in its count unless it ends the run (R105, R106). Lanes that have been ended meanwhile take nothing. -/
def State.landBatch (s : State) (b : Nat) : State :=
  let fs := s.batch b
  match fs with
  | [] => s
  | f :: _ =>
    if fs.any fun q => q.landing.isNone then s
    else
      let lane (l : Nat) : Lane := s.lane f.team f.group l
      let c : Cur := { core := f.core, slot := 4, team := f.team, group := f.group, act := f.act, pc := f.pc, len := f.len, rep := 0 }
      let gone : State := { s with flights := s.flights.filter fun q => !(q.vis && q.batch == b) }
      let freed := gone.mapLanes f.team f.group f.act fun _ l => { l with flying := false }
      let pos (n : Nat) (s : State) : State := s.modGroup f.team f.group fun g => { g with runPos := n }
      if (lanesOf f.act).any fun l => !(lane l).flying then gone
      else match firstFault kindOperand (fs.filterMap fun q => match q.landing with
          | some r => r.fault.map fun e => (q.lane, e.1, e.2)
          | none => none) with
      | some e =>
        if (lanesOf f.act).any fun l => (lane l).trapHeld then s
        else
          let info := if e.cls == 3 || e.cls == 4 || e.cls == 5 then 4 else 0
          let s1 := freed.takeFault c f.instr.code { e with info := info }
          { (if s1.leftHandler c then s1 else pos 0 s1) with cur := none }
      | none =>
        let s1 := (freed.takeTwins f.team f.group (flightMask fs) f.instr).applyFx f.team f.group (flightMask fs) (landFx fs)
        let s2 := s1.arrive c fun _ l => l.goto c.next
        let waited := (lanesOf f.act).any fun l => (lane l).twinWait
        if s2.runOver f.instr { c with twinWaited := waited } then pos 0 s2 else s2

/-- Post the traversals of an instruction; when every one has landed already it has its effect at once. `s0` is the state before
twin reads are taken. -/
def postFlights (c : Cur) (s0 s : State) (i : Instr) (fs : List Flight) : Act :=
  if fs.all fun f => f.landing.isSome then .done (s.applyFx c.team c.group (flightMask fs) (landFx fs))
  else
    let b := s0.nextId
    let each (acc : State) (f : Flight) : State :=
      let (id, s1) := acc.fresh
      { s1 with flights := s1.flights ++ [{ f with id := id, batch := b, instr := i }] }
    .hold (fs.foldl each s0)

/-- A traversal that is to be posted for a lane. -/
def newFlight (c : Cur) (i : Instr) (l : Nat) (helper : Bool) (q : Query) (dest : Nat × Nat) (landing : Option Landing) : Flight :=
  { id := 0, batch := 0, vis := true, team := c.team, group := c.group, core := c.core, act := c.act, pc := c.pc, len := c.len
    instr := i, args := [(l, [if helper then 1 else 0])], dest := dest, query := q, landing := landing }

/-- The evaluation of a traversal over the lines it has read. -/
def State.flightStep (s : State) (f : Flight) : Except TStop Step :=
  let e : TEnv := { s := s, vdev := s.vdevOf f.team, lines := f.lines }
  let helper := match f.args with | (_, w :: _) :: _ => w != 0 | _ => false
  let free (k : Nat) : Word := Config.freeWord (s.tick * 64 + k)
  match f.instr with
  | .hitget m _ => (e.hitget f.query (m.clsField 0 3) (m.clsBit 3) free).map fun w => { words := w, query := f.query }
  | .tstep _ _ => (e.foundAgain f.query helper).map fun r => tstepStep f.query r free
  | _ => (e.found f.query helper).map fun r => traceStep f.query r

/-- The offers that a traversal may make by what it has read so far: those of the non-resident references whose path boxes meet [tmin, tmax]
(R325, R335). -/
def State.reached (s : State) (f : Flight) : List Offer :=
  let e : TEnv := { s := s, vdev := s.vdevOf f.team, lines := f.lines, part := true }
  let helper := match f.args with | (_, w :: _) :: _ => w != 0 | _ => false
  match f.instr, e.found f.query helper with
  | .hitget _ _, _ | _, .error _ => []
  | _, .ok r => (r.offers.map fun o => o.2).eraseDups

/-- The keys that a traversal may offer next (R325): at its end those it must, and by a free choice those it may; before that, by a free
choice, those it has reached (log entry 69). A proxy's page comes after the page of its reference. Without a ring there are none (R327). -/
def State.toOffer (s : State) (f : Flight) : List (VAddr × Nat) :=
  if (s.launchOf f.team).lrec.ring == 0 then []
  else
    let some' (ks : List Offer) : List Offer :=
      ((List.range ks.length).zip ks).filterMap fun k => if s.flip 1 k.1 then some k.2 else none
    let ks := match s.flightStep f with
      | .ok r => r.must ++ some' r.may
      | .error _ => some' (s.reached f)
    (ks.filter fun o => !f.offered.contains o.key && match o.after with | some k => f.offered.contains k | none => true).map Offer.key

/-- TRACE_READ (R335): a line that is not owned is read at CP, once. -/
def execTraceRead (id line : Nat) (s : State) : Res :=
  match s.flights.find? fun f => f.vis && f.id == id with
  | none => .next s
  | some f =>
    if s.owned (.mem line) || f.lines.any (fun l => l.1 == line) || f.landing.isSome then .next s
    else
      let cls := s.lineFault (.mem line)
      let s1 := s.prepKey (.mem line)
      let bytes : List Byte := match cls with
        | some n => [BitVec.ofNat 8 n]
        | none => s1.lineFor f.team (s.lane f.team f.group f.lane).home.1 line
      .next { s1 with flights := s1.flights.map fun q => if q.id == id then { q with lines := q.lines ++ [(line, bytes)] } else q }

/-- The landing of a ray. -/
def State.landRay (s : State) (f : Flight) (r : Landing) : State :=
  State.landBatch { s with flights := s.flights.map fun q => if q.id == f.id then { q with landing := some r } else q } f.batch

/-- An offer of a ray as a step of its own, when a reservation may be made (R335). -/
def State.offerStep (s : State) (f : Flight) (k : VAddr × Nat) : State :=
  if s.offering f.team [k] && !s.ringFree f.team f.group f.core then s
  else
    let s1 := s.offer f k
    { s1 with flights := s1.flights.map fun q => if q.id == f.id then { q with offered := q.offered ++ [k] } else q }

/-- TRAVERSAL_COMPLETE (R325, R326, R335): the ray's next offer, and when it has none, its landing; the instruction leaves when all its rays
have landed. -/
def execTraversalComplete (id : Nat) (s : State) : Res :=
  match s.flights.find? fun f => f.vis && f.id == id with
  | none => .next s
  | some f =>
    match f.landing, s.toOffer f, s.flightStep f with
    | some _, _, _ => .next (s.landBatch f.batch)
    | none, k :: ks, _ => .next (s.offerStep f (rd (k :: ks) ((Config.freeWord s.tick).toNat % (ks.length + 1))))
    | none, [], .error (.need _) => .next s
    | none, [], .error (.fault c a) => .next (s.landRay f { fault := some (c, a) })
    | none, [], .ok r => .next (s.landRay f { words := r.words, query := r.query })

/-- TRAVERSAL_UNIT_ERROR (R222, R328): the rays in flight on one of the four units are aborted, and their instruction is issued again in
their lanes, while what has landed in other lanes stands; one event is logged, without VDEV (DESIGN CHOICE, log entry 147). Which unit takes a ray is its number modulo 4 (DESIGN CHOICE,
log entry 119). -/
def execTraversalUnitError (core unit : Nat) (s : State) : Res :=
  let hit (f : Flight) : Bool := f.vis && f.core == core && f.id % 4 == unit && f.landing.isNone
  if !s.flights.any hit then .next s
  else .next { (s.logCore core 3 none []) with flights := s.flights.map fun f => if hit f then { f with lines := [], offered := [] } else f }

end Landing

section Tracing

/-- The query that a TRACE makes in a lane (R338-R340). -/
def State.newQuery (s : State) (c : Cur) (m : Mods) (f : RForm) (l : Nat) : Query :=
  { isOpen := m.clsBit 0
    ray := s.rdVs c.team c.group l f.a.toNat 8
    hdr := s.pairS c f.b.toNat
    mask := (s.rdS c (f.b.toNat + 2)).extractLsb' 0 8
    cls := BitVec.ofNat 3 (m.clsField 0 3) }

/-- A ray that lands at once: a helper lane's, or one that reads no memory (R339). -/
def atOnce (helper : Bool) (q : Query) : Option Landing :=
  if helper || q.world.isNone then let r := traceStep q {}; some { words := r.words, query := r.query } else none

/-- TRACE and TRACE.STEP (R337-R340). -/
def execTrace (m : Mods) (f : RForm) (s : State) : Res :=
  issue (.trace m f) s fun c s1 =>
    let g := s1.guarded c f.g
    let helper (l : Nat) : Bool := (s1.lane c.team c.group l).helper
    let hdr := s1.pairS c f.b.toNat
    let m1 := maskOf fun l => inMask g l && !helper l
    if (s1.rdS c (f.b.toNat + 2)).toNat / 256 ≠ 0 then illegalAct c
    else if m1 != 0 && hdr.toNat % 128 != 0 then .fault { cls := 6, mask := m1, kind := kindOperand, va := hdr }
    else if m1 != 0 && !canonical hdr then .fault { cls := 4, mask := m1, kind := kindOperand, info := 4, va := hdr }
    else if m.clsBit 0 then lanewise c s1 f.g fun l => { other := fun ln => { ln with query := s1.newQuery c m f l } }
    else postFlights c s s1 (.trace m f) ((lanesOf g).map fun l =>
      let q := s1.newQuery c m f l
      newFlight c (.trace m f) l (helper l) q (f.d.toNat, 6) (atOnce (helper l) q))

/-- TSTEP (R341). -/
def execTstep (m : Mods) (f : RForm) (s : State) : Res :=
  issue (.tstep m f) s fun c s1 => postFlights c s s1 (.tstep m f) ((lanesOf (s1.guarded c f.g)).map fun l =>
    let ln := s1.lane c.team c.group l
    let q := ln.query
    newFlight c (.tstep m f) l ln.helper q (f.d.toNat, 6)
      (if !q.stepping then some { words := missWords false, query := q } else none))

/-- HITGET (R343): a hit whose attributes the query keeps is answered at once, but for `.VERT` and `.GNRM`. -/
def execHitget (m : Mods) (f : RForm) (s : State) : Res :=
  issue (.hitget m f) s fun c s1 =>
    let sel := m.clsField 0 3
    let n := hitgetCount sel
    postFlights c s s1 (.hitget m f) ((lanesOf (s1.guarded c f.g)).map fun l =>
      let q := (s1.lane c.team c.group l).query
      let now : Option (List Word) := match q.asked (m.clsBit 3) with
        | none => some (List.replicate n 0)
        | some (_, ws) => if ws.isEmpty || decide (3 ≤ sel) then none
            else some (match sel with | 0 => [rd ws 6] | 1 => (ws.drop 7).take 3 | _ => (ws.drop 10).take 3)
      newFlight c (.hitget m f) l false q (f.d.toNat, n) (now.map fun w => { words := w, query := q }))

/-- HITACC (R340, R342). -/
def Query.accept (q : Query) (op : Nat) : Query :=
  if !(q.isOpen && q.pend) then q
  else
    let q1 : Query := if op = 0 ∨ op = 2 then { q with acc := true, accId := q.pendId, accT := q.pendT, accW := q.pendW } else q
    { q1 with pend := false, pendW := [], isOpen := decide (op < 2), ended := q.ended || decide (2 ≤ op) }

/-- HITACC (R342). -/
def execHitacc (m : Mods) (f : RForm) (s : State) : Res :=
  issue (.hitacc m f) s fun c s => lanewise c s f.g fun _ => { other := fun ln => { ln with query := ln.query.accept (m.clsField 0 2) } }

/-- RESID (R347). -/
def execResid (m : Mods) (f : RForm) (s : State) : Res :=
  issue (.resid m f) s fun c s => groupUniform c s <|
    let l := s.launchOf c.team
    let n := l.filter.length
    let s1 := if m.clsBit 0 then s.modLaunch l.key fun l => { l with filter := [] } else s
    uniform c s1 { s := [(f.d.toNat, BitVec.ofNat 32 n)] }

end Tracing

section Raster

/-- A snapped triangle (R329): coordinates, depths and q by vertex, with A positive after the negation. -/
structure Tri2 where
  x     : List Int
  y     : List Int
  z     : List Rat
  q     : List Rat
  area  : Int
  neg   : Bool
  deriving DecidableEq, Inhabited

/-- E_i at a point before the negation (R329). -/
def edgeAt (xs ys : List Int) (i : Nat) (px py : Int) : Int :=
  let j := (i + 1) % 3
  (rd xs j - rd xs i) * (py - rd ys i) - (rd ys j - rd ys i) * (px - rd xs i)

/-- Snap a coordinate (R329). -/
def snap (v : Val) : Int := match v with | .fin s n d => signedNum s (roundInt .rne 0 s (n * 256) d) | _ => 0

/-- Snap a triangle; none when it is culled (R329). -/
def triOf (ws : List Word) : Option Tri2 :=
  let v (i k : Nat) : Val := wordVal (rd ws (4 * i + k))
  let all : List Val := (List.range 12).map fun k => v (k / 4) (k % 4)
  let xs := (List.range 3).map fun i => snap (v i 0)
  let ys := (List.range 3).map fun i => snap (v i 1)
  let a := edgeAt xs ys 0 (rd xs 2) (rd ys 2)
  if all.any (fun x => x.isNan || x.isInf) || (xs ++ ys).any (fun x => decide (2 ^ 23 ≤ x.natAbs)) || a == 0 then none
  else
    let r (k : Nat) : List Rat := (List.range 3).map fun i => ((v i k).rat?).getD 0
    some { x := xs, y := ys, z := r 2, q := r 3, area := a.natAbs, neg := decide (a < 0) }

/-- E_i after the negation. -/
def Tri2.edge (t : Tri2) (i : Nat) (px py : Int) : Int := let e := edgeAt t.x t.y i px py; if t.neg then -e else e

/-- A sample is covered (R330). -/
def Tri2.covers (t : Tri2) (px py : Int) : Bool :=
  (List.range 3).all fun i =>
    let e := t.edge i px py
    let j := (i + 1) % 3
    let dx := if t.neg then rd t.x i - rd t.x j else rd t.x j - rd t.x i
    let dy := if t.neg then rd t.y i - rd t.y j else rd t.y j - rd t.y i
    decide (0 < e) || (e == 0 && (decide (dy < 0) || (dy == 0 && decide (0 < dx))))

/-- The sample offsets of a pattern (R331). -/
def samples (spat : Nat) : List (Int × Int) :=
  match spat with
  | 1 => [(8, 8)]
  | 2 => [(2, 6), (6, 14), (10, 2), (14, 10)]
  | _ => [(1, 9), (3, 3), (5, 13), (7, 7), (9, 1), (11, 11), (13, 5), (15, 15)]

/-- The least and greatest of a list. -/
def least (l : List Int) : Int := l.foldl min (l.headD 0)
def greatest (l : List Int) : Int := l.foldl max (l.headD 0)

/-- The pixels of one axis, from and to, clipped to an extent (R332); empty when from exceeds to. -/
def boxAxis (l : List Int) (extent : Nat) : Int × Int :=
  (max 0 (least l / 256), min (extent - 1) ((greatest l + 255) / 256 - 1))

/-- A position: pixel and sample. -/
abbrev Pos := Nat × Nat × Nat

/-- A triangle on a raster: what a walk goes over (R330-R333). -/
structure Walk where
  tri  : Tri2
  w    : Nat
  h    : Nat
  pat  : List (Int × Int)
  deriving DecidableEq, Inhabited

def Walk.xs (k : Walk) : Int × Int := boxAxis k.tri.x k.w
def Walk.ys (k : Walk) : Int × Int := boxAxis k.tri.y k.h
/-- Width and height of the box in units of n pixels, none when it is empty. -/
def Walk.size (k : Walk) (n : Int) : Nat × Nat :=
  if k.xs.2 < k.xs.1 ∨ k.ys.2 < k.ys.1 then (0, 0)
  else ((k.xs.2 / n - k.xs.1 / n + 1).toNat, (k.ys.2 / n - k.ys.1 / n + 1).toNat)

/-- Where a sample lies (R331). -/
def Walk.point (k : Walk) (p : Pos) : Int × Int :=
  let o := rd k.pat p.2.2
  (256 * p.1 + 16 * o.1, 256 * p.2.1 + 16 * o.2)

/-- A position is covered (R330). -/
def Walk.covers (k : Walk) (p : Pos) : Bool :=
  decide (p.1 < k.w) && decide (p.2.1 < k.h) && k.tri.covers (k.point p).1 (k.point p).2

/-- Number of positions, and position n (R332). -/
def Walk.total (k : Walk) : Nat := let z := k.size 1; z.1 * z.2 * k.pat.length
def Walk.pos (k : Walk) (n : Nat) : Pos :=
  let z := k.size 1
  let px := n / k.pat.length
  (k.xs.1.toNat + px % z.1, k.ys.1.toNat + px / z.1, n % k.pat.length)

/-- Number of quads, and quad n (R333). -/
def Walk.quads (k : Walk) : Nat := let z := k.size 2; z.1 * z.2
def Walk.quad (k : Walk) (n : Nat) : Nat × Nat :=
  let z := k.size 2
  (k.xs.1.toNat / 2 + n % z.1, k.ys.1.toNat / 2 + n / z.1)

/-- The lowest-numbered covered sample of a pixel. -/
def Walk.first (k : Walk) (px py : Nat) : Option Nat := (List.range k.pat.length).find? fun i => k.covers (px, py, i)

/-- What one unit of the walk gives its lanes: a position each, and whether as a helper. -/
abbrev Cover := List (Pos × Bool)

/-- A walk from number n on: the next covered units go to the takers in order; answers those and the first number not examined
(R332). -/
def walkFrom (unit : Nat → Option Cover) : Nat → Nat → Nat → List Cover × Nat
  | 0, n, _ => ([], n)
  | _, n, 0 => ([], n)
  | fuel + 1, n, takers + 1 =>
    match unit n with
    | some u => let r := walkFrom unit fuel (n + 1) takers; (u :: r.1, r.2)
    | none => walkFrom unit fuel (n + 1) (takers + 1)

/-- The unit of a plain walk and of a quad walk. -/
def Walk.unit (k : Walk) (n : Nat) : Option Cover := if k.covers (k.pos n) then some [(k.pos n, false)] else none
def Walk.quadUnit (k : Walk) (n : Nat) : Option Cover :=
  let q := k.quad n
  let each (j : Nat) : Pos × Bool :=
    let px := 2 * q.1 + j % 2
    let py := 2 * q.2 + j / 2
    match k.first px py with | some i => ((px, py, i), false) | none => ((px, py, 0), true)
  let c := (List.range 4).map each
  if c.any fun p => !p.2 then some c else none

/-- The words of a returned sample (R334, R345). A depth or a Q of zero is +0 (DEDUCED, log entry 148). -/
def Walk.words (k : Walk) (p : Pos) (helper : Bool) : List Word :=
  let pt := k.point p
  let s (i : Nat) : Rat := (k.tri.edge ((i + 1) % 3) pt.1 pt.2 : Rat) / k.tri.area
  let mix (l : List Rat) : Rat := s 0 * rd l 0 + s 1 * rd l 1 + s 2 * rd l 2
  let q := mix k.tri.q
  let b (i : Nat) : Rat := if q = 0 then 0 else s i * rd k.tri.q i / q
  [BitVec.ofNat 32 (p.1 + p.2.1 * 65536),
   BitVec.ofNat 32 (p.2.2 + 256 + (if k.tri.neg then 0 else 512) + (if helper then 1024 else 0)),
   ratWord (mix k.tri.z), ratWord q, ratWord (b 1), ratWord (b 2)]

/-- Where each active lane's position comes from: lane and its place in the units taken (R332, R333). -/
def takers (quad : Bool) (act : BitVec 32) : List (List Nat) :=
  if quad then ((List.range 8).map fun sl => (List.range 4).map fun j => 4 * sl + j).filter fun ls => ls.all (inMask act)
  else (lanesOf act).map fun l => [l]

/-- One issue of RAST: the lanes' positions and the new token (R332, R345). -/
def rastStep (k : Walk) (quad : Bool) (act : BitVec 32) (token : Nat) : List (Nat × Pos × Bool) × Nat :=
  let total := if quad then k.quads else k.total
  let n := if token = 0 then 0 else token - 1
  let ts := takers quad act
  let r := walkFrom (if quad then k.quadUnit else k.unit) (total - n) n ts.length
  let lanes := (ts.zip r.1).flatMap fun p => p.1.zip p.2
  (lanes, if total ≤ r.2 then 0xFFFFFFFF else r.2 + 1)

/-- RAST and RAST.QUAD (R329-R334, R345). Helper is cleared in every lane of the group (R110), those of the splinter among them (R345), and set
in the helper lanes of the splinter (DEDUCED, log entry 111). -/
def execRast (m : Mods) (f : RForm) (s : State) : Res :=
  issue (.rast m f) s fun c s =>
    let l := (s.launchOf c.team).lrec
    if l.spat = 0 then illegalAct c
    else groupUniform c s <|
      let token := (s.rdS c f.b.toNat).toNat
      let ws := (List.range 12).map fun k => s.rdS c (f.a.toNat + k)
      let out : List (Nat × Pos × Bool) × Nat × Option Walk := match triOf ws with
        | none => ([], 0xFFFFFFFF, none)
        | some t =>
          if token = 0xFFFFFFFF then ([], 0xFFFFFFFF, none)
          else
            let k : Walk := { tri := t, w := l.w, h := l.h, pat := samples l.spat }
            let r := rastStep k (m.clsBit 0) c.act token
            (r.1, r.2, some k)
      let cleared := s.mapLanes c.team c.group 0xFFFFFFFF fun _ l => { l with helper := false }
      .done (cleared.applyFx c.team c.group c.act fun ln =>
        let p := out.1.find? fun q => q.1 == ln
        { v := vWrites f.d.toNat (match p, out.2.2 with | some q, some k => k.words q.2.1 q.2.2 | _, _ => List.replicate 6 0)
          s := [(f.b.toNat, BitVec.ofNat 32 out.2.1)]
          other := fun l => { l with helper := match p with | some q => q.2.2 | none => false } })

/-- QDIFF (R346). Every active lane of a quad serves as a source, so its vA is read also where its guard is false, in a quad that is not whole
too (log entry 121). -/
def execQdiff (m : Mods) (f : RForm) (s : State) : Res :=
  issue (.qdiff m f) s fun c s => lanewise c s f.g fun l =>
    let n := if m.clsBit 0 then l ^^^ 2 else l ^^^ 1
    let val (k : Nat) : Val := wordVal (s.rdV c.team c.group k f.a.toNat)
    let whole := (List.range 4).all fun j => inMask c.act (l / 4 * 4 + j)
    { v := [(f.d.toNat, if whole then BitVec.ofNat 32 (rne32 (subExact (val (max l n)) (val (min l n)))) else 0)] }

end Raster

end Sys2Proof.Machine
end

