-- ==== Sys2Proof/Machine/Folds.lean ====
section
/-!
DEFINITION. Folds: the table, FOLDDEF, FOLD and FOLDF, bins with their slice and overflow area, and how bins become groups
(20_visibility_instructions R348-R355).
-/
namespace Sys2Proof.Machine
open Sys2Proof

section ControlBlocks

/-- What comes before the part's own read of n bytes of a context (R372, R374): Decode or Encode as for any access at CP, and RSV where a Decode
meets a record with shift 255. -/
def State.partPrep (s : State) (v : Nat) (va : VAddr) (n : Nat) : State :=
  if n = 0 then s
  else match s.place v ⟨0, va, n⟩ .read with
  | .ok segs => segs.foldl (fun s q => s.prepKey (.mem (lineOf q.1))) s
  | .error _ => s

/-- The entries of a table of 16 blocks of 64 bytes that a use reads at CP are prepared (`State.partPrep`). -/
def State.tablePrep (s : State) (v : Nat) (base : VAddr) (fresh : Nat → Bool) : State :=
  (List.range 16).foldl (fun s i => if fresh i then s.partPrep v (base + BitVec.ofNat 64 (64 * i)) 64 else s) s

/-- Some byte of an access of the part lies at a reserved physical range or in the on-chip window (R12, R15). -/
def State.barred (s : State) (v : Nat) (va : VAddr) (n : Nat) : Bool :=
  match s.vdev? v with
  | none => false
  | some d => (piecesOf va.toNat n).any fun p =>
      let a := va + BitVec.ofNat 64 p.1
      match d.page? (pageOf a) with
      | some (pp, _) => (match physKind (pp * 65536 + a.toNat % 65536) with | .reserved | .window => true | _ => false)
      | none => false

/-- What the placing of a record comes to: it has its place, it fits nowhere, or its overflow area lies at a reserved physical range at an
address (R12; log entry 141). -/
inductive Placing where
  | put (s : State)
  | nowhere (s : State)
  | barred (va : VAddr)

/-- The fault of a group on whose behalf the part would write to a reserved range (R12): a protection fault of the SHP domain (R18; DEDUCED, log
entry 141). -/
def barredFault (fs : List (Nat × VAddr)) : FaultInfo :=
  match firstFault kindEngWrite (fs.map fun q => (q.1, 4, q.2)) with
  | some f => { f with info := 5 }
  | none => { cls := 4, mask := 0, kind := kindEngWrite, info := 5 }

/-- A control block as it stands at CP: one line; none when it cannot be read in the context. -/
def State.ctlRead (s : State) (v : Nat) (va : VAddr) (n : Nat) : Option (List Byte) :=
  match s.translate v va .read with
  | .ok pa => if s.errHit (lineOf pa) || s.undecodable (lineOf pa) then none else some (Memory.read (s.prepLine (lineOf pa)).mem pa n)
  | .error _ => none

/-- What the part reads back from its area: free bytes where the context cannot be read. -/
def State.partRead (s : State) (v : Nat) (va : VAddr) (n : Nat) : List Byte :=
  let free := (List.range n).map fun i => Config.freeByte (s.tick * 1024 + i)
  if n = 0 then []
  else match s.place v ⟨0, va, n⟩ .read with
  | .error _ => free
  | .ok segs => if segs.any fun q => s.undecodable (lineOf q.1) then free else segs.flatMap fun q => Memory.read (s.prepLine (lineOf q.1)).mem q.1 q.2

/-- The first place in an area where a record fits beside those that lie there: used places, size, capacity (R352, R403). -/
def firstFit (used : List (Nat × Nat)) (size cap : Nat) : Option Nat :=
  let spots := 0 :: used.map fun u => u.1 + u.2
  let ok (o : Nat) : Bool := decide (o + size ≤ cap) && used.all fun u => decide (o + size ≤ u.1) || decide (u.1 + u.2 ≤ o)
  (spots.filter ok).foldl (fun acc o => match acc with | none => some o | some p => some (min p o)) none

end ControlBlocks

section Table

/-- A fold-table entry (R348). -/
structure FoldEntry where
  klo   : Nat
  khi   : Nat
  cont  : Word
  fill  : Nat
  v     : Bool
  timer : Nat
  mask  : BitVec 64
  s     : List Word
  /-- the fields lie in their ranges, the reserved bits are 0, and MASK lies in the budget -/
  ok    : Bool
  deriving DecidableEq, Repr, Inhabited

/-- Read the 64 bytes of an entry for a role's v budget (R348). -/
def foldEntry (budget : Nat) (bs : List Byte) : FoldEntry :=
  let w := leNat (bs.take 64)
  let fill := fld w 96 6
  let mask : BitVec 64 := BitVec.ofNat 64 (fld w 160 64)
  { klo := fld w 0 32, khi := fld w 32 32, cont := BitVec.ofNat 32 (fld w 64 32), fill := fill, v := w.testBit 103
    timer := fld w 128 32, mask := mask, s := (List.range 8).map fun j => BitVec.ofNat 32 (fld w (256 + 32 * j) 32)
    ok := decide (fld w 0 32 ≤ fld w 32 32) && decide (4 ≤ fill) && decide (fill ≤ 32) && fill % 4 == 0 && !w.testBit 102 &&
      fld w 104 24 == 0 && fld w 224 32 == 0 && decide (mask.toNat < 2 ^ budget) }

/-- Two key ranges overlap. -/
def FoldEntry.clash (a b : FoldEntry) : Bool := decide (a.klo ≤ b.khi) && decide (b.klo ≤ a.khi)

/-- The registers that an entry carries. -/
def FoldEntry.regs (e : FoldEntry) : List Nat := (List.range 64).filter fun r => e.mask.getLsbD r

/-- The place of entry i of a launch's fold table. -/
def LaunchRec.foldAt (l : LaunchRec) (i : Nat) : VAddr := l.foldt + BitVec.ofNat 64 (64 * i)

/-- The v budget of the groups that a launch's folds form (R348). -/
def LaunchRec.foldBudget (l : LaunchRec) : Nat := (l.budget l.foldRole).1

/-- Entry i of a launch's table as a use reads it (R229, R349): a cached copy, or the table as it stands. -/
def State.foldRaw (s : State) (l : Launch) (i : Nat) : List Byte :=
  let held := rd l.foldTab i
  let good := rd l.foldGood i
  if !held.isEmpty && s.flip 2 i then held
  else (s.ctlRead l.vdev (l.lrec.foldAt i) 64).getD (if held.isEmpty then good else held)

/-- Entry i is in force among the entries that were read together (R348, R349): valid, and unchanged since it was last valid or
clear of every other valid one. -/
def foldInForce (raws good : List (List Byte)) (es : List FoldEntry) (i : Nat) : Bool :=
  let e := rd es i
  e.v && e.ok && (rd raws i == rd good i || (List.range 16).all fun j => j == i || !(rd es j).v || !(rd es j).ok || !e.clash (rd es j))

end Table

section Bins

/-- Bytes of a record in its slice (R352). -/
def foldBytes (r : FoldRec) : Nat := (16 + 4 * r.words.length + 15) / 16 * 16

/-- The slice of a bin, one of 256 (R3, R352). -/
def State.binHome (_s : State) (l : Launch) (entry : Nat) (key : Word) : Nat := Config.binSlice (l.vdev * 16 + entry) key % 256

/-- Bytes of fold records that a slice holds, of every context (R352). -/
def State.foldUse (s : State) (slice : Nat) : Nat :=
  s.launches.foldl (fun n l => l.bins.foldl (fun n b =>
    if s.binHome l b.entry b.key = slice then b.recs.foldl (fun n r => if r.ovf.isNone then n + foldBytes r else n) n else n) n) 0

/-- The places taken in a launch's overflow area. -/
def Launch.foldOvf (l : Launch) : List (Nat × Nat) :=
  l.bins.flatMap fun b => b.recs.filterMap fun r => r.ovf.map fun o => (o, foldBytes r)

/-- Append a record to a bin. -/
def putRec (bins : List Bin) (entry : Nat) (key : Word) (r : FoldRec) : List Bin :=
  if bins.any fun b => b.entry == entry && b.key == key then
    bins.map fun b => if b.entry == entry && b.key == key then { b with recs := b.recs ++ [r] } else b
  else bins ++ [{ entry := entry, key := key, recs := [r] }]

/-- Place a record (R350, R352): in the bin's slice, else in the overflow area. An area that cannot be translated, written or decoded has no room:
the spec gives such an area no fault of its own but R12's (DESIGN CHOICE, log entry 141). -/
def State.placeRec (s : State) (key : Nat) (entry : Nat) (k : Word) (r : FoldRec) : Placing :=
  match s.launch? key with
  | none => .nowhere s
  | some l =>
    let put (s : State) (r : FoldRec) : State := s.modLaunch key fun l => { l with bins := putRec l.bins entry k r }
    if s.foldUse (s.binHome l entry k) + foldBytes r ≤ 65536 then .put (put s r)
    else match firstFit l.foldOvf (foldBytes r) (if l.lrec.fovf == 0 then 0 else l.lrec.fovfsz) with
    | none => .nowhere s
    | some o =>
      let va := l.lrec.fovf + BitVec.ofNat 64 o
      if s.barred l.vdev va (4 * r.words.length) then .barred va
      else
        let w := s.partWrite l.vdev va (bytesOf r.words)
        if w.2 then .put (put w.1 { r with ovf := some o }) else .nowhere w.1

/-- The records of a bin. -/
def Launch.binRecs (l : Launch) (entry : Nat) (key : Word) : List FoldRec :=
  match l.bins.find? fun b => b.entry == entry && b.key == key with | some b => b.recs | none => []

/-- The v registers of a formed lane (R353): each register in MASK holds the record's value of that register. Where software has put
another MASK into the entry since the spill, a register that the record does not carry is free (DESIGN CHOICE, log entry 89). -/
def foldRegs (e : FoldEntry) (r : FoldRec) (ws : List Word) (tick : Nat) : List Word :=
  wrs [] (e.regs.map fun v => (v, match (r.regs.zip ws).find? fun p => p.1 == v with | some p => p.2 | none => Config.freeWord (tick * 64 + v)))

/-- The words of a record: those that stay with its bookkeeping, or what the overflow area now holds (R352). -/
def State.recWords (s : State) (l : Launch) (r : FoldRec) : List Word :=
  match r.ovf with
  | some o => wordsOf r.words.length (s.partRead l.vdev (l.lrec.fovf + BitVec.ofNat 64 o) (4 * r.words.length))
  | none => r.words

/-- What comes before the part reads records back from the overflow area (R372, R374). -/
def State.recPrep (s : State) (l : Launch) (rs : List FoldRec) : State :=
  rs.foldl (fun s r => match r.ovf with | some o => s.partPrep l.vdev (l.lrec.fovf + BitVec.ofNat 64 o) (4 * r.words.length) | none => s) s

/-- Form a bin once (R351, R353): its oldest records, at most FILL, become a team. -/
def State.formBin (s : State) (key entry : Nat) (k : Word) (e : FoldEntry) : State :=
  match s.launch? key with
  | none => s
  | some l =>
    let recs := l.binRecs entry k
    let n := min e.fill recs.length
    if n = 0 then s
    else
      let s0 := s.recPrep l (recs.take n)
      let lanes := (recs.take n).map fun r => (foldRegs e r (s0.recWords l r) s.tick, r.home)
      let left := recs.drop n
      let s1 := s0.modLaunch key fun l => { l with
        bins := if left.isEmpty then l.bins.filter fun b => !(b.entry == entry && b.key == k)
                else l.bins.map fun b => if b.entry == entry && b.key == k then { b with recs := left } else b }
      s1.formTeam l l.lrec.foldRole (.fold entry k) e.cont (e.s ++ [k]) lanes

/-- Form a bin until fewer than `floor` records stand in it, at most n times. -/
def State.formBinTo (key entry : Nat) (k : Word) (e : FoldEntry) (floor : Nat) : Nat → State → State
  | 0, s => s
  | n + 1, s =>
    match s.launch? key with
    | some l => if floor ≤ (l.binRecs entry k).length then State.formBinTo key entry k e floor n (s.formBin key entry k e) else s
    | none => s

/-- Bins in increasing (entry, key) order (R351). -/
def binOrder (bs : List (Nat × Word)) : List (Nat × Word) :=
  sortBy (fun a b => if a.1 = b.1 then a.2.ult b.2 else decide (a.1 < b.1)) bs

/-- Flush the bins that `p` picks: each is formed until it is empty (R351). -/
def State.flushBins (s : State) (key : Nat) (ents : Nat → FoldEntry) (p : Nat → Word → Bool) : State :=
  match s.launch? key with
  | none => s
  | some l =>
    let bs := binOrder ((l.bins.filter fun b => p b.entry b.key).map fun b => (b.entry, b.key))
    bs.foldl (fun s b => State.formBinTo key b.1 b.2 (ents b.1) 1 (l.binRecs b.1 b.2).length s) s

/-- What a use of the fold table reads (R349): the state after it, the entries in force, and the entry that directs the formation of
a bin. An entry that is not valid, in force or not, has its bins flushed under the last valid copy. -/
def State.useFolds (s : State) (key : Nat) : State × (Nat → Option FoldEntry) × (Nat → FoldEntry) :=
  match s.launch? key with
  | none => (s, fun _ => none, fun _ => default)
  | some l =>
    let parse (b : List Byte) : FoldEntry := foldEntry l.lrec.foldBudget b
    let s0 := s.tablePrep l.vdev l.lrec.foldt fun i => (rd l.foldTab i).isEmpty || !s.flip 2 i
    let raws := (List.range 16).map (s0.foldRaw l)
    let es := raws.map parse
    let live := (List.range 16).map (foldInForce raws l.foldGood es)
    let good := (List.range 16).map fun i => if rd live i then rd raws i else rd l.foldGood i
    let by' (i : Nat) : FoldEntry := if rd live i || (!(rd es i).v && (rd es i).ok) then rd es i else parse (rd good i)
    let s1 := s0.modLaunch key fun l => { l with foldTab := raws, foldGood := good }
    (s1.flushBins key by' fun i _ => !(rd es i).ok || ((rd es i).v && !rd live i), fun i => if rd live i then some (rd es i) else none, by')

end Bins

section Instructions

/-- The launch of an issue. -/
def State.keyOf (s : State) (tm : Nat) : Nat := match s.team? tm with | some t => t.launch | none => 0

/-- The entry in force whose range holds a key (R350). -/
def foldHit (es : Nat → Option FoldEntry) (k : Word) : Option (Nat × FoldEntry) :=
  (List.range 16).findSome? fun i => match es i with
    | some e => if e.klo ≤ k.toNat ∧ k.toNat ≤ e.khi then some (i, e) else none
    | none => none

/-- A lane that has been folded or dropped (R87, R110, R344). -/
def Lane.foldAway (l : Lane) : Lane := { l with exited := true, held := false, query := {} }

/-- The fold table and the overflow area of a launch (R348, R352). -/
def LaunchRec.foldAreas (l : LaunchRec) : List (VAddr × Nat) := if l.foldt == 0 then [] else [(l.foldt, 1024), (l.fovf, l.fovfsz)]

/-- No line of the areas is owned: the part's accesses to them are not held (R17). -/
def State.areasFree (s : State) (v : Nat) (as : List (VAddr × Nat)) : Bool := as.all fun a => !s.rangeOwned v a.1 a.2

/-- What an instruction that uses the fold table waits for (R17). -/
def State.foldFree (s : State) (key : Nat) : List Cond :=
  match s.launch? key with
  | some l => l.lrec.foldAreas.map fun a => .rangeFree a.1 a.2
  | none => []

/-- A spill under way: the state, the lanes whose records have their places, the bins that took them, and the lanes whose record would go to a
reserved range, with the address. -/
structure Spill where
  state  : State
  lanes  : List Nat := []
  bins   : List (Nat × Word) := []
  barred : List (Nat × VAddr) := []

/-- FOLD (R350-R352, R355): the spill of all lanes is one step. A lane whose record would go to a reserved range takes a protection fault, before
any effect (R12, R219). -/
def execFold (m : Mods) (f : RForm) (s : State) : Res :=
  issue (.fold m f) s fun c s =>
    let key := s.keyOf c.team
    if (s.launchOf c.team).lrec.foldt == 0 then illegalAct c
    else s.need c (.sqEmpty :: s.foldFree key ++ releaseConds .device) [] none <|
      let u := s.useFolds key
      let g := lanesOf (s.guarded c f.g)
      let k (l : Nat) : Word := s.rdV c.team c.group l f.a.toNat
      let helper (l : Nat) : Bool := (s.lane c.team c.group l).helper
      let hit (l : Nat) : Option (Nat × FoldEntry) := if helper l then none else foldHit u.2.1 (k l)
      let bad := maskOf fun l => g.contains l && match hit l with
        | some (_, e) => e.regs.any fun r => decide ((s.budget c.team c.group).1 ≤ r)
        | none => false
      if bad != 0 then .fault { cls := 1, mask := bad }
      else
        let place (acc : Spill) (l : Nat) : Spill :=
          match hit l with
          | none => acc
          | some (i, e) =>
            let r : FoldRec := { words := e.regs.map (s.rdV c.team c.group l), regs := e.regs, home := (s.lane c.team c.group l).home, ovf := none }
            match acc.state.placeRec key i (k l) r with
            | .put s' => { acc with state := s', lanes := acc.lanes ++ [l]
                                    bins := if acc.bins.contains (i, k l) then acc.bins else acc.bins ++ [(i, k l)] }
            | .nowhere s' => { acc with state := s' }
            | .barred va => { acc with barred := acc.barred ++ [(l, va)] }
        let p := g.foldl place { state := u.1 }
        if !p.barred.isEmpty then .fault (barredFault p.barred)
        else
          let s1 := (binOrder p.bins).foldl (fun s b => match u.2.1 b.1 with
            | some e => State.formBinTo key b.1 b.2 e e.fill 32 s
            | none => s) p.state
          let gone := maskOf fun l => g.contains l && (helper l || p.lanes.contains l)
          let s2 := s1.mapLanes c.team c.group gone fun _ l => l.foldAway
          .done (s2.applyFx c.team c.group (maskOf fun l => g.contains l && !inMask gone l) fun _ =>
            { p := predWrites (s.flip 0 0) f.d true })

/-- The launches of the context that use the fold table of a launch: each holds a copy of it (R229, R349). -/
def State.foldPeers (s : State) (l : Launch) : List Launch := s.launches.filter fun k => k.vdev == l.vdev && k.lrec.foldt == l.lrec.foldt

/-- Install an entry (R349): the flush of its bins, then the table and every copy, in one step. -/
def State.installFold (s : State) (key i : Nat) (bs : List Byte) : State :=
  match s.launch? key with
  | none => s
  | some l =>
    let flush (s : State) (k : Launch) : State :=
      let u := s.useFolds k.key
      u.1.flushBins k.key u.2.2 fun e _ => e == i
    let s1 := (s.foldPeers l).foldl flush s
    let s2 := (s1.partWrite l.vdev (l.lrec.foldAt i) bs).1
    (s.foldPeers l).foldl (fun s k => s.modLaunch k.key fun l => { l with
      foldTab := wr l.foldTab i bs
      foldGood := if (foldEntry l.lrec.foldBudget bs).v then wr l.foldGood i bs else l.foldGood }) s2

/-- Install an entry for an instruction (R12, R349): a table at a reserved range gives a protection fault, one that is not written otherwise keeps
what it holds (log entry 141). -/
def installAct (c : Cur) (s : State) (key i : Nat) (bs : List Byte) : Act :=
  let l := s.launchOf c.team
  if s.barred l.vdev (l.lrec.foldAt i) 64 then .fault { barredFault [] with mask := c.act, va := l.lrec.foldAt i }
  else .done (s.installFold key i bs)

/-- FOLDDEF and FOLDDEF.CLR (R349). -/
def execFolddef (m : Mods) (f : RForm) (s : State) : Res :=
  issue (.folddef m f) s fun c s =>
    let key := s.keyOf c.team
    let i := (s.rdS c f.b.toNat).toNat
    if (s.launchOf c.team).lrec.foldt == 0 || decide (16 ≤ i) then illegalAct c
    else groupUniform c s <|
      if m.clsBit 0 then s.need c (s.foldFree key) [] none <|
        let u := s.useFolds key
        let raw := match u.1.launch? key with | some l => rd l.foldTab i | none => []
        installAct c u.1 key i (raw.set 12 (rd raw 12 &&& 0x7F))
      else
        let va := s.pairS c f.a.toNat
        let rq : Req := ⟨lowest c.act, va, 64⟩
        match s.placeAll (s.vdevOf c.team) [rq] .read 64 kindRead false with
        | .error e => accessFault c [rq] { e with mask := c.act }
        | .ok (ps, _) =>
          s.need c (s.loadConds c.team c.group false ps ++ s.foldFree key) [] none <|
            let s1 := s.loadPrep c.team false (linesOf ps)
            let bs := match ps with | p :: _ => s1.loadBytes c.team c.group false p | [] => []
            let e := foldEntry (s.launchOf c.team).lrec.foldBudget bs
            let u := s1.useFolds key
            let clash := (List.range 16).any fun j => j != i && match u.2.1 j with | some x => e.clash x | none => false
            if !e.v || !e.ok || clash then illegalAct c
            else installAct c u.1 key i bs

/-- FOLDF and FOLDF.ALL (R354): an entry that is not in force is left alone. -/
def execFoldf (m : Mods) (f : RForm) (s : State) : Res :=
  issue (.foldf m f) s fun c s =>
    let key := s.keyOf c.team
    let i := (s.rdS c f.a.toNat).toNat
    if (s.launchOf c.team).lrec.foldt == 0 || (!m.clsBit 0 && decide (16 ≤ i)) then illegalAct c
    else groupUniform c s <| s.need c (s.foldFree key) [] none <|
      let u := s.useFolds key
      .done (u.1.flushBins key u.2.2 fun e _ => (m.clsBit 0 || e == i) && (u.2.1 e).isSome)

end Instructions

section FoldEvents

/-- Every team of a launch has ended and none is still to be placed (R351, R404). -/
def State.noTeams (s : State) (l : Launch) : Bool :=
  decide (l.lrec.gx * l.lrec.gy * l.lrec.gz ≤ l.nextTeam) && (s.teams.filter fun t => t.launch == l.key).all fun t => t.place == .ended

/-- FOLD_TIMER_EXPIRY (R351, R379): TIMER cycles of the slice have passed. -/
def execFoldTimerExpiry (key entry : Nat) (k : Word) (s : State) : Res :=
  match s.launch? key with
  | none => .next s
  | some l =>
    if l.lrec.det || (l.binRecs entry k).isEmpty || !s.areasFree l.vdev l.lrec.foldAreas then .next s
    else
      let u := s.useFolds key
      match u.2.1 entry with
      | some e => .next (if e.timer = 0 then u.1 else u.1.formBin key entry k e)
      | none => .next u.1

/-- FOLD_DRAIN_FLUSH (R351): no group of the launch is left, so every bin is flushed. -/
def execFoldDrainFlush (key : Nat) (s : State) : Res :=
  match s.launch? key with
  | none => .next s
  | some l =>
    if l.bins.isEmpty || !s.noTeams l || !s.areasFree l.vdev l.lrec.foldAreas then .next s
    else
      let u := s.useFolds key
      .next (u.1.flushBins key u.2.2 fun _ _ => true)

end FoldEvents

end Sys2Proof.Machine
end

