-- ==== Sys2Proof/Machine/Commons.lean ====
section
/-!
DEFINITION. The commons: BLEND and its order tokens, BRAND, PHASE and the serial phase, format-region moves, and the error-line
table (23_commons R360-R380).
-/
namespace Sys2Proof.Machine
open Sys2Proof

section Blending

/-- Bits, N and channel widths of a pixel (R366): offset, width and N of each channel; N is 0 for the floating formats. -/
def channels (fmt : Nat) : List (Nat × Nat × Nat) :=
  match fmt with
  | 0 => [(0, 8, 255), (8, 8, 255), (16, 8, 255), (24, 8, 255)]
  | 1 => [(0, 10, 1023), (10, 10, 1023), (20, 10, 1023), (30, 2, 3)]
  | 2 => [(0, 16, 0), (16, 16, 0), (32, 16, 0), (48, 16, 0)]
  | _ => [(0, 32, 0), (32, 32, 0), (64, 32, 0), (96, 32, 0)]

/-- Bytes of a pixel (R366). -/
def pixelBytes (fmt : Nat) : Nat := match fmt with | 2 => 8 | 3 => 16 | _ => 4

/-- The format of a floating channel. -/
def channelFmt (fmt : Nat) : Fmt := fmtOf (if fmt = 2 then .f16 else .w32)

/-- A channel of a pixel as a value (R367). -/
def channelVal (fmt px : Nat) (ch : Nat × Nat × Nat) : Val :=
  let x := fld px ch.1 ch.2.1
  if ch.2.2 = 0 then widen (channelFmt fmt) x else .fin false x ch.2.2

/-- Enc (R367). -/
def encChannel (fmt : Nat) (ch : Nat × Nat × Nat) (e : Val) : Nat :=
  if ch.2.2 = 0 then (roundTo (channelFmt fmt) .rne false false 0 e).1
  else if e.isNan || e.le0 then 0
  else match (if e.lt .one then e else Val.one) with
    | .fin _ n d => roundInt .rne 0 false (n * ch.2.2) d
    | _ => 0

/-- The choice of R158 on values. -/
def chooseVal (greater : Bool) (a b : Val) : Val :=
  if a.isNan then b else if b.isNan then a
  else if greater then (if fltLess a b then b else a) else (if fltLess b a then b else a)

/-- One channel of a blend (R367): EQ, channel number, the pixel's and the source's value, and the source's alpha. -/
def blendChannel (eq k : Nat) (d s alpha : Val) : Val :=
  let a := if alpha.isNan || alpha.le0 then Val.zero else if alpha.lt .one then alpha else .one
  let back := d.mul (subExact .one a)
  match eq with
  | 0 => (sumExact false [d, s]).1
  | 1 => chooseVal false d s
  | 2 => chooseVal true d s
  | _ => (sumTerms false [if k = 3 then (a, false) else s.mul a, back]).1

/-- A pixel after a blend (R367). -/
def blendPixel (fmt eq px : Nat) (src : List Word) : Nat :=
  let v (k : Nat) : Val := f32 (rd src k).toNat
  let out := ((List.range 4).zip (channels fmt)).map fun p =>
    encChannel fmt p.2 (blendChannel eq p.1 (channelVal fmt px p.2) (v p.1) (v 3)) * 2 ^ p.2.1
  out.foldl (· + ·) 0

/-- A blend as one step at CP (R76, R367), or deferred into the block's buffer (R86). Answers whether it was deferred. -/
def State.blendStep (s : State) (key seq : Nat) (home : Nat × Nat × Nat) (addr fmt eq : Nat) (src : List Word) : State × Bool :=
  let x := lineOf addr
  let s1 := s.prepLine x
  let cells := cellsAt addr (leBytes (pixelBytes fmt) (blendPixel fmt eq (leNat (Memory.read s1.mem addr (pixelBytes fmt))) src))
  match s1.launch? key with
  | none => (s1.cpWrite x cells, false)
  | some l =>
    if !l.lrec.det then (s1.cpWrite x cells, false)
    else
      let q := l.brandWrite home.1 x (s1.cpLine x)
      let s2 := (s1.modLaunch key fun _ => q.1).spillBrand key x
      if q.2 then (s2.modLaunch key fun l => l.defer home seq (.blend addr fmt eq src), true)
      else (s2.cpWrite x cells, false)

/-- A blend's step at the commons and in the copy of the core that issued it (R76, R86). -/
def State.blendAt (s : State) (core key seq : Nat) (home : Nat × Nat × Nat) (addr fmt eq : Nat) (src : List Word) : State :=
  let r := s.blendStep key seq home addr fmt eq src
  if r.2 then r.1
  else r.1.modCore core fun k =>
    let y := k.line (lineOf addr)
    k.setLine { y with copy := y.copy.map fun b => overlay (lineOf addr) b (cellsAt addr (Memory.read r.1.mem addr (pixelBytes fmt))) }

/-- Apply the held blends of a launch whose tokens have come to lie at or below W, in increasing token and, for one token, in order of
acceptance (R369); one on an owned line waits (R76). -/
def State.applyHeld (s : State) (key : Nat) : State :=
  match s.launch? key with
  | none => s
  | some l =>
    let due := (sortBy (fun (a b : HeldBlend) => decide (a.token < b.token)) l.blends).filter fun b =>
      s.tokenDue l b.token && !s.owned (.mem (lineOf b.addr))
    let s1 := s.modLaunch key fun l => { l with blends := l.blends.filter fun b => !due.contains b }
    due.foldl (fun s b => s.blendAt b.core key b.seq b.home b.addr b.fmt b.eq b.src) s1

/-- One lane's blend (R365, R369): its step, or, where it is held, its place among the held blends; the page leaves every execute map
at issue (R30). `s0` is the state in which the instruction issued. -/
def State.blendLane (c : Cur) (s0 : State) (key fmt eq : Nat) (held : Bool) (token : Option Nat) (src : List Word) (s : State)
    (p : Placed) : State :=
  let addr := (p.segs.headD (0, 0)).1
  let home := s0.homeOf c.team c.group p.lane
  let (id, s1) := (s.dropExec (addr / 65536)).fresh
  if held then s1.modLaunch key fun l =>
    { l with blends := l.blends ++ [{ token := token.getD 0, seq := id, core := c.core, home := home, addr := addr, fmt := fmt, eq := eq, src := src }] }
  else s1.blendAt c.core key id home addr fmt eq src

/-- BLEND (R365-R369). -/
def execBlend (m : Mods) (f : RForm) (s : State) : Res :=
  issue (.blend m f) s fun c s =>
    let key := s.keyOf c.team
    let fmt := m.clsField 0 2
    let eq := m.clsField 2 2
    let token := if m.clsBit 4 then none else s.token? c.team
    if !m.clsBit 4 && token.isNone then illegalAct c
    else
      let size := pixelBytes fmt
      let rs := (s.storing c f.g).map fun l => (⟨l, s.pairV c l f.a.toNat, size⟩ : Req)
      match s.placeAll (s.vdevOf c.team) rs .rmw size kindRmw false with
      | .error e => accessFault c rs e
      | .ok (ps, _) =>
        if ps.isEmpty then .done s
        else
          let ls := linesOf ps
          let held := match token with | some t => !s.tokenDue (s.launchOf c.team) t | none => false
          let count (x : Nat) : Nat := (ps.filter fun p => p.segs.any fun q => homeSlice (lineOf q.1) == homeSlice x).length
          let room : List Cond := if held then [.holdRoom (ls.map fun x => (x, count x))] else []
          s.need c ([.sqEmpty, .unowned (ls.map LineKey.mem), .linesClean ls] ++ room) [] none <|
            .done (ps.foldl (fun t p => State.blendLane c s key fmt eq held token (s.rdVs c.team c.group p.lane f.b.toNat 4) t p)
              ((s.applyHeld key).modLaunch key fun l => { l with ordered := l.ordered || token.isSome }))

end Blending

section Branding

/-- BRAND.PRIV, .SHR and .CLR on one line (R377); `cp` is the line at CP. -/
def Launch.declare (l : Launch) (op block x : Nat) (cp : List Byte) : Launch :=
  let f (b : Brand) : Brand :=
    match op with
    | 0 => { b with declOwn := if b.declOwn.contains block then b.declOwn else b.declOwn ++ [block]
                    shared := b.shared || b.owner != some block }
    | 1 => { b with declShr := if b.declShr.contains block then b.declShr else b.declShr ++ [block], shared := true, owner := none }
    | _ => { b with declOwn := b.declOwn.filter fun k => k != block, declShr := b.declShr.filter fun k => k != block }
  match l.brand? x, op with
  | none, 2 => l
  | none, _ =>
    let b : Brand := { line := x, owner := if op = 0 then some block else none, shared := op == 1, declOwn := [], declShr := [], image := cp }
    { l with brands := f b :: l.brands }
  | some _, _ => { l with brands := l.brands.map fun y => if y.line == x then f y else y }

/-- The lines of a lane's declaration: the physical lines, or the failed translations (R377); where the declaration keeps the line at CP
(`image`), a line that cannot be decoded fails as an access to it does (R127, R372). -/
def State.brandLines (s : State) (image : Bool) (v : Nat) (va : VAddr) (n : Nat) : List Nat × List (Nat × Nat × VAddr) :=
  let base := va - BitVec.ofNat 64 (va.toNat % 128)
  (List.range n).foldl (fun acc i =>
    let a := base + BitVec.ofNat 64 (128 * i)
    match s.translate v a .write with
    | .ok pa => if image && s.undecodable (lineOf pa) then (acc.1, acc.2 ++ [(12, kindWrite, a)]) else (acc.1 ++ [lineOf pa], acc.2)
    | .error e => (acc.1, acc.2 ++ [(e, kindWrite, a)])) ([], [])

/-- BRAND (R377). -/
def execBrand (m : Mods) (f : RForm) (s : State) : Res :=
  issue (.brand m f) s fun c s =>
    let key := s.keyOf c.team
    let ls := s.storing c f.g
    let count (l : Nat) : Nat := (s.rdV c.team c.group l f.b.toNat).toNat
    let above := maskOf fun l => ls.contains l && decide (65536 < count l)
    let image := m.clsField 0 2 != 2
    if !(s.launchOf c.team).lrec.det then illegalAct c
    else if above != 0 then .fault { cls := 1, mask := above }
    else
      let each := ls.map fun l => (l, s.brandLines image (s.vdevOf c.team) (s.pairV c l f.a.toNat) (count l))
      match firstFault kindWrite (each.filterMap fun p => match [4, 3, 12].findSome? fun k => p.2.2.find? fun q => q.1 == k with
          | some q => some (p.1, q.1, q.2.2)
          | none => none) with
      | some e => accessFault c (each.flatMap fun p => p.2.2.filterMap fun q =>
          if q.1 == 12 then some ({ lane := p.1, va := q.2.2, size := 128 } : Req) else none) e
      | none =>
        .done (each.foldl (fun s p => p.2.1.foldl (fun s x =>
          let s1 := if image then s.prepLine x else s
          (s1.modLaunch key fun l => l.declare (m.clsField 0 2) (s.lane c.team c.group p.1).home.1 x (s1.cpLine x)).spillBrand key x) s) s)

/-- What an arrival at PHASE waits for (R378). -/
def State.arrivalConds (s : State) (c : Cur) (sc : Scope) : List Cond :=
  [.gathered, .sqEmpty] ++ releaseConds sc ++
    [.entriesDone ((s.entries.filter fun e => e.team == c.team && e.groups.contains c.group).map fun e => e.id)]

/-- The barrier at which a waiting path has arrived. -/
def WaitRec.phase? (w : WaitRec) : Option Nat := w.conds.findSome? fun k => match k with | .serialTaken n => some n | _ => none

/-- PHASE (R378): gather and arrive, wait for the serial phase, leave. -/
def execPhase (m : Mods) (f : RForm) (s : State) : Res :=
  issue (.phase m f) s fun c s =>
    let sc := m.scopeD .device
    let l := s.launchOf c.team
    let park := parkReg (s.rdS c f.a.toNat)
    if !l.lrec.det then illegalAct c
    else groupUniform c s <|
      match ((s.recorded c).bind WaitRec.phase?).or (s.group c.team c.group).phased with
      | some n =>
        s.need c [.serialTaken n] [] park <|
          .done ((s.modGroup c.team c.group fun g => { g with phased := if g.phased == some n then none else g.phased }).acquire c.core sc)
      | none =>
        s.need c (s.arrivalConds c sc) [] none <|
          let w : WaitRec := { conds := [.serialTaken l.phases], snap := [], since := (s.core c.core).cycle, park := park }
          .moved ((s.modGroup c.team c.group fun g => { g with phased := some l.phases }).mapLanes c.team c.group c.act fun _ ln =>
            { ln with wait := some w }) .waiting

/-- Every group of every block that has not ended has arrived (R378). -/
def State.allPhased (s : State) (l : Launch) : Bool :=
  let teams := s.teams.filter fun t => t.launch == l.key && (match t.origin with | .grid .. => true | _ => false)
  decide (l.lrec.gridSize ≤ l.nextTeam) && teams.all fun t => t.place == .ended || t.groups.all fun g => g.ended || g.phased == some l.phases

/-- Some group has arrived at the barrier that is next. -/
def State.somePhased (s : State) (l : Launch) : Bool :=
  s.teams.any fun t => t.launch == l.key && t.place != .ended && t.groups.any fun g => g.phased == some l.phases

/-- Apply one deferred access at CP (R86). -/
def State.applyDef (s : State) (o : DefOp) : State :=
  let byLine (s : State) (cells : List Host.Cell) : State :=
    ((cells.map fun c => lineOf c.1).eraseDups).foldl (fun s x => s.cpWrite x (cells.filter fun c => lineOf c.1 == x)) s
  match o with
  | .write cells whole => (byLine s cells).clearErr (lineOf (cells.headD (0, 0)).1) whole
  | .atom a n op b => let s1 := s.prepLine (lineOf a); byLine s1 (cellsAt a (leBytes n (op.apply n (leNat (Memory.read s1.mem a n)) b)))
  | .blend a fmt eq src =>
    let s1 := s.prepLine (lineOf a)
    byLine s1 (cellsAt a (leBytes (pixelBytes fmt) (blendPixel fmt eq (leNat (Memory.read s1.mem a (pixelBytes fmt))) src)))

/-- The lines of a deferred access. -/
def DefOp.lines : DefOp → List Nat
  | .write cells _ => (cells.map fun c => lineOf c.1).eraseDups
  | .atom a _ _ _ | .blend a _ _ _ => [lineOf a]

/-- The order of the serial phase: by block, then within the block, then as deferred (R86, R376). -/
def Deferred.before (a b : Deferred) : Bool :=
  if a.key.1 ≠ b.key.1 then decide (a.key.1 < b.key.1)
  else if a.key.2.1 ≠ b.key.2.1 then decide (a.key.2.1 < b.key.2.1)
  else if a.key.2.2 ≠ b.key.2.2 then decide (a.key.2.2 < b.key.2.2)
  else decide (a.seq < b.seq)

/-- A brand as it stands after a serial phase: what BRAND declared persists, what writing gained is cleared (R376). -/
def Brand.next (b : Brand) (image : List Byte) : Option Brand :=
  if b.declShr.isEmpty && b.declOwn.isEmpty then none
  else some { b with image := image
                     owner := if b.declShr.isEmpty then b.declOwn.head? else none
                     shared := !b.declShr.isEmpty || decide (1 < b.declOwn.length) }

/-- Every write of a launch has reached CP or a buffer, and every fabric operation has been delivered (R389). -/
def State.writesGone (s : State) (l : Launch) : Bool :=
  let ids := (s.teams.filter fun t => t.launch == l.key).map fun t => t.id
  !(s.cores.any fun k => k.cv.any fun y => y.pend.any fun w => ids.contains w.team) && !(s.entries.any fun e => ids.contains e.team) &&
    !(s.fq.any fun o => ids.contains o.team) && !(s.feedback.any fun f => ids.contains f.team) && l.blends.isEmpty

end Branding

section FormatMoves

/-- DECODE (R374): CP holds no value for the line, and every record decodes. -/
def execDecode (y : Nat) (s : State) : Res :=
  .next (if (s.regionOf y).isNone || s.decoded.any (fun p => p.1 == y) || s.decodeBad y then s else s.decodeLine y)

/-- ENCODE (R374): the line has dirty records and is not owned. -/
def execEncode (y : Nat) (s : State) : Res :=
  .next (if s.ownedKey (.mem y) || !(s.decoded.any fun p => p.1 == y && p.2.contains true) then s else s.encodeLine y)

/-- DECODED_LINE_DROP (R374): the line is clean and not owned. -/
def execDecodedLineDrop (y : Nat) (s : State) : Res :=
  .next (if s.ownedKey (.mem y) || !(s.decoded.any fun p => p.1 == y && !p.2.contains true) then s else s.dropLine y)

/-- The line lies in a packed window. -/
def State.packedLine (s : State) (x : Nat) : Bool :=
  s.fmtRegs.any fun r => r.fmt != 0 && decide (r.pbase < 128 * x + 128) && decide (128 * x < r.pbase + r.nrec * recBytes r.fmt)

/-- PACKED_ACCESS (R374): a core's access to a packed line, once every decoded line over it is encoded and dropped: the oldest write
of its view to the line, or a refresh. -/
def execPackedAccess (core x : Nat) (s : State) : Res :=
  .next (if !s.packedLine x || !(s.packedOver x).isEmpty || s.owned (.mem x) then s
         else if ((s.core core).line x).pend.isEmpty then s.refreshLine core x else s.propagateLine core x)

end FormatMoves

section ErrorLines

/-- The slice has also corrected errors in place since it was last looked at, as many as there were; it counts them (R363). Only management
reads the counter, and no request of R444 does (log entry 80). -/
def State.countErrors (s : State) (sl : Nat) : State :=
  let n := match s.errCounts.find? fun p => p.1 == sl with | some p => p.2 | none => 0
  { s with errCounts := (sl, n + (Config.freeWord s.tick).toNat) :: s.errCounts.filter fun p => p.1 != sl }

/-- MEMORY_ERROR_DETECT (R363, R453): the line enters its slice's table of 32 line entries, or its page as a page entry. -/
def execMemoryErrorDetect (x : Nat) (s : State) : Res :=
  let k := physKind (128 * x)
  if k == .reserved || k == .window then .next s
  else
    let sl := homeSlice x
    let s1 := (s.countErrors sl).logUnit (0x800 + sl) 2 none [BitVec.ofNat 32 (128 * x), BitVec.ofNat 32 (128 * x / 2 ^ 32)]
    .next (if s.errHit x then s1
      else if (s.errLines.filter fun y => homeSlice y == sl).length < 32 then { s1 with errLines := x :: s1.errLines }
      else { s1 with errPages := x / 512 :: s1.errPages })

end ErrorLines

end Sys2Proof.Machine
end

