-- ==== Sys2Proof/Machine/Pens.lean ====
section
/-!
DEFINITION. Graphs: pen and board tables, the board area, pens and their formation, the Offer, and the settle rule
(25_shepherd_graphs R398-R405, R409, R414).
-/
namespace Sys2Proof.Machine
open Sys2Proof

section Tables

/-- A pen-table entry (R399). -/
structure PenEntry where
  entry : Word
  size  : Nat
  cnt   : Nat
  role  : Bool
  v     : Bool
  timer : Nat
  ovfsz : Nat
  ovf   : VAddr
  s     : List Word
  /-- the fields lie in their ranges and the reserved bits are 0 (R401) -/
  ok    : Bool
  deriving DecidableEq, Repr, Inhabited

/-- Registers that a record fills (R405). -/
def PenEntry.regs (p : PenEntry) : Nat := (p.size + 3) / 4

/-- Read the 64 bytes of a pen-table entry (R399, R401). -/
def penEntry (l : LaunchRec) (bs : List Byte) : PenEntry :=
  let w := leNat (bs.take 64)
  let size := fld w 32 8 + 1
  let cnt := fld w 40 6
  let ovfsz := fld w 96 32
  let ovf := fld w 128 64
  { entry := BitVec.ofNat 32 (fld w 0 32), size := size, cnt := cnt, role := w.testBit 46, v := w.testBit 47
    timer := fld w 64 32, ovfsz := ovfsz, ovf := BitVec.ofNat 64 ovf
    s := (List.range 8).map fun j => BitVec.ofNat 32 (fld w (256 + 32 * j) 32)
    ok := decide (1 ≤ cnt) && decide (cnt ≤ 32) && fld w 48 16 == 0 && ovfsz % 64 == 0 && ovf % 64 == 0 &&
      (ovf != 0 || ovfsz == 0) && fld w 192 64 == 0 && decide ((size + 3) / 4 ≤ (l.budget (w.testBit 46)).1) }

/-- A subscription of a board (R400). -/
structure Sub where
  pen  : Nat
  mode : Bool
  qen  : Bool
  sv   : Bool
  q    : Word
  deriving DecidableEq, Repr, Inhabited

/-- A board-table definition (R400). -/
structure BoardEntry where
  area  : VAddr
  ntile : Nat
  v     : Bool
  subs  : List Sub
  ok    : Bool
  deriving DecidableEq, Repr, Inhabited

/-- Read the 64 bytes of a board definition (R400, R401). -/
def boardEntry (bs : List Byte) : BoardEntry :=
  let w := leNat (bs.take 64)
  let sub (u : Nat) : Sub :=
    { pen := fld w (128 + 64 * u) 4, mode := w.testBit (132 + 64 * u), qen := w.testBit (133 + 64 * u)
      sv := w.testBit (135 + 64 * u), q := BitVec.ofNat 32 (fld w (160 + 64 * u) 32) }
  let ntile := fld w 64 32
  { area := BitVec.ofNat 64 (fld w 0 64), ntile := ntile, v := w.testBit 96, subs := (List.range 4).map sub
    ok := fld w 0 6 == 0 && decide (1 ≤ ntile) && decide (ntile ≤ 2 ^ 24) && fld w 97 31 == 0 && fld w 384 128 == 0 &&
      (List.range 4).all fun u => !w.testBit (134 + 64 * u) && fld w (136 + 64 * u) 24 == 0 }

/-- Entry i of a table of 64-byte blocks as a use reads it: a held copy, or the table as it stands (R229, R401). -/
def State.tableRaw (s : State) (vdev : Nat) (base : VAddr) (copies : List (List Byte)) (purpose i : Nat) : List Byte :=
  let held := rd copies i
  if !held.isEmpty && s.flip purpose i then held
  else (s.ctlRead vdev (base + BitVec.ofNat 64 (64 * i)) 64).getD held

/-- What a use of the pen table reads (R401): the state after it and the entries; one that is not in force has V clear. -/
def State.usePens (s : State) (key : Nat) : State × (Nat → PenEntry) :=
  match s.launch? key with
  | none => (s, fun _ => default)
  | some l =>
    if l.lrec.pent == 0 then (s, fun _ => default)
    else
      let s0 := s.tablePrep l.vdev l.lrec.pent fun i => (rd l.penTab i).isEmpty || !s.flip 3 i
      let raws := (List.range 16).map (s0.tableRaw l.vdev l.lrec.pent l.penTab 3)
      let es := raws.map (penEntry l.lrec)
      (s0.modLaunch key fun l => { l with penTab := raws }, fun i => { rd es i with v := (rd es i).v && (rd es i).ok })

/-- What a use of the board table reads (R401). -/
def State.useBoards (s : State) (key : Nat) : State × (Nat → BoardEntry) :=
  match s.launch? key with
  | none => (s, fun _ => default)
  | some l =>
    if l.lrec.boardt == 0 then (s, fun _ => default)
    else
      let s0 := s.tablePrep l.vdev l.lrec.boardt fun i => (rd l.boardTab i).isEmpty || !s.flip 4 i
      let raws := (List.range 16).map (s0.tableRaw l.vdev l.lrec.boardt l.boardTab 4)
      let es := raws.map boardEntry
      (s0.modLaunch key fun l => { l with boardTab := raws }, fun i => { rd es i with v := (rd es i).v && (rd es i).ok })

end Tables

section Boards

/-- A tile word (R402). -/
def tileWord (b t : Nat) : Word := BitVec.ofNat 32 (t % 2 ^ 24 + b % 16 * 2 ^ 24)

/-- VER, FINAL and STOPPED as VCHK gives them (R412). -/
def Tile.stateWord (t : Tile) : Word :=
  BitVec.ofNat 32 (t.ver % 2 ^ 16 + (if t.final then 2 ^ 16 else 0) + (if t.stopped then 2 ^ 17 else 0))

/-- A board entry's 32 bytes (R402). -/
def Tile.entryBytes (t : Tile) : List Byte :=
  bytesOf [tileWord t.board t.tile, t.stateWord, t.qual, t.data.extractLsb' 0 32, t.data.extractLsb' 32 32, t.prod, 0, 0]

/-- A subscription record's 32 bytes (R402). -/
def Tile.subBytes (t : Tile) : List Byte :=
  bytesOf ((List.range 4).flatMap fun u => let x := rd t.subs u; [BitVec.ofNat 32 (x.dver % 2 ^ 16 + x.aver % 2 ^ 16 * 2 ^ 16), x.dqual])

/-- Put a tile's state. -/
def Launch.setTile (l : Launch) (t : Tile) : Launch :=
  { l with tiles := t :: l.tiles.filter fun x => !(x.board == t.board && x.tile == t.tile) }

/-- Apply f to a tile of a launch. -/
def State.modTile (s : State) (key b t : Nat) (f : Tile → Tile) : State := s.modLaunch key fun l => l.setTile (f (l.tile b t))

/-- Write every entry and record of the boards in force to their areas (R402): at acceptance the reset values, at completion what
stands; lines that cannot be written are left. -/
def State.writeBoards (s : State) (l : Launch) (boards : Nat → BoardEntry) : State :=
  (List.range 16).foldl (fun s b =>
    let e := boards b
    if !e.v then s
    else (List.range e.ntile).foldl (fun s t =>
      let x := l.tile b t
      let s1 := (s.partWrite l.vdev (e.area + BitVec.ofNat 64 (32 * t)) x.entryBytes).1
      (s1.partWrite l.vdev (e.area + BitVec.ofNat 64 (32 * e.ntile + 32 * t)) x.subBytes).1) s) s

end Boards

section PenRecords

/-- Bytes of a record in its slice (R403). -/
def penBytes (r : PenRec) : Nat := (r.data.length + 15) / 16 * 16 + 16

/-- The slice of a pen, one of 256 (R3, R403). -/
def penHome (v i : Nat) : Nat := Config.penSlice v i % 256

/-- Bytes of pen records that a slice holds, of every context (R403). -/
def State.penUse (s : State) (slice : Nat) : Nat :=
  s.launches.foldl (fun n l => (List.range 16).foldl (fun n i =>
    if penHome l.vdev i = slice then (rd l.pens i).foldl (fun n r => if r.ovf.isNone then n + penBytes r else n) n else n) n) 0

/-- The places taken in a pen's overflow area. -/
def Launch.penOvf (l : Launch) (i : Nat) : List (Nat × Nat) := (rd l.pens i).filterMap fun r => r.ovf.map fun o => (o, penBytes r)

/-- Append a record to pen i (R403): in the pen's slice, else in its overflow area; nowhere also when the pen is not in force (R409). An area that
cannot be translated, written or decoded has no room, and one at a reserved range is R12's (DESIGN CHOICE, log entry 141). -/
def State.placePen (s : State) (key i : Nat) (e : PenEntry) (r : PenRec) : Placing :=
  match s.launch? key with
  | none => .nowhere s
  | some l =>
    let put (s : State) (r : PenRec) : State := s.modLaunch key fun l => { l with pens := wr l.pens i (rd l.pens i ++ [r]) }
    if !e.v then .nowhere s
    else if s.penUse (penHome l.vdev i) + penBytes r ≤ 65536 then .put (put s r)
    else match firstFit (l.penOvf i) (penBytes r) e.ovfsz with
    | none => .nowhere s
    | some o =>
      let va := e.ovf + BitVec.ofNat 64 o
      if s.barred l.vdev va r.data.length then .barred va
      else
        let w := s.partWrite l.vdev va r.data
        if w.2 then .put (put w.1 { r with ovf := some o }) else .nowhere w.1

/-- The bytes of a held record. -/
def State.penData (s : State) (vdev : Nat) (e : PenEntry) (r : PenRec) : List Byte :=
  match r.ovf with
  | some o => s.partRead vdev (e.ovf + BitVec.ofNat 64 o) r.data.length
  | none => r.data

/-- What comes before the part reads records back from a pen's overflow area (R372, R374). -/
def State.penPrep (s : State) (vdev : Nat) (e : PenEntry) (rs : List PenRec) : State :=
  rs.foldl (fun s r => match r.ovf with | some o => s.partPrep vdev (e.ovf + BitVec.ofNat 64 o) r.data.length | none => s) s

/-- Form pen i once (R404, R405): its oldest records, at most CNT, become a team. -/
def State.formPen (s : State) (key i : Nat) (e : PenEntry) : State :=
  match s.launch? key with
  | none => s
  | some l =>
    let recs := rd l.pens i
    let n := min e.cnt recs.length
    if n = 0 then s
    else
      let s0 := s.penPrep l.vdev e (recs.take n)
      let lanes := ((List.range n).zip (recs.take n)).map fun p =>
        (wordsOf ((p.2.data.length + 3) / 4) (s0.penData l.vdev e p.2), (l.lrec.gridSize + i, 0, p.1))
      let s1 := s0.modLaunch key fun l => { l with pens := wr l.pens i (recs.drop n) }
      s1.formTeam l e.role (.pen i) e.entry (e.s ++ [BitVec.ofNat 32 i, BitVec.ofNat 32 n]) lanes

end PenRecords

section Offers

/-- The q test fails (R409): the product is exact and NaN compares false. -/
def declines (qual q dqual : Word) : Bool :=
  let p := ((f32 q.toNat).mul (f32 dqual.toNat)).1
  let x := f32 qual.toNat
  x.isNan || p.isNan || p.lt x

/-- Offer (R409) of a tile's current version to subscription u, up to the formation that it may bring on. A record that would go to a reserved
range is not placed, and its address is answered (R12). -/
def State.offerRec (s : State) (key : Nat) (pens : Nat → PenEntry) (boards : Nat → BoardEntry) (b t u : Nat) : State × Option VAddr :=
  match s.launch? key with
  | none => (s, none)
  | some l =>
    let e := l.tile b t
    let sub := rd (boards b).subs u
    let st := rd e.subs u
    let setSub (f : SubState → SubState) (x : Tile) : Tile := { x with subs := wr x.subs u (f (rd x.subs u)) }
    let taken (s : State) : State := s.modTile key b t (setSub fun _ => { dver := e.ver, aver := e.ver, dqual := e.qual })
    if !e.final && decide (0 < st.dver) && sub.qen && declines e.qual sub.q st.dqual then
      (s.modTile key b t (setSub fun x => { x with aver := e.ver }), none)
    else
      let pe := pens sub.pen
      let data := (bytesOf [tileWord b t, e.stateWord, e.qual, BitVec.ofNat 32 u] ++ List.replicate pe.size 0).take pe.size
      let src : Nat × Nat × Nat := (b, t, u)
      let old := (rd l.pens sub.pen).find? fun r => r.src == some src
      match sub.mode && pe.v, old with
      | true, some r =>
        let put (s1 : State) : State := taken (s1.modLaunch key fun l => { l with
          pens := wr l.pens sub.pen ((rd l.pens sub.pen).map fun x => if x.src == some src then { x with data := data } else x) })
        match r.ovf with
        | none => (put s, none)
        | some o =>
          let va := pe.ovf + BitVec.ofNat 64 o
          if s.barred l.vdev va data.length then (s, some va) else (put (s.partWrite l.vdev va data).1, none)
      | _, _ => match s.placePen key sub.pen pe { data := data, src := some src, ovf := none } with
        | .put s1 => (taken s1, none)
        | .nowhere s1 => (s1, none)
        | .barred va => (s, some va)

/-- The deliveries owed to pen i (R404, R409), in increasing (board, tile, subscription) order. -/
def Launch.owedTo (l : Launch) (boards : Nat → BoardEntry) (i : Nat) : List (Nat × Nat × Nat) :=
  let all := l.tiles.flatMap fun e => ((List.range 4).filter fun u =>
    (boards e.board).v && (rd (boards e.board).subs u).sv && (rd (boards e.board).subs u).pen == i && (rd e.subs u).aver != e.ver).map
      fun u => (e.board, e.tile, u)
  sortBy (fun (a b : Nat × Nat × Nat) => decide (a.1 < b.1) || (a.1 == b.1 && (decide (a.2.1 < b.2.1) ||
    (a.2.1 == b.2.1 && decide (a.2.2 < b.2.2))))) all

/-- Subscription u of a tile has dealt with its current version (R402). -/
def Launch.dealt (l : Launch) (b t u : Nat) : Bool := (rd (l.tile b t).subs u).aver == (l.tile b t).ver

/-- Offer a version that is still to be dealt with (R404, R409). -/
def State.offerOwed (s : State) (key : Nat) (pens : Nat → PenEntry) (boards : Nat → BoardEntry) (b t u : Nat) : State × Option VAddr :=
  match s.launch? key with
  | some l => if l.dealt b t u then (s, none) else s.offerRec key pens boards b t u
  | none => (s, none)

/-- The retry of an owed delivery: one that would go to a reserved range stays owed, its group having gone on (R404, R409; log entry 141). -/
def State.retry (s : State) (key : Nat) (pens : Nat → PenEntry) (boards : Nat → BoardEntry) (o : Nat × Nat × Nat) : State :=
  (s.offerOwed key pens boards o.1 o.2.1 o.2.2).1

/-- Form pen i while it holds CNT records, and after each formation retry what is owed to it (R404). `n` bounds the depth: each
round takes records that the pen holds or a delivery that was owed. -/
def State.tendPen (key : Nat) (pens : Nat → PenEntry) (boards : Nat → BoardEntry) (i : Nat) : Nat → State → State
  | 0, s => s
  | n + 1, s =>
    match s.launch? key with
    | none => s
    | some l =>
      if !(pens i).v || decide ((rd l.pens i).length < (pens i).cnt) then s
      else
        State.tendPen key pens boards i n <|
          (l.owedTo boards i).foldl (fun s o => State.tendPen key pens boards i n (s.retry key pens boards o))
            (s.formPen key i (pens i))

/-- A bound on the rounds of a launch's pens. -/
def Launch.penFuel (l : Launch) : Nat := 4 * l.tiles.length + (l.pens.foldl (fun n p => n + p.length) 0) + 64

/-- A pen after records have been placed in it, in the same step (R404). -/
def State.tend (s : State) (key : Nat) (pens : Nat → PenEntry) (boards : Nat → BoardEntry) (i : Nat) : State :=
  match s.launch? key with
  | some l => State.tendPen key pens boards i l.penFuel s
  | none => s

/-- Form pen i whatever it holds, and retry what is owed to it (R404). -/
def State.flushPen (s : State) (key : Nat) (pens : Nat → PenEntry) (boards : Nat → BoardEntry) (i : Nat) : State :=
  match s.launch? key with
  | none => s
  | some l =>
    (l.owedTo boards i).foldl (fun s o => (s.retry key pens boards o).tend key pens boards i) (s.formPen key i (pens i))

/-- Offer every subscription in force of a tile, in increasing u (R409): a board's subscriptions are those of each of its tiles (R400,
R402; log entry 90). One that a retry within the step has dealt with is not offered again. The first address of a reserved range that a record of
the tile would go to is answered (R12). -/
def State.offerAll (s : State) (key : Nat) (pens : Nat → PenEntry) (boards : Nat → BoardEntry) (b t : Nat) : State × Option VAddr :=
  (List.range 4).foldl (fun acc u =>
    let sub := rd (boards b).subs u
    if sub.sv then let r := acc.1.offerOwed key pens boards b t u; (r.1.tend key pens boards sub.pen, acc.2.or r.2) else acc) (s, none)

/-- The owed deliveries to pens that a use of the table finds in force again are retried (R409; log entry 77). -/
def State.retryOwed (s : State) (key : Nat) (pens : Nat → PenEntry) (boards : Nat → BoardEntry) : State :=
  let back (l : Launch) (i : Nat) : Bool := (pens i).v && !rd l.penLive i
  ((List.range 16).foldl (fun s i =>
    match s.launch? key with
    | none => s
    | some l => if !back l i then s
      else (l.owedTo boards i).foldl (fun s o => (s.retry key pens boards o).tend key pens boards i) s) s).modLaunch key
    fun l => { l with penLive := (List.range 16).map fun i => (pens i).v }

end Offers

section Areas

/-- The tables of a launch and the overflow areas of its pens and folds, as its held tables give them (R348, R352, R399, R400, R403). -/
def Launch.graphAreas (l : Launch) : List (VAddr × Nat) :=
  let tab (a : VAddr) : List (VAddr × Nat) := if a == 0 then [] else [(a, 1024)]
  l.lrec.foldAreas ++ tab l.lrec.pent ++ tab l.lrec.boardt ++
    (l.penTab.map (penEntry l.lrec)).filterMap fun e => if e.v then some (e.ovf, e.ovfsz) else none

/-- The areas of the boards in force (R402). -/
def boardAreas (boards : Nat → BoardEntry) : List (VAddr × Nat) :=
  (List.range 16).filterMap fun b => if (boards b).v then some ((boards b).area, 64 * (boards b).ntile) else none

/-- What an instruction that uses the tables of a graph waits for (R17). -/
def State.graphFree (s : State) (key : Nat) : List Cond :=
  match s.launch? key with
  | some l => l.graphAreas.map fun a => .rangeFree a.1 a.2
  | none => []

end Areas

section Settling

/-- The settle rule (R414), for a launch whose teams have all ended (condition 3). -/
def State.settled (s : State) (l : Launch) (boards : Nat → BoardEntry) : Bool :=
  s.noTeams l && l.bins.isEmpty && l.pens.all List.isEmpty &&
    (List.range 16).all fun b =>
      let e := boards b
      let ts := l.tiles.filter fun t => t.board == b && decide (t.tile < e.ntile)
      !e.v || ((ts.filter fun t => t.final || t.stopped).length == e.ntile &&
        ts.all fun t => (List.range 4).all fun u => !(rd e.subs u).sv || (rd t.subs u).aver == t.ver)

/-- PEN_TIMER_EXPIRY (R404, R379): TIMER cycles of the slice have passed since the oldest record arrived. -/
def execPenTimerExpiry (key i : Nat) (s : State) : Res :=
  match s.launch? key with
  | none => .next s
  | some l =>
    if l.lrec.det || (rd l.pens i).isEmpty || !s.areasFree l.vdev l.graphAreas then .next s
    else
      let p := s.usePens key
      let b := p.1.useBoards key
      let e := p.2 i
      let s1 := b.1.retryOwed key p.2 b.2
      .next (if !e.v || e.timer = 0 then s1 else s1.flushPen key p.2 b.2 i)

/-- Form every pen, in increasing index, each until it is empty (R404). -/
def State.drainPens (key : Nat) (pens : Nat → PenEntry) (boards : Nat → BoardEntry) (i : Nat) : Nat → State → State
  | 0, s => s
  | n + 1, s =>
    match s.launch? key with
    | none => s
    | some l => if (rd l.pens i).isEmpty then s else State.drainPens key pens boards i n (s.flushPen key pens boards i)

/-- GRAPH_DRAIN (R404): no group of the launch is left and every fold bin is empty. What a pen no longer in force still holds is
formed under the entry as it stands. A delivery that was owed while its pen was not in force is retried first (R409). -/
def execGraphDrain (key : Nat) (s : State) : Res :=
  match s.launch? key with
  | none => .next s
  | some l =>
    if l.lrec.pent == 0 || !l.bins.isEmpty || !s.noTeams l || !s.areasFree l.vdev l.graphAreas then .next s
    else
      let p := s.usePens key
      let b := p.1.useBoards key
      let s1 := b.1.retryOwed key p.2 b.2
      .next (if !s1.noTeams l then s1 else (List.range 16).foldl (fun s i =>
        match s.launch? key with
        | some l => State.drainPens key p.2 b.2 i l.penFuel s
        | none => s) s1)

end Settling

end Sys2Proof.Machine
end

