-- ==== Sys2Proof/Machine/Accept.lean ====
section
/-!
DEFINITION. Launch records, the tests of acceptance, numbering and dependences, and completions (24_shepherd_launch R381-R384,
R392, R396; 25_shepherd_graphs R401).
-/
namespace Sys2Proof.Machine
open Sys2Proof

section Records

/-- Bits of the record that must be 0 (R381): offset and width. -/
def recordRsvd : List (Nat × Nat) :=
  [(152, 8), (167, 1), (175, 1), (183, 1), (191, 1), (216, 8), (248, 8), (280, 8), (426, 22), (478, 2), (736, 32), (1056, 32), (1408, 128)]

/-- Read the 256 bytes of a launch record (R381). -/
def parseRecord (bs : List Byte) : LaunchRec :=
  let w := leNat (bs.take 256)
  let b64 (lo : Nat) : BitVec 64 := BitVec.ofNat 64 (fld w lo 64)
  let w32 (lo : Nat) : Word := BitVec.ofNat 32 (fld w lo 32)
  { code := b64 0, trape := w32 64, prio := fld w 96 3, det := w.testBit 99, strict := w.testBit 100, drove := w.testBit 101
    errdep := w.testBit 102, notify := w.testBit 103, gm1 := fld w 104 3, lm1 := fld w 107 3, roles := BitVec.ofNat 8 (fld w 110 8)
    tags := fld w 118 7, scr := fld w 125 3, pv := fld w 128 3, pm := fld w 131 2, pc := fld w 133 3
    cv := fld w 136 3, cm := fld w 139 2, cc := fld w 141 3, tscr := fld w 144 8
    twins := (List.range 4).map fun t => BitVec.ofNat 8 (fld w (160 + 8 * t) 8)
    gx := fld w 192 24 + 1, gy := fld w 224 24 + 1, gz := fld w 256 24 + 1
    deps := (List.range 4).map fun i => fld w (288 + 32 * i) 32
    drvid := fld w 416 4, drvn := fld w 420 6 + 1, w := fld w 448 14 + 1, h := fld w 462 14 + 1, spat := fld w 476 2
    mbudget := w32 480, mpc := b64 512, foldt := b64 576, fovf := b64 640, fovfsz := fld w 704 32
    pent := b64 768, boardt := b64 832, ring := b64 896, branda := b64 960, brandsz := fld w 1024 32
    seed := (List.range 8).map fun i => w32 (1088 + 32 * i), drvlist := b64 1344
    args := (List.range 16).map fun i => w32 (1536 + 32 * i)
    rsvd := recordRsvd.any fun q => fld w q.1 q.2 != 0 }

end Records

section Room

/-- Words, closure registers and group slots that a group of a role takes (R102). -/
def LaunchRec.groupNeed (l : LaunchRec) (consumer : Bool) : Nat × Nat :=
  let b := l.budget consumer
  (32 * (b.1 + 2 * b.2.1), 32 * b.2.2)

/-- The roles of a grid team's groups. -/
def LaunchRec.roleList (l : LaunchRec) : List Bool := (List.range (l.gm1 + 1)).map fun g => l.roles.getLsbD g

/-- What a team of groups of these roles takes from a core (R25, R102, R386): group slots, words, closure registers, tags and bytes
of scratchpad. -/
def LaunchRec.teamNeed (l : LaunchRec) (roles : List Bool) : Nat × Nat × Nat × Nat × Nat :=
  let ns := roles.map l.groupNeed
  (roles.length, ns.foldl (fun n x => n + x.1) 0, ns.foldl (fun n x => n + x.2) 0, l.tags, l.tscr * 4096)

/-- An empty core holds it. -/
def needFits (n : Nat × Nat × Nat × Nat × Nat) (scr : Nat) : Bool :=
  decide (n.1 ≤ 64) && decide (n.2.1 ≤ 131072) && decide (n.2.2.1 ≤ 768) && decide (n.2.2.2.1 ≤ 64) &&
    decide (n.2.2.2.2 ≤ scr * 131072)

/-- Bytes of a team's context area (R428). -/
def LaunchRec.areaSize (l : LaunchRec) (roles : List Bool) : Nat :=
  roles.foldl (fun n r => let b := l.budget r; n + 53248 + 128 * b.1 + 256 * b.2.1 + 8192 * b.2.2) (4096 + 4096 * l.tscr + 2097152)

/-- A partition-table entry. -/
def State.part? (s : State) (i : Nat) : Option Partition := (s.parts.find? fun p => p.1 == i).map Prod.snd

/-- The clusters on which a partition places teams (R432, R435): its own that are not lent, and those lent to it. -/
def State.clustersOf (s : State) (part : Nat) : List Nat :=
  ((match s.part? part with | some p => p.clusters | none => []).filter fun c => !(s.lent.any fun q => q.cluster == c)) ++
    (s.lent.filter fun q => q.borrower == part).map Loan.cluster

/-- The partition of a virtual device. -/
def State.partOf (s : State) (v : Nat) : Nat := match s.vdev? v with | some d => d.cfg.part | none => 0

end Room

section Tests

/-- The 16 blocks of a table as acceptance reads them (R382, R401): none when it is misaligned or cannot be read. -/
def State.readTable (s : State) (v : Nat) (base : VAddr) : Option (List (List Byte)) :=
  if base.toNat % 64 ≠ 0 then none
  else (List.range 16).foldr (fun i acc =>
    match acc, s.ctlRead v (base + BitVec.ofNat 64 (64 * i)) 64 with
    | some l, some b => some (b :: l)
    | _, _ => none) (some [])

/-- A twin entry breaks R103 or R382. -/
def LaunchRec.twinBad (l : LaunchRec) : Bool :=
  let ts := (l.twins.filter fun t => t.getLsbD 6).map fun t => ((t.extractLsb' 0 3).toNat, (t.extractLsb' 3 3).toNat)
  let all := ts.flatMap fun t => [t.1, t.2]
  (!ts.isEmpty && (l.pv != 7 || l.cv != 7)) || all.eraseDups.length != all.length ||
    ts.any fun t => decide (l.gm1 < t.1) || decide (l.gm1 < t.2) || l.roles.getLsbD t.1 || !l.roles.getLsbD t.2

/-- A fold table has an entry in force that is invalid or overlaps another (R348, R382). -/
def foldsBad (l : LaunchRec) (tab : List (List Byte)) : Bool :=
  let es := tab.map (foldEntry l.foldBudget)
  (List.range 16).any fun i => (rd es i).v && (!(rd es i).ok || (List.range 16).any fun j => j != i && (rd es j).v && (rd es i).clash (rd es j))

/-- Every page of a board area is mapped writable (R401). -/
def State.areaOk (s : State) (v : Nat) (e : BoardEntry) : Bool :=
  let lo := e.area.toNat / 65536
  (List.range ((e.area.toNat + 64 * e.ntile - 1) / 65536 - lo + 1)).all fun i =>
    match s.translate v (e.area - BitVec.ofNat 64 (e.area.toNat % 65536) + BitVec.ofNat 64 (65536 * i)) .write with
    | .ok _ => true
    | .error _ => false

/-- The graph's tables are refused (R401). -/
def State.graphBad (s : State) (v : Nat) (l : LaunchRec) (pens boards : List (List Byte)) : Bool :=
  let ps := pens.map (penEntry l)
  let bs := boards.map boardEntry
  let subBad (u : Sub) : Bool := u.sv && (!(rd ps u.pen).v || decide ((rd ps u.pen).size < 16))
  (ps.any fun p => p.v && !p.ok) || bs.any fun b => b.v && (!b.ok || b.subs.any subBad || !s.areaOk v b)

/-- Whether a launch record comes from a host, from a program, or as a drove member's copy. -/
inductive Source where
  | host
  | device
  | member (members : List Nat) (rank : Nat)
  deriving DecidableEq, Repr, Inhabited

/-- The member list at the leader (R392): DRVN words of the context. -/
def State.droveList (s : State) (v : Nat) (l : LaunchRec) : Option (List Nat) :=
  if l.drvlist == 0 || l.drvlist.toNat % 4 ≠ 0 then none
  else match s.place v ⟨0, l.drvlist, 4 * l.drvn⟩ .read with
  | .error _ => none
  | .ok segs =>
    if segs.any fun q => s.errHit (lineOf q.1) || s.undecodable (lineOf q.1) then none
    else
      let bs := segs.flatMap fun q => Memory.read (s.prepLine (lineOf q.1)).mem q.1 q.2
      some ((wordsOf l.drvn bs).map fun w => w.toNat)

/-- A dependence names the launch's own number or one not yet issued (R382, R384); `no` is the count of numbers issued so far. -/
def depBad (no dep : Nat) : Bool :=
  dep != 0 && (dep == (no - 1) % (2 ^ 32 - 1) + 1 || (decide (no ≤ 2 ^ 32 - 1) && decide (no ≤ dep)))

/-- The member list that came with a drove copy names the part at its rank, and as many members as the record, each by a number of 21 bits
(R6, R382, R392). -/
def membersOk (ms : List Nat) (rank n : Nat) : Bool :=
  ms[rank]? == some deviceNo && ms.length == n && ms.all fun x => decide (x < 2 ^ 21)

/-- The conditions under which the shepherd refuses a launch, in the order of R382; the last is R401's. The words of a member list are device
numbers: 24 bits whose upper three are zero (R6). A team that a pen forms is a team of the launch, of the pen's role; one that a fold forms
takes no more than a grid team (R348, R353). -/
def State.refusals (s : State) (d : Vdev) (l : LaunchRec) (o : Source) : List Bool :=
  let tab (a : VAddr) : Option (List (List Byte)) := if a == 0 then some [] else s.readTable d.id a
  let leader := o == .host && l.drove && (match s.droveList d.id l with
    | some m => m.head? != some deviceNo || m.any fun x => decide (2 ^ 21 ≤ x)
    | none => true)
  let member := match o with | .member ms r => !membersOk ms r l.drvn | _ => false
  let folds := match tab l.foldt with | some f => !f.isEmpty && foldsBad l f | none => false
  let tables := (tab l.foldt).isNone || (tab l.pent).isNone || (tab l.boardt).isNone
  let graph := match tab l.pent, tab l.boardt with | some p, some b => s.graphBad d.id l p b | _, _ => false
  let roles := l.roleList :: (((tab l.pent).getD []).map (penEntry l)).filterMap fun e => if e.v then some [e.role] else none
  [l.rsvd || decide (4 < l.scr), decide (2 ^ (l.gm1 + 1) ≤ l.roles.toNat), decide (64 < l.tags), decide (4 < l.pc) || decide (4 < l.cc),
    decide (32 * l.scr < l.tscr), l.code.getLsbD 0 || !canonical l.code, l.spat == 0 && (l.w != 1 || l.h != 1), l.twinBad, folds,
    l.det && (l.branda == 0 || l.brandsz == 0), o == .device && l.drove, leader, member, l.deps.any (depBad d.launchNo),
    (s.clustersOf d.cfg.part).isEmpty || !needFits (l.teamNeed l.roleList) l.scr, l.ring.toNat % 64 != 0, tables,
    roles.any fun r => decide (d.cfg.poolsz < l.areaSize r), graph]

/-- The refusal of a launch: the number of the first condition that holds, from 1 (R382, R443; log entry 108). -/
def State.refusal (s : State) (d : Vdev) (l : LaunchRec) (o : Source) : Option Nat :=
  ((s.refusals d l o).findIdx? id).map fun n => n + 1

end Tests

section Completing

/-- Bytes of a COMPLETION (R443): launch number, status, and the record when the status is 2. -/
def completionBody (num status : Nat) (r : Option FaultRec) : List Byte :=
  leBytes 4 num ++ leBytes 4 status ++ if status = 2 then (r.getD {}).bytes else []

/-- A launch has completed: dependences see it, and the hub carries it to the host (R383, R384, R396). -/
def State.postCompletion (s : State) (v num status : Nat) (r : Option FaultRec) (host : Bool) : State :=
  let s1 := s.modVdev v fun d => { d with done := (num, status) :: d.done }
  if host then s1.postOut v 0x02 (completionBody num status r) else s1

/-- A dependence as a launch sees it (R384): none while it is not satisfied, else its status; a number older than the window of
4096 counts as satisfied. -/
def Vdev.depStatus (d : Vdev) (num dep : Nat) : Option Nat :=
  if dep = 0 || 4096 < (num + (2 ^ 32 - 1) - dep) % (2 ^ 32 - 1) then some 0
  else (d.done.find? fun p => p.1 == dep).map Prod.snd

/-- What the dependences of a launch say: none while one is not satisfied, else whether one of them fails it. -/
def State.depsMet (s : State) (l : Launch) : Option Bool :=
  match s.vdev? l.vdev with
  | none => none
  | some d =>
    let ds := l.lrec.deps.map (d.depStatus l.num)
    if l.lrec.errdep && ds.any fun x => match x with | some n => n != 0 | none => false then some true
    else if ds.all Option.isSome then some false else none

/-- The launch's teams may be placed (R385, R394). -/
def State.ready (s : State) (l : Launch) : Bool :=
  l.ending.isNone && s.depsMet l == some false &&
    (match l.drv with | some d => d.started | none => true)

end Completing

section Accepting

/-- The bytes of a DROVE message (R392-R394); their layout is this model's (log entry 13). -/
def droveBytes : DroveBody → List Byte
  | .replicate rec ms rank leader lv => [0] ++ leBytes 4 rank ++ leBytes 4 leader ++ leBytes 4 lv ++ rec ++ ms.flatMap (leBytes 4)
  | .ack id n dev g => [1] ++ leBytes 4 id ++ leBytes 4 n ++ leBytes 4 dev ++ leBytes 4 g
  | .refuse id n dev => [2] ++ leBytes 4 id ++ leBytes 4 n ++ leBytes 4 dev
  | .start id leader lv g => [3] ++ leBytes 4 id ++ leBytes 4 leader ++ leBytes 4 lv ++ leBytes 4 g
  | .fail id leader lv g m => [4] ++ leBytes 4 id ++ leBytes 4 leader ++ leBytes 4 lv ++ leBytes 4 g ++ leBytes 4 (m.getD 0) ++
    [if m.isSome then 1 else 0]

/-- The connection to another part. -/
def State.partConn (s : State) (device : Nat) : Option Nat := (s.conns.find? fun c => c.key == .part device).map fun c => c.id

/-- Send a DROVE message to a part (R392) with its CORR; none when the transport has no connection to it. -/
def State.sendDrove (s : State) (vdev device corr : Nat) (b : DroveBody) : Option State :=
  (s.partConn device).map fun c => s.sendOn c { conn := c, vdev := vdev, type := 0x0B, corr := corr, body := droveBytes b }

/-- The next launch number of a virtual device (R384). -/
def Vdev.nextNum (d : Vdev) : Nat := (d.launchNo - 1) % (2 ^ 32 - 1) + 1

/-- What an acceptance has come to. -/
structure Accepted where
  state   : State
  num     : Nat
  why     : Option Nat

/-- The launch has been refused. -/
def Accepted.refused (a : Accepted) : Bool := a.why.isSome

/-- What comes before the acceptance's reads of its tables and of the leader's member list (R372, R374). -/
def State.recordPrep (s : State) (v : Nat) (l : LaunchRec) (o : Source) : State :=
  let s1 := [l.foldt, l.pent, l.boardt].foldl (fun s a => if a == 0 then s else s.tablePrep v a fun _ => true) s
  if o == .host && l.drove then s1.partPrep v l.drvlist (4 * l.drvn) else s1

/-- What an acceptance reads and writes in its context: the tables, the areas of the boards in force and the member list. -/
def State.recordAreas (s : State) (v : Nat) (l : LaunchRec) : List (VAddr × Nat) :=
  let tab (a : VAddr) : List (VAddr × Nat) := if a == 0 then [] else [(a, 1024)]
  let boards := (if l.boardt == 0 then [] else (s.readTable v l.boardt).getD []).map boardEntry
  tab l.foldt ++ tab l.pent ++ tab l.boardt ++ (boardAreas fun i => rd boards i) ++ if l.drove then [(l.drvlist, 4 * l.drvn)] else []

/-- Accept a launch, or refuse it (R381-R384, R392, R396, R401, R402). A refused device-side launch takes a number and completes with
status 1; a refused host launch or member's copy takes none (R384, R413, R443) and completes with status 1 under number 0 (log entry
92). -/
def State.accept (s : State) (v : Nat) (record : List Byte) (o : Source) (cap : Nat) (leaderVdev conn corr : Nat) : Accepted :=
  match s.vdev? v with
  | none => ⟨s, 0, some 0⟩
  | some d =>
    let r0 := parseRecord record
    let l : LaunchRec := { r0 with prio := min r0.prio cap }
    let s := s.recordPrep v l o
    let num := d.nextNum
    let take (s : State) : State := s.modVdev v fun d => { d with launchNo := d.launchNo + 1, done := d.done.filter fun p => p.1 != num }
    match s.refusal d l o with
    | some n =>
      match o with
      | .device => ⟨(take s).postCompletion v num 1 none l.notify, num, some n⟩
      | _ => ⟨s.postOut v 0x02 (completionBody 0 1 none), 0, some n⟩
    | none =>
      let (key, s1) := (take s).fresh
      let tab (a : VAddr) : List (List Byte) := if a == 0 then [] else (s.readTable v a).getD []
      let drv : Option Drove := match o with
        | .member ms r => some { members := ms, rank := r, leaderVdev := leaderVdev }
        | .host => if l.drove then some { members := (s.droveList v l).getD [], rank := 0, leaderVdev := v } else none
        | .device => none
      let n : Launch :=
        { key := key, num := num, vdev := v, lrec := l, host := (match o with | .device => l.notify | _ => true), conn := conn, corr := corr
          foldTab := tab l.foldt, foldGood := tab l.foldt, penTab := tab l.pent, boardTab := tab l.boardt
          pens := if l.pent == 0 then [] else List.replicate 16 [], drv := drv
          phases := 0 }
      let bs := (tab l.boardt).map boardEntry
      let s2 : State := { s1 with launches := s1.launches ++ [n] }
      ⟨s2.writeBoards n fun i => rd bs i, num, none⟩

end Accepting

end Sys2Proof.Machine
end

