-- ==== Sys2Proof/Machine/Graph.lean ====
section
/-!
DEFINITION. The instructions of major 0x24: EMIT, PUBV, VWAIT, VCHK, VSTOP, VGET and LNCH (25_shepherd_graphs R406-R415).
-/
namespace Sys2Proof.Machine
open Sys2Proof

section GraphInstructions

/-- What a step of the SHP domain waits for: its own conditions, and with ORDER release those of R78 at its scope (R407, R415). -/
def State.shpNeed (s : State) (c : Cur) (m : Mods) (dflt : Order) (conds : List Cond) (k : Act) : Act :=
  if ordRel (m.orderD dflt) then let q := s.domainConds c .ord (m.scopeD .device); s.need c (conds ++ q.1) q.2 none k
  else s.need c conds [] none k

/-- EMIT (R408): every lane's record is placed in one step, and the pen is then formed where it holds CNT records (R404). A lane whose record would
go to a reserved range takes a protection fault, before any effect (R12, R219). -/
def execEmit (m : Mods) (f : RForm) (s : State) : Res :=
  issue (.emit m f) s fun c s => s.need c (s.graphFree (s.keyOf c.team)) [] none <|
    let key := s.keyOf c.team
    let i := (s.rdS c f.a.toNat).toNat
    let p := s.usePens key
    let e := p.2 i
    if (s.launchOf c.team).lrec.pent == 0 || decide (16 ≤ i) || !e.v ||
        decide (min (s.budget c.team c.group).1 64 < f.b.toNat + e.regs) then illegalAct c
    else
      let ls := s.storing c f.g
      let reads := match s.team? c.team with
        | some t => t.twinReads c.group (maskOf ls.contains) ((List.range e.regs).map fun j => f.b.toNat + j)
        | none => []
      s.shpNeed c m .plain (if reads.isEmpty then [] else [.twinFull reads]) <|
        let b := p.1.useBoards key
        let s1 := b.1.retryOwed key p.2 b.2
        let place (acc : Spill) (l : Nat) : Spill :=
          let data := (bytesOf (s.rdVs c.team c.group l f.b.toNat e.regs)).take e.size
          match acc.state.placePen key i e { data := data, src := none, ovf := none } with
          | .put s' => { acc with state := s', lanes := acc.lanes ++ [l] }
          | .nowhere s' => { acc with state := s' }
          | .barred va => { acc with barred := acc.barred ++ [(l, va)] }
        let q := ls.foldl place { state := s1 }
        if !q.barred.isEmpty then .fault (barredFault q.barred)
        else
          let s2 := (q.state.tend key p.2 b.2 i).modTeam c.team fun t => t.twinTake c.group reads
          .done (s2.applyFx c.team c.group (maskOf ls.contains) fun l => { p := predWrites (s.flip 0 0) f.d (q.lanes.contains l) })

/-- An instruction on a tile (R407): once per splinter, `k` on the state that has read the board table, with board and tile. -/
def tileAct (c : Cur) (s : State) (w : Word) (k : State → (Nat → BoardEntry) → Nat → Nat → Act) : Act :=
  groupUniform c s <| s.need c (s.graphFree (s.keyOf c.team)) [] none <|
    let u := s.useBoards (s.keyOf c.team)
    let b := bits w 24 4
    let t := bits w 0 24
    if (s.launchOf c.team).lrec.boardt == 0 || bits w 28 4 != 0 || !(u.2 b).v || decide ((u.2 b).ntile ≤ t) then illegalAct c
    else k u.1 u.2 b t

/-- PUBV and PUBV.FINAL (R409). The predicate is not written in a helper lane of a mixed splinter: R110 gives PUBV no effect there, R409
writes it in every active lane, and the model follows R110 (DESIGN CHOICE, log entry 91). -/
def execPubv (m : Mods) (f : RForm) (s : State) : Res :=
  issue (.pubv m f) s fun c s => tileAct c s (s.rdS c f.a.toNat) fun s1 boards b t =>
    s.shpNeed c m .plain [] <|
      let key := s.keyOf c.team
      let e := (s.launchOf c.team).tile b t
      let r (j : Nat) : Word := s.rdS c (f.b.toNat + j)
      let fails := e.stopped || e.final || e.ver == 65535
      let p := s1.usePens key
      let s2 := p.1.retryOwed key p.2 boards
      let s3 : State × Option VAddr :=
        if fails then (s2, none)
        else (s2.modTile key b t fun x => { x with
          ver := x.ver + 1, qual := r 2, data := pair (r 0) (r 1), prod := r 3, final := x.final || m.clsBit 0 }).offerAll key p.2 boards b t
      match s3.2 with
      | some va => .fault { barredFault [] with mask := c.act, va := va }
      | none => .done (s3.1.applyFx c.team c.group (maskOf fun l => inMask c.act l && !(s.lane c.team c.group l).helper) fun _ =>
          { p := predWrites (s.flip 0 0) f.d (!fails) })

/-- VWAIT (R411). -/
def execVwait (m : Mods) (f : RForm) (s : State) : Res :=
  issue (.vwait m f) s fun c s => tileAct c s (s.rdS c f.a.toNat) fun s1 _ _ _ =>
    s.need c [.board (s.rdS c f.a.toNat) (bits (s.rdS c f.b.toNat) 0 16)] [] (parkReg (s.rdS c (f.b.toNat + 1))) <|
      .done (if ordAcq (m.orderD .acq) then s1.acquire c.core (m.scopeD .device) else s1)

/-- VCHK (R412). -/
def execVchk (m : Mods) (f : RForm) (s : State) : Res :=
  issue (.vchk m f) s fun c s => tileAct c s (s.rdS c f.a.toNat) fun s1 _ b t =>
    let s2 := s1.applyFx c.team c.group c.act fun _ => { s := [(f.d.toNat, ((s.launchOf c.team).tile b t).stateWord)] }
    .done (if ordAcq (m.orderD .plain) then s2.acquire c.core (m.scopeD .device) else s2)

/-- VSTOP (R410). -/
def execVstop (m : Mods) (f : RForm) (s : State) : Res :=
  issue (.vstop m f) s fun c s => tileAct c s (s.rdS c f.a.toNat) fun s1 _ b t =>
    s.shpNeed c m .plain [] <|
      .done (s1.modTile (s.keyOf c.team) b t fun x => { x with
        stopped := true, subs := (List.range 4).map fun u => { rd x.subs u with aver := x.ver } })

/-- VGET (R412): its four words belong to one version. -/
def execVget (m : Mods) (f : RForm) (s : State) : Res :=
  issue (.vget m f) s fun c s => tileAct c s (s.rdS c f.a.toNat) fun s1 _ b t =>
    let e := (s.launchOf c.team).tile b t
    let d := f.d.toNat
    let s2 := s1.applyFx c.team c.group c.act fun _ =>
      { s := [(d, e.data.extractLsb' 0 32), (d + 1, e.data.extractLsb' 32 32), (d + 2, e.qual), (d + 3, e.stateWord)] }
    .done (if ordAcq (m.orderD .acq) then s2.acquire c.core (m.scopeD .device) else s2)

/-- LNCH (R413, R396): the record is read once, at issue, through the group's ORD view. -/
def execLnch (m : Mods) (f : RForm) (s : State) : Res :=
  issue (.lnch m f) s fun c s => groupUniform c s <|
    let rq : Req := ⟨lowest c.act, s.pairS c f.a.toNat, 256⟩
    match s.placeAll (s.vdevOf c.team) [rq] .read 64 kindRead false with
    | .error e => accessFault c [rq] { e with mask := c.act }
    | .ok (ps, _) =>
      let s1 := s.loadPrep c.team false (linesOf ps)
      let bs := match ps with | p :: _ => s1.loadBytes c.team c.group false p | [] => []
      let areas : List Cond := (s.recordAreas (s.vdevOf c.team) (parseRecord bs)).map fun a => .rangeFree a.1 a.2
      s.shpNeed c m .rel (s.loadConds c.team c.group false ps ++ areas) <|
        let a := s1.accept (s.vdevOf c.team) bs .device (s.launchOf c.team).lrec.prio 0 0 0
        .done (a.state.applyFx c.team c.group c.act fun _ => { s := [(f.d.toNat, BitVec.ofNat 32 a.num)] })

end GraphInstructions

end Sys2Proof.Machine
end

