-- ==== Sys2Proof/Machine/Depart.lean ====
section
/-!
DEFINITION. How a team leaves its core, and what follows every move (01_engines R27; 24_shepherd_launch R391;
27_shepherd_preemption R424-R430): the save, the end of a launch's teams, and held blends that have come due.
-/
namespace Sys2Proof.Machine
open Sys2Proof

section Parking

/-- The group stands in a parking wait whose threshold has passed (R113). -/
def Group.parkable (g : Group) : Bool :=
  let stands (l : Lane) : Bool := l.present && !l.exited && !l.held && !l.trapHeld
  g.ended || (g.lanes.any stands && g.lanes.all fun l => !stands l || match l.wait with | some w => w.expired | none => false)

/-- The team is to be parked (R113): a group has not ended, and every group that has not is parkable. -/
def Team.parks (t : Team) : Bool := t.leaving == .no && t.core?.isSome && (t.groups.any fun g => !g.ended) && t.groups.all Group.parkable

/-- The record of a failure that no wait has taken (R247, R259). -/
def EngFault.record (e : EngFault) : FaultRec := mkRec e.cls e.maj e.fn 0 e.kind e.info 0 0 e.va

/-- Put a recorded class 9 failure into the fault queue and park the team (R222, R259): no wait has taken it. -/
def State.queueRecorded (s : State) (tm : Nat) (e : EngFault) : State :=
  let s1 := s.modTeam tm fun t => { t with efaults := t.efaults.filter fun q => q.id != e.id }
  let hold (q : Entry) : Entry := match q.work with
    | .mat r => { q with work := .mat { r with hold := .queued (s.queueNo tm) } }
    | _ => q
  (match e.entry with | some id => s1.modEntry id hold | none => s1).queueFault tm (e.group.getD 0) e.record

/-- The recorded class 9 failures whose group has ended without waiting for them; one of MMAT is any group's (R259). -/
def Team.unheeded (t : Team) : List EngFault :=
  t.efaults.filter fun e => e.cls == 9 && e.entry.isSome && t.core?.isSome && match e.group with
    | some g => (rd t.groups g).ended
    | none => t.groups.all fun g => g.ended

/-- Teams that are to be parked by now (R113, R259). -/
def State.parkAll (s : State) : State :=
  if s.teams.all fun t => t.unheeded.isEmpty && !t.parks then s
  else
    let s1 := s.teams.foldl (fun s t => t.unheeded.foldl (fun s e => s.queueRecorded t.id e) s) s
    { s1 with teams := s1.teams.map fun t => if t.parks then { t with leaving := .park } else t }

end Parking

section Saving

/-- A group holds an issue slot. -/
def State.granted (s : State) (tm g : Nat) : Bool :=
  s.cores.any fun k => k.slots.any fun x => match x with | some q => q.team == tm && q.group == g | none => false

/-- A team holds an issue slot. -/
def State.teamGranted (s : State) (tm : Nat) : Bool :=
  s.cores.any fun k => k.slots.any fun x => match x with | some q => q.team == tm | none => false

/-- A group has done its part of a muster (R424): it has ended, or its handler is over. -/
def Group.mustered (g : Group) : Bool := g.ended && g.handler.isNone || match g.handler with | some h => !h.running | none => false

/-- The team may be saved (R27, R222, R424): nothing of it issues, and its engines' work is settled but for what a class 9 fault has
stopped. -/
def State.mayBeSaved (s : State) (t : Team) : Bool :=
  t.core?.isSome && !s.teamGranted t.id && !(s.flights.any fun f => f.team == t.id) &&
    !(s.entries.any fun e => e.team == t.id && !e.parked) &&
    match t.leaving with
    | .no => false
    | .park => t.groups.all fun g => !g.handling
    | .muster => t.groups.all Group.mustered

/-- The hardware saves a section of a group (R426): its bit of the descriptor is set, it overran, or no handler ran. -/
def Group.saves (g : Group) (bit : Nat) : Bool :=
  g.overran || match g.desc with | some d => d.1.getLsbD bit | none => true

/-- A lane as the context holds it (R340, R425, R426, R429): an unsaved section reads zero, and the exact t of a key is not stored. -/
def Lane.stored (l : Lane) (v m c : Bool) : Lane :=
  { l with
    v := if v then l.v else []
    m := if m then l.m else []
    c := if c then l.c else []
    query := { l.query with lastT := none, pendT := none, accT := none, pendW := [], accW := [] } }

/-- A group as the context holds it. -/
def Group.stored (g : Group) : Group :=
  { g with handler := none, yielded := false, lanes := g.lanes.map fun l => l.stored (g.saves 0) (g.saves 1) (g.saves 2) }

/-- A team has still to be on a core: a group has not ended, a collective waits for room, or a request is to be posted again (R234, R259). -/
def State.needsCore (s : State) (t : Team) : Bool :=
  t.groups.any (fun g => !g.ended) || !t.copyRecs.isEmpty || !t.matRecs.isEmpty || s.entries.any fun e => e.team == t.id

/-- Save a team (R80, R391, R425-R428): its place is its context area; one that was mustered is eligible to resume at once, when
anything of it is left to run. A twin window is
lost only when neither of its groups saves its registers: it reads zero, also where a full bit is still to come. -/
def State.save (s : State) (t : Team) : State :=
  let (n, s1) := s.fresh
  let sp := t.groups.all fun g => g.ended || !g.saves 3
  let lost (tw : Twin) : Bool := !(rd t.groups tw.prod).saves 0 && !(rd t.groups tw.cons).saves 0
  s1.modTeam t.id fun t => { t with
    place := .saved, lastCore := t.core?.getD t.lastCore, leaving := .no, groups := t.groups.map Group.stored, sp := if sp && t.groups.any (fun g => !g.ended) then [] else t.sp
    twins := t.twins.map fun tw => if lost tw then { tw with regs := tw.regs.map fun r => { r with val := 0, pend := r.pend.map fun p => (0, p.2) } } else tw
    queuedAt := n, age := 0, eligible := t.leaving == .muster && s.needsCore t }

/-- Save every team that is to leave and may be saved. -/
def State.saveAll (s : State) : State :=
  if s.teams.all fun t => t.leaving == .no then s
  else (s.teams.filter s.mayBeSaved).foldl State.save s

end Saving

section Ending

/-- End every team of a launch (R383, R397): no instruction issues any more, unplaced teams, bins and pens are discarded, and what
has been stored and posted runs on, with the collectives of teams on a core, whose last groups have ended with this (R233). -/
def State.discardTeams (s : State) (l : Launch) : State :=
  let mine (t : Team) : Bool := t.launch == l.key
  let ids := (s.teams.filter mine).map fun t => t.id
  let s1 := ids.foldl State.freeSlots s
  { s1 with
    teams := s1.teams.map fun t =>
      if !mine t then t
      else if !t.started then { t with place := .ended }
      else { t.stop with
        copyRecs := if t.core?.isSome then t.copyRecs else [], matRecs := if t.core?.isSome then t.matRecs else [], leaving := .no, efaults := [], wakeEntries := [], eligible := false, atHead := false, reserved := none }
    entries := s1.entries.filter fun e => !(ids.contains e.team && e.parked)
    flights := s1.flights.filter fun f => !ids.contains f.team
    launches := s1.launches.map fun x =>
      if x.key == l.key then { x with nextTeam := x.lrec.gridSize, bins := [], pens := [], reserved := none } else x }

/-- The teams of an ending launch have not been ended yet. -/
def State.undiscarded (s : State) (l : Launch) : Bool :=
  l.ending.isSome && (decide (l.nextTeam < l.lrec.gridSize) || !l.bins.isEmpty || !l.pens.isEmpty ||
    s.teams.any fun t => t.launch == l.key && t.place != .ended && (!t.started || t.eligible || t.groups.any fun g => !g.ended))

/-- Post every collective that the end of a group has made full (R233, R234, R256). -/
def State.postAll (s : State) : State :=
  if s.teams.all fun t => t.copyRecs.isEmpty && t.matRecs.isEmpty then s
  else s.teams.foldl (fun s t => (s.postCopies t.id).postMats t.id) s

/-- What follows every move: launches that end lose their teams, collectives that have become full are posted, teams that wait long enough are parked, teams that leave are saved, events
reach the recorder (R454), messages that have waited leave (R440), and held blends that have come due are applied (R369). -/
def State.afterMove (s : State) : State :=
  let s1 := (s.launches.filter s.undiscarded).foldl State.discardTeams s
  let s2 := s1.postAll.parkAll.saveAll.recordEvents.transport
  ((s2.launches.filter fun l => !l.blends.isEmpty).map fun l => l.key).foldl State.applyHeld s2

end Ending

end Sys2Proof.Machine
end

