-- ==== Sys2Proof/Machine/Issue.lean ====
section
/-!
DEFINITION. One instruction of a run: the fetch through the execute map (01_engines R29, 03_encoding R45, R65), what is tested
before the instruction's own entry (R47, R99, R222), and what follows its issue (05_lane_execution R91, R92, R105-R107).
-/
namespace Sys2Proof.Machine
open Sys2Proof

section Fetch

/-- What a fetch gives; `len` is the length in halfwords, prefixes included, or the halfwords up to one that faults, and `held` says that a line
of the code is owned (R17). -/
inductive Fetched where
  | instr (i : Instr) (len : Nat)
  | bad (maj fn len : Nat)
  | miss (cls : Nat) (va : VAddr) (len : Nat)
  | held
  deriving DecidableEq, Repr, Inhabited

/-- The halfwords that a fetch has read. -/
def Fetched.len : Fetched → Nat
  | .instr _ n | .bad _ _ n | .miss _ _ n => n
  | .held => 0

/-- Read one halfword of code at an address (R29, R45, R372): a fault's class, none while its line is owned (R17), or the halfword. -/
def State.fetchHalf (s : State) (v : Nat) (va : VAddr) : Except Nat (Option Half) :=
  match s.translate v va .fetch with
  | .error e => .error e
  | .ok pa =>
    if s.undecodable (lineOf pa) then .error 12
    else if s.owned (.mem (lineOf pa)) then .ok none
    else .ok (some (BitVec.ofNat 16 (leNat (Memory.read (s.prepLine (lineOf pa)).mem pa 2))))

/-- Halfwords hold a whole instruction: at most three prefix words and a word, or a 16-bit word (R45, R55, R59). -/
def wholeCode : Nat → List Half → Bool
  | _, [] => false
  | _, [lo] => !lo.getLsbD 0
  | 0, _ => true
  | n + 1, lo :: hi :: t => !lo.getLsbD 0 || majOf (hi ++ lo) != prefixMaj || wholeCode n t

/-- Fetch halfwords until they hold an instruction: at most eight (R45, R59). Every halfword is fetched before the prefixes are judged, so
that a fault of R45 comes before an illegal instruction (R65). The fault of the lowest halfword that has one is taken, and its VA is that
halfword's address (DEDUCED, log entry 94). -/
def State.fetchFrom (s : State) (v : Nat) (pc : Code) : Nat → List Half → Fetched
  | 0, _ => .bad 0x3F 0 8
  | n + 1, hs =>
    let va : VAddr := BitVec.signExtend 64 (pc + BitVec.ofNat 56 (2 * hs.length))
    match s.fetchHalf v va with
    | .error e => .miss e va (hs.length + 1)
    | .ok none => .held
    | .ok (some h) =>
      if !wholeCode 3 (hs ++ [h]) then s.fetchFrom v pc n (hs ++ [h])
      else match decode (hs ++ [h]) with
        | .short => .bad 0x3F 0 (hs.length + 1)
        | .bad maj fn => .bad maj.toNat fn.toNat (hs.length + 1)
        | .ok i len => .instr i len

/-- Fetch the instruction at an address for a virtual device. -/
def State.fetch (s : State) (v : Nat) (pc : Code) : Fetched := s.fetchFrom v pc 8 []

/-- What a fetch of n halfwords does at CP (R372, R374): Decode or Encode as for any access, and RSV where a Decode meets a record with shift
255. -/
def State.fetchPrep (s : State) (v : Nat) (pc : Code) (n : Nat) : State :=
  (List.range n).foldl (fun s k => match s.translate v (BitVec.signExtend 64 (pc + BitVec.ofNat 56 (2 * k))) .fetch with
    | .ok pa => if s.undecodable (lineOf pa) then s.stickRsv (lineOf pa) else s.prepLine (lineOf pa)
    | .error _ => s) s

end Fetch

section Runs

/-- The operands of the instruction at a path's PC are ready (R108): no lobe result that it names is awaited, and the twin registers that it
reads are full. -/
def State.operandsReady (s : State) (tm g : Nat) (act : BitVec 32) : Bool :=
  match s.team? tm with
  | none => true
  | some t =>
    if t.twins.isEmpty && s.flights.all fun f => f.team != tm || f.group != g then true
    else
      let ln := s.lane tm g (lowest act)
      match s.fetch t.vdev ln.pc with
      | .instr i len =>
        let c : Cur := { core := t.core?.getD 0, slot := 4, team := tm, group := g, act := act, pc := ln.pc, len := len, rep := ln.repi }
        (s.pendingOn c i).isEmpty && (Cond.twinFull (s.twinNeeds t c i)).holds s tm g act
      | _ => true

/-- The path of lane l is ready: it is live, what it waits for has come, or has failed, and the operands of its first instruction are ready in
the lanes that would issue it: those of the slices that present the path, and of lane l's own slice, which may be about to (R91, R108). -/
def State.pathReady (s : State) (tm g l : Nat) : Bool :=
  let gr := s.group tm g
  let act := gr.path l
  let part := maskOf fun k => inMask act k && (inMask act (rd gr.pres (k / 4)) || k / 4 == l / 4)
  let came : Bool := match (rd gr.lanes l).wait with
    | some w => s.allHold tm g part w.conds || w.conds.any (Cond.failed s tm g)
    | none => true
  (rd gr.lanes l).live && came && s.operandsReady tm g part

/-- What slice sl presents next (R91, R138): a path that is being gathered, else the next ready path in rotation from the PC of the path that
last ran; with none ready it keeps its path while that is live. -/
def State.nextPath (s : State) (tm g : Nat) (gr : Group) (sl : Nat) (frm : Code) : Nat :=
  let l := rd gr.pres sl
  match gr.gatherLane sl with
  | some k => k
  | none => match gr.rotate ((gr.liveIn sl).filter fun k => s.pathReady tm g k) frm with
    | some k => k
    | none => if (rd gr.lanes l).live then l else (gr.rotate (gr.liveIn sl) frm).getD l

/-- End the run of the issue: the slot is free, and each slice that ran keeps the PC of the path that ran and presents its next path in rotation
from there (R91, R92, R107). -/
def State.endRun (s : State) (c : Cur) (newRun : Bool) (frm : Option Code) : State :=
  let s1 := s.modCore c.core fun k => { k with slots := k.slots.set c.slot none, last := k.last.set c.slot (some (c.team, c.group)) }
  let took (sl : Nat) : Bool := (lanesOf c.act).any fun l => l / 4 == sl
  s1.modGroup c.team c.group fun g =>
    let ran := (List.range 8).map fun sl => if took sl then frm.getD (rd g.lanes (rd g.pres sl)).pc else rd g.ran sl
    { g with
      runPos := if newRun then 0 else g.runPos
      ran := ran
      pres := (List.range 8).map fun sl => if took sl then s1.nextPath c.team c.group g sl (rd ran sl) else rd g.pres sl }

end Runs

section Running

/-- How the issue of a slot begins: it is over without an instruction, or an instruction issues in a state with `cur` set. -/
inductive Start where
  | halt (s : State)
  | run (i : Instr) (s : State)

/-- Every lane of a mask forgets its marks. -/
def State.clearMarks (s : State) (c : Cur) (m : BitVec 32) : State :=
  s.mapLanes c.team c.group m fun _ l => { l with owesDiv := false, denied := false, owed := none }

/-- The fault of an instruction that replays after its entry was denied (R220, R222): class 4 for the lanes that replay it of those that took
the denied fault, with the KIND, INFO and address that the lowest of them had met. -/
def deniedFault (lanes : List Lane) (m : BitVec 32) : FaultInfo :=
  match (rd lanes (lowest m)).owed with
  | some o => { cls := 4, mask := m, kind := o.kind, info := o.info, va := o.va, code := o.code }
  | none => { cls := 4, mask := m }

/-- What the slot does after a fault that comes before the instruction's own entry: the run is over, and what is replayed after a fault of
delivery P starts a new one (R106, R112, R222; DEDUCED, log entry 130). -/
def State.faultOut (s : State) (c : Cur) (code : Nat × Nat) (f : FaultInfo) : State :=
  let s1 := s.takeFault c code f
  { ((s1.endRun c (!s1.leftHandler c) none).postCopies c.team).postMats c.team with cur := none }

/-- An issue slot issues the next instruction of its run (R107): fetch, decode, and the tests of R47, R65, R99 and R222. The record of a
fetch fault holds MAJ 0 and FN 0, nothing being decoded (DESIGN CHOICE, log entry 94). A fault that goes to the handler leaves no mark
behind for it; a divergent-uniform fault is that of the whole path (R99, R223). A fault of the fetch or of the decoding comes before a
divergent-uniform fault that the path owes, and the path then owes none (DESIGN CHOICE, log entry 143). -/
def State.startIssue (s : State) (core slot : Nat) : Start :=
  match rd (s.core core).slots slot with
  | none => .halt s
  | some gr =>
    let g := s.group gr.team gr.group
    let act := g.splinter gr.slice
    let ln := rd g.lanes (lowest act)
    let c : Cur := { core := core, slot := slot, team := gr.team, group := gr.group, act := act, pc := ln.pc, len := 0, rep := ln.repi }
    if act == 0 then .halt (s.endRun c false none)
    else
    let got := s.fetch (s.vdevOf gr.team) ln.pc
    let s := s.fetchPrep (s.vdevOf gr.team) ln.pc got.len
    match got with
    | .held => .halt s
    | .miss e va _ =>
      let denied := (lanesOf act).any fun l => (rd g.lanes l).denied
      .halt ((if e == 3 && !denied then s else s.clearMarks c act).faultOut c (0, 0)
        { cls := if denied then 4 else e, mask := act, kind := kindFetch, va := va })
    | .bad maj fn len => .halt ((s.clearMarks c act).faultOut { c with len := len } (maj, fn) { cls := 1, mask := act, info := illegalInfo maj })
    | .instr i len =>
      let c : Cur := { c with len := len }
      let denied := maskOf fun l => inMask act l && (rd g.lanes l).denied
      if denied != 0 then
        .halt ((s.clearMarks c act).faultOut c i.code (deniedFault g.lanes denied))
      else if (lanesOf act).any fun l => (rd g.lanes l).owesDiv then
        .halt ((s.clearMarks c (g.path (lowest act))).faultOut c i.code { cls := 13, mask := g.path (lowest act) })
      else if c.rep == 0 && 23 ≤ g.runPos && !i.e && !i.endsRun && i.inBudget (s.budget gr.team gr.group) then
        .halt (s.faultOut c i.code { cls := 2, mask := act })
      else .run i { s with cur := some c }

/-- The run goes on with the lanes of its splinter that do: the slot is theirs, by the slice of the lowest (R90, R107). -/
def State.follow (s : State) (c : Cur) : State :=
  match (lanesOf c.act).find? fun l => (s.lane c.team c.group l).live with
  | some l => s.modCore c.core fun k => { k with slots := k.slots.set c.slot (some { team := c.team, group := c.group, slice := l / 4 }) }
  | none => s

/-- The run goes on after an instruction, or ends (R105). -/
def State.afterDone (s : State) (i : Instr) (c : Cur) : State :=
  if c.rep < i.lastRep then s else if s.runOver i c then s.endRun c true none else s.follow c

/-- A wait for what an instruction reads: a lobe result that is awaited, or a twin register that is empty (R9, R104, R108). -/
def WaitRec.operand (w : WaitRec) : Bool := w.conds.any fun x => match x with | .flightsDone _ | .twinFull _ => true | _ => false

/-- What follows an instruction's issue (R91, R92, R105): the run goes on or ends; one that holds its issue point keeps its slot (R77). A wait
ends the run; it sets the run position to 0 only where the instruction itself ends one and has begun its own wait: an operand stall and a twin
read start no new run (R41, R104-R106, R112; DEDUCED, log entry 126). -/
def State.afterIssue (s : State) (i : Instr) : State :=
  match s.cur with
  | none => s
  | some c =>
    let s1 : State := match c.out with
      | .pending | .done => s.afterDone i c
      | .diverged => s.endRun c true (some c.pc)
      | .waiting => if s.holdsIp c i then s
        else s.endRun c (i.endsRun && !(match s.recorded c with | some w => w.operand | none => false)) none
      | .faulted | .ended => s.endRun c (!s.leftHandler c) none
    { ((s1.postCopies c.team).postMats c.team).afterMove with cur := none }

end Running

section Loading

/-- The launch record under which a placed word runs: every register budget at its largest, 64 tags, the largest carve-out. -/
def probeRec : LaunchRec :=
  { code := 0x10000, lm1 := 7, tags := 64, scr := 4, pv := 7, pm := 3, pc := 4, cv := 7, cm := 3, cc := 4, tscr := 128 }

end Loading

end Sys2Proof.Machine
end

