-- ==== Sys2Proof/Machine/Moves.lean ====
section
/-!
DEFINITION. The moves of the ordering machine and of the issue slots: Drain, Propagate, Refresh, the saved drain, engine moves,
fabric delivery, full bits of twins, and grants (04_ordering_machine R72-R85; 05_lane_execution R91, R108; 09_lane_memory_sync R198).
A move that is not enabled changes nothing.
-/
namespace Sys2Proof.Machine
open Sys2Proof

section LaneMoves

/-- DRAIN (R72-R74). -/
def execDrain (tm g : Nat) (s : State) : Res :=
  .next (match s.team? tm with
    | some t => if t.core?.isSome && s.drainReady tm g then s.drainHead tm g else s
    | none => s)

/-- PROPAGATE (R72, R82, R86). -/
def execPropagate (c x : Nat) (s : State) : Res :=
  .next (if ((s.core c).line x).pend.isEmpty || s.owned (.mem x) then s else s.propagateLine c x)

/-- REFRESH (R72): the copy is replaced, or dropped; of a line that cannot be decoded there is no copy (R372). -/
def execRefresh (c x : Nat) (drop : Bool) (s : State) : Res :=
  let l := (s.core c).line x
  .next (if !l.pend.isEmpty || s.owned (.mem x) then s
    else if drop then s.modCore c fun k => k.setLine { l with copy := none }
    else match physKind (128 * x) with
      | .reserved | .window => s
      | _ => if s.undecodable x then s else s.refreshLine c x)

/-- The release condition of a saved entry (R74, R80): no write of any group stands in the view of the core that the team left, and the
fabric operations that came before the store are delivered. -/
def State.savedRelease (s : State) (t : Team) (g : Nat) (e : SqEntry) : Bool :=
  !(ordRel e.order) || ((!scopeWide e.scope || (s.core t.lastCore).pendIds.isEmpty) && (Cond.fabricDone e.fab).holds s t.id g 0)

/-- SAVED_DRAIN (R80): the head entry of a saved team's queue goes to CP, as a Drain followed at once by its Propagate; older writes to
its lines in the view that the team left propagate first (R72; DEDUCED, log entry 96). -/
def execSavedDrain (tm g : Nat) (s : State) : Res :=
  .next (match s.team? tm with
    | none => s
    | some t =>
      let q := headBatch (s.group tm g).sq
      match t.place, q.1 with
      | .saved, e :: _ =>
        let s1 := s.modGroup tm g fun gr => { gr with sq := q.2 }
        if e.scratch then s1.modTeam tm fun t => { t with sp := Memory.setAll t.sp (e.slots.flatMap fun q => cellsAt q.phys q.data) }
        else
          let ws := batchWrites (s.launchOf tm).lrec.det tm g q.1
          let lines := ws.flatMap fun w => (w.cells.map fun c => lineOf c.1).eraseDups
          if (lines.any fun x => s.owned (.mem x) || !((s.core t.lastCore).line x).pend.isEmpty) || !s.savedRelease t g e then s
          else ws.foldl (fun s w => (s.cpStore t.launch w.id w.home (lineOf ((w.cells.headD (0, 0)).1)) w.cells w.whole).1) s1
      | _, _ => s)

/-- TWIN_FULL (R198): every store that the writing group had enqueued before its twin write has drained. -/
def execTwinFull (tm g : Nat) (s : State) : Res :=
  .next (s.modTeam tm fun t =>
    match t.twinOf g with
    | none => t
    | some (k, tw) =>
      let sq := (rd t.groups g).sq.map fun e => e.id
      let me : Writer := if tw.prod == g then .producer else .consumer
      let go (r : TwinReg) : TwinReg := match r.pend with
        | some (x, ids) => if r.writer == me && !(ids.any sq.contains) then { r with val := x, full := true, pend := none } else r
        | none => r
      { t with twins := t.twins.set k (tw.act false fun rs => rs.map go) })

end LaneMoves

section EngineMoves

/-- ENGINE_READ (R81, R248, R257): no earlier record of another entry owns the line. -/
def execEngineRead (id : Nat) (k : LineKey) (s : State) : Res :=
  .next (match s.entry? id with
    | none => s
    | some e =>
      if !e.reads.contains k || s.ownedBefore id k then s
      else match e.work with
        | .mat r => s.matRead e r k
        | _ => s.copyRead e k)

/-- Every piece that an entry writes to a line has its source. -/
def Entry.fed (e : Entry) (k : LineKey) : Bool := (e.work.segs.filter fun g => g.dst.key? == some k).all e.srcReady

/-- ENGINE_WRITE (R81): all the entry's bytes for the line, those of every row for an ACST (R279); for a matrix request, its row
progress, once its claim has been made (R258, R260, R274). -/
def execEngineWrite (id : Nat) (k : LineKey) (s : State) : Res :=
  .next (match s.entry? id with
    | none => s
    | some e =>
      match e.work with
      | .copy .. => if e.writes.contains k && !s.ownedBefore id k && e.fed k && !e.reads.contains k then s.copyWrite e k else s
      | .mat r => (match r.rp with
        | some row => if k == .mem (lineOf r.paddr) && !s.owned k && r.claimed then s.progressWrite e r row else s
        | none => s)
      | .acst r => (match k with
        | .mem x => if e.writes.contains k && !s.ownedBefore id k && !r.left.contains k then s.acstWrite e r x else s
        | .sp .. => s)
      | _ => s)

/-- An entry has nothing left to do but to complete (R81, R246, R274, R279). -/
def State.completable (s : State) (e : Entry) : Bool :=
  let hurdleFree := match e.hurdle with
    | some off => (spKeys e.team off 16).all fun k => !(s.entries.any fun q => q.id != e.id && q.writes.contains k)
    | none => true
  hurdleFree && match e.work with
    | .copy .. | .push .. => e.reads.isEmpty && e.writes.isEmpty && !(s.fq.any fun o => o.entry == e.id)
    | .acst r => r.claimed && !r.granted && decide (r.rows.length ≤ r.next) && e.writes.isEmpty
    | .mat r => r.finished

/-- COMPLETE (R81): the hurdle, then the tag; a push is delivered; what waited for the room follows (R233, R256, R259). -/
def execComplete (id : Nat) (s : State) : Res :=
  .next (match s.entry? id with
    | none => s
    | some e =>
      if !s.completable e then s
      else
        let s1 := match e.pushOf with | some p => s.deliverPush (s.keyOf e.team) p | none => s
        let s2 := match e.work with | .mat r => s1.completeMat e r | _ => s1.completeEntry e
        s2.teams.foldl (fun s t => ((s.postCopies t.id).postMats t.id).repost t.id) s2)

/-- The body of a WWRITE or WREAD: handle and offset, 8 bytes each, before the data or the count (R443; log entry 108). -/
def windowBody (handle off : Nat) (data : List Byte) : List Byte := leBytes 8 handle ++ leBytes 8 off ++ data

/-- A reply (R442, R443): the request's TYPE with bit 7 set. -/
def State.reply (s : State) (conn vdev type corr status : Nat) (body : List Byte) : State :=
  s.sendOn conn { conn := conn, vdev := vdev, type := type % 128 + 128, corr := corr, status := status, body := body }

/-- The message of a connection that was in progress has taken effect (R445). -/
def Conn.pass (c : Conn) : Conn := { c with nextIn := (c.nextIn + 1) % 2 ^ 32, xfer := none }

/-- What a WREAD has gathered, in offset order. -/
def Xfer.bytes (x : Xfer) : List Byte := (sortBy (fun (a b : Nat × List Byte) => decide (a.1 < b.1)) x.got).flatMap Prod.snd

/-- End a window access once no line is left: the reply goes out, with STATUS 1 when a line failed (R443, R364). -/
def State.endXfer (s : State) (conn : Nat) : State :=
  match (s.conns.find? fun c => c.id == conn).bind Conn.xfer with
  | some x =>
    if x.ops.isEmpty then
      (s.modConn conn Conn.pass).reply conn x.vdev (if x.write then 5 else 6) x.corr (if x.bad then 1 else 0)
        (if x.write || x.bad then [] else x.bytes)
    else s
  | none => s

/-- One line of a window access, as an engine read or write at CP (R85, R364). A write that covers a line of the error-line table whole is
done; a WWRITE that reaches such a line is answered with STATUS 1 all the same (R443). -/
def State.windowLine (s : State) (c : Conn) (x : Xfer) (o : XferOp) : State :=
  let ln := lineOf o.phys
  let rest := x.ops.filter fun q => q.id != o.id
  let err := s.lineFault (.mem ln)
  let bad := match err with | some c => !(c == 5 && x.write && o.len == 128) | none => false
  let s1 := s.prepKey (.mem ln)
  let s2 := if x.write && !bad then s1.cpWrite ln (cellsAt o.phys o.data) else s1
  let got := if x.write then [] else [(o.off, Memory.read s1.mem o.phys o.len)]
  (s2.modConn c.id fun y => { y with xfer := some { x with ops := rest, got := x.got ++ got, bad := x.bad || err.isSome } }).endXfer c.id

/-- FABRIC_DELIVERY (R85, R245, R247): a put leaves for its part on the part-to-part connection as a WWRITE, a get as a WREAD (R443); either
may be refused there, and else the bytes of the get come back; or a line of a window access takes effect at CP (R443). What the other part holds and answers is no state of this one. -/
def execFabricDelivery (id : Nat) (s : State) : Res :=
  .next (match s.fq.find? fun o => o.id == id with
    | none =>
      match s.conns.find? fun c => match c.xfer with | some x => x.ops.any fun o => o.id == id | none => false with
      | some c => match c.xfer with
        | some x => (match x.ops.find? fun o => o.id == id with
          | some o => if s.owned (.mem (lineOf o.phys)) then s else s.windowLine c x o
          | none => s)
        | none => s
      | none => s
    | some o =>
      let s0 := { s with fq := s.fq.filter fun q => q.id != id }
      let body := windowBody o.handle o.off (if o.get then leBytes 8 o.len else o.data)
      let s1 := match s.partConn o.device with
        | some c => s0.sendOn c { conn := c, vdev := s.vdevOf o.team, type := if o.get then 6 else 5, body := body }
        | none => s0
      let va := BitVec.ofNat 64 (o.off / 128 * 128)
      let refused := s.flip 5 0
      let fail (s : State) : State := s.modEntry o.entry fun e => e.noteFail 4 (if o.get then kindOperand else kindEngWrite) va
      if o.get then
        let got : List Byte := if refused then [] else (List.range o.len).map fun i => Config.freeByte (s.tick * 128 + i)
        let s2 := s1.modEntry o.entry fun e => { e with rbuf := e.rbuf ++ [(.remote o.device o.handle o.off, got)] }
        if refused then fail s2 else s2
      else if refused then fail s1 else s1)

end EngineMoves

section Grants

/-- A slice that presents no live path, or a path that is not ready, presents a path that is being gathered, else the next ready one in rotation
from the PC of the path that last ran there (R91, R138). One that presents a ready path keeps it until that path's next run end. -/
def State.represent (s : State) (tm g : Nat) : State :=
  s.modGroup tm g fun gr =>
    { gr with pres := (List.range 8).map fun sl =>
        let l := rd gr.pres sl
        if s.pathReady tm g l then l else s.nextPath tm g gr sl (rd gr.ran sl) }

/-- A run that may be granted: its team, group and lowest slice, with what R108 compares. -/
structure Offered where
  team  : Nat
  group : Nat
  slice : Nat
  prio  : Nat
  order : Nat
  slot  : Nat
  yield : Bool
  deriving DecidableEq, Repr, Inhabited

/-- The slices of a group whose splinter is ready; a splinter is named by its lowest slice (R90, R108). -/
def State.readySlices (s : State) (tm g : Nat) : List Nat :=
  let gr := s.group tm g
  (List.range 8).filter fun sl =>
    let act := gr.splinter sl
    act != 0 && lowest act / 4 == sl && s.pathReady tm g (rd gr.pres sl)

/-- A condition of a full store queue, copy queue, table of requests or holding store: the stall that it brings holds the group at IP(g) (R72,
R234, R253, R369). A full set of arrival records holds no path of the group back but its own, since another path may bring the arrival that
frees one (R249, R256; DEDUCED, log entry 139). -/
def Cond.room : Cond → Bool
  | .sqRoom _ | .copyRoom | .tableRoom | .holdRoom _ => true
  | _ => false

/-- A live lane of the group has been stalled on a full queue, and the queue is still full: nothing of the group issues (R72). Its run has ended at
the stall (R105), so that the slot is free for other groups. -/
def State.stalledFull (s : State) (tm g : Nat) : Bool :=
  let gr := s.group tm g
  gr.lanes.any fun ln => ln.live && match ln.wait with
    | some w => w.conds.any fun x => x.room && !x.holds s tm g 0
    | none => false

/-- The next slice in rotation (R108). -/
def nextSlice (last : Nat) (rs : List Nat) : Nat :=
  match rs.find? fun r => decide (last < r) with
  | some r => r
  | none => rs.headD 0

/-- The ready runs of a core, one for each group. -/
def State.offered (s : State) (c : Nat) : List Offered :=
  (s.teams.filter fun t => t.place == .resident c).flatMap fun t =>
    (List.range t.groups.length).filterMap fun g =>
      let gr := rd t.groups g
      let rs := s.readySlices t.id g
      if gr.ended || gr.broken || (t.leaving != .no && !gr.handling) || s.granted t.id g || s.stalledFull t.id g || rs.isEmpty then none
      else some { team := t.id, group := g, slice := nextSlice gr.lastSlice rs, prio := (s.launchOf t.id).lrec.prio
                  order := t.resOrder, slot := gr.slotNo, yield := gr.yielded }

/-- The order of R108. -/
def Offered.before (a b : Offered) : Bool :=
  if a.prio ≠ b.prio then decide (b.prio < a.prio)
  else if a.order ≠ b.order then decide (a.order < b.order)
  else decide (a.slot < b.slot)

/-- Which of the ready runs a free slot takes (R108, R135): a group that has yielded goes after every other of its priority or a
higher one, and the group granted last on the slot after every other of its priority. Groups that have both yielded do not hold each
other back (DESIGN CHOICE, log entry 97). -/
def chooseGrant (os : List Offered) (last : Option (Nat × Nat)) : Option Offered :=
  let sorted := sortBy Offered.before os
  let held (o : Offered) : Bool := o.yield && os.any fun p => (p.team, p.group) != (o.team, o.group) && !p.yield && decide (o.prio ≤ p.prio)
  let again (o : Offered) : Bool := last == some (o.team, o.group) &&
    os.any fun p => (p.team, p.group) != (o.team, o.group) && p.prio == o.prio && !held p
  match sorted.find? fun o => !held o && !again o with
  | some o => some o
  | none => sorted.head?

/-- RUN_GRANT (R91, R107, R108, R135). -/
def execRunGrant (c slot : Nat) (s : State) : Res :=
  if 4 ≤ slot || (rd (s.core c).slots slot).isSome then .next s
  else
    let s1 := (s.teams.filter fun t => t.place == .resident c).foldl (fun s t =>
      (List.range t.groups.length).foldl (fun s g => if s.granted t.id g then s else s.represent t.id g) s) s
    match chooseGrant (s1.offered c) (rd (s1.core c).last slot) with
    | none => .next s1
    | some o =>
      let s2 := s1.modCore c fun k => { k with slots := k.slots.set slot (some { team := o.team, group := o.group, slice := o.slice }) }
      .next (s2.modGroup o.team o.group fun g => { g with lastSlice := o.slice, yielded := false })

end Grants

end Sys2Proof.Machine
end

