-- ==== Sys2Proof/Machine/Window.lean ====
section
/-!
DEFINITION. The on-chip window (01_engines R4, R14, R15; 16_lobe_engine R282): which register, scratchpad byte or tile word stands at each of
its addresses, as system software reaches it, and the places in a core that the shepherd gives a team.
-/
namespace Sys2Proof.Machine
open Sys2Proof

section Layout

/-- Base of the window (R14). -/
def winBase : Nat := 0xFFFF000000000

/-- The ranges of the window (R14), with the byte offset in each. -/
inductive WinPart where
  | regs (core off : Nat)
  | closures (core off : Nat)
  | scratch (core off : Nat)
  | twins (core off : Nat)
  | tile (cluster tile off : Nat)
  deriving DecidableEq, Repr, Inhabited

/-- The range that an address lies in; every other address is reserved (R14). -/
def winPart (a : Nat) : Option WinPart :=
  if a < winBase ∨ winBase + 0x1000000000 ≤ a then none
  else
    let o := a - winBase
    if o < 0x400000000 then
      let k := o / 0x1000000
      let r := o % 0x1000000
      if 640 ≤ k then none
      else if r < 0x80000 then some (.regs k r)
      else if 0x100000 ≤ r ∧ r < 0x130000 then some (.closures k (r - 0x100000))
      else if 0x200000 ≤ r ∧ r < 0x280000 then some (.scratch k (r - 0x200000))
      else if 0x300000 ≤ r ∧ r < 0x310000 then some (.twins k (r - 0x300000))
      else none
    else
      let j := (o - 0x400000000) / 0x400000
      let r := (o - 0x400000000) % 0x400000
      if 160 ≤ j ∨ 0x200000 ≤ r then none else some (.tile j (r / 65536) (r % 65536))

/-- A word that the window shows; that of a twin or receive window has a full bit beside it (R14). -/
inductive WinCell where
  | v (team group lane r : Nat)
  | twin (team group lane r : Nat)
  | m (team group lane r : Nat) (var : Bool)
  | c (team group lane r word : Nat)
  | sp (team off : Nat)
  | tile (cluster tile word : Nat)
  deriving DecidableEq, Repr, Inhabited

/-- The groups that are resident on a core: team, group number and group. -/
def State.groupsOn (s : State) (core : Nat) : List (Nat × Nat × Group) :=
  (s.teams.filter fun t => t.place == .resident core).flatMap fun t =>
    ((List.range t.groups.length).zip t.groups).map fun p => (t.id, p.1, p.2)

/-- A word of a group's part of the register file, by its offset there: v registers, then moment pairs, lane-indexed as the context
area holds them (R14, R428; DEDUCED, log entry 88). -/
def regCell (b : Nat × Nat × Nat) (tm g off : Nat) : Option WinCell :=
  if off < 128 * b.1 then some (.v tm g (off % 128 / 4) (off / 128))
  else
    let o := off - 128 * b.1
    if o < 256 * b.2.1 then some (.m tm g (o % 256 / 8) (o / 256) (o % 8 / 4 == 1)) else none

/-- What stands at an address of the window: none at a reserved or unbacked one (R14), and where no resident group has the register. The
twin and receive window of the group in slot n lies at 1 KiB times n (DEDUCED, log entry 88). -/
def State.winCell (s : State) (a : Nat) : Option WinCell :=
  match winPart a with
  | none => none
  | some (.regs k o) => (s.groupsOn k).findSome? fun q =>
      if o < 128 * q.2.2.rbase then none
      else regCell ((s.launchOf q.1).lrec.budget q.2.2.consumer) q.1 q.2.1 (o - 128 * q.2.2.rbase)
  | some (.closures k o) => (s.groupsOn k).findSome? fun q =>
      let n := o / 256
      let b := q.2.2.cbase
      if b ≤ n ∧ n < b + 32 * ((s.launchOf q.1).lrec.budget q.2.2.consumer).2.2
      then some (.c q.1 q.2.1 ((n - b) % 32) ((n - b) / 32) (o % 256 / 4)) else none
  | some (.scratch k o) => (s.teams.filter fun t => t.place == .resident k).findSome? fun t =>
      if t.spBase ≤ o ∧ o < t.spBase + s.carve t.id then some (.sp t.id (o - t.spBase)) else none
  | some (.twins k o) => (s.groupsOn k).findSome? fun q =>
      if q.2.2.slotNo = o / 1024 then some (.twin q.1 q.2.1 (o % 128 / 4) (o % 1024 / 128)) else none
  | some (.tile j t o) => some (.tile j t (o / 4))

/-- The word of a cell. A tile that is free holds nothing (R261); it reads as zeros here, as its next claimant finds it. -/
def State.winRead (s : State) : WinCell → Word
  | .v tm g l r => s.rdV tm g l r
  | .twin tm g l r => s.rdV tm g l (56 + r)
  | .m tm g l r var => let q := rd (s.lane tm g l).m r; if var then q.var else q.mean
  | .c tm g l r w => rd (rd (s.lane tm g l).c r) w
  | .sp tm o => BitVec.ofNat 32 (leNat ((List.range 4).map fun i => s.spByte tm (o / 4 * 4 + i)))
  | .tile j t w => rd (s.tileWords j t) w

/-- The full bit that the window shows beside a cell, where the group has a twin window (R14). -/
def State.winFull (s : State) : WinCell → Option Bool
  | .twin tm g l r => ((s.team? tm).bind fun t => t.twinOf g).map fun tw => (rd tw.2.regs (twinIx l r)).full
  | _ => none

/-- The word of a cell is written through the window (R4, R15): the copy engine does so for PUSHW (R244), in a twin or receive window. What
system software does is no row of the opcode table (log entry 109). -/
def State.winWrite (s : State) (x : Word) : WinCell → State
  | .v tm g l r => s.modTeam tm fun t =>
      match t.twinOf g with
      | some (i, tw) =>
        if 56 ≤ r then
          let reg : TwinReg := { rd tw.regs (twinIx l (r - 56)) with val := x }
          { t with twins := t.twins.set i { tw with regs := wr tw.regs (twinIx l (r - 56)) reg } }
        else t.modGroup g fun gr => gr.mapLanes (1#32 <<< l) fun _ ln => { ln with v := wr ln.v r x }
      | none => t.modGroup g fun gr => gr.mapLanes (1#32 <<< l) fun _ ln => { ln with v := wr ln.v r x }
  | .twin tm g l r => s.modTeam tm fun t => t.windowFill g l r x
  | .m tm g l r var => s.mapLanes tm g (1#32 <<< l) fun _ ln =>
      let q := rd ln.m r
      { ln with m := wr ln.m r (if var then { q with var := x } else { q with mean := x }) }
  | .c tm g l r w => s.mapLanes tm g (1#32 <<< l) fun _ ln => { ln with c := wr ln.c r (wr (rd ln.c r) w x) }
  | .sp tm o => s.modTeam tm fun t => { t with sp := Memory.setAll t.sp (cellsAt (o / 4 * 4) (leBytes 4 x.toNat)) }
  | .tile j t w => s.setTile j t fun ws => ws.set w x

end Layout

section Bases

/-- The lowest place for n units that meets none of the places in use, each a base and a size. -/
def fitAt (cap : Nat) (used : List (Nat × Nat)) (n : Nat) : Option Nat :=
  let free (b : Nat) : Bool := decide (b + n ≤ cap) && used.all fun u => u.2 == 0 || decide (b + n ≤ u.1) || decide (u.1 + u.2 ≤ b)
  ((0 :: used.map fun u => u.1 + u.2).filter free).foldl (fun acc b => some (match acc with | some x => min x b | none => b)) none

/-- Places for several, one after another. -/
def fitAll (cap : Nat) : List (Nat × Nat) → List Nat → Option (List Nat)
  | _, [] => some []
  | used, n :: ns => match fitAt cap used n with
    | none => none
    | some b => (fitAll cap ((b, n) :: used) ns).map fun bs => b :: bs

/-- Places side by side from b on. -/
def packed : Nat → List Nat → List Nat
  | _, [] => []
  | b, n :: ns => b :: packed (b + n) ns

/-- The new bases of what a core holds when more comes: first fit; where the room is there but in pieces, all of it is set side by side.
Which bases the shepherd gives is not stated (DESIGN CHOICE, log entry 88). An item is its name, its base and its size. -/
def newBases {κ : Type} (cap : Nat) (old new : List (κ × Nat × Nat)) : List (κ × Nat) :=
  match fitAll cap (old.map Prod.snd) (new.map fun q => q.2.2) with
  | some bs => (new.map Prod.fst).zip bs
  | none => ((old ++ new).map Prod.fst).zip (packed 0 ((old ++ new).map fun q => q.2.2))

/-- Give the groups of a team that comes to a core their bases, and the team its carve-out (R14, R282, R386). -/
def State.giveBases (s : State) (tm core : Nat) : State :=
  let need (q : Nat × Nat × Group) : Nat × Nat := (s.launchOf q.1).lrec.groupNeed q.2.2.consumer
  let all := s.groupsOn core
  let old := all.filter fun q => q.1 != tm
  let mine := all.filter fun q => q.1 == tm
  let rows (q : Nat × Nat × Group) : (Nat × Nat) × Nat × Nat := ((q.1, q.2.1), q.2.2.rbase, (need q).1 / 32)
  let clos (q : Nat × Nat × Group) : (Nat × Nat) × Nat × Nat := ((q.1, q.2.1), q.2.2.cbase, (need q).2)
  let carve (t : Team) : Nat × Nat × Nat := (t.id, t.spBase, s.carve t.id)
  let ts := s.teams.filter fun t => t.place == .resident core
  let s1 := (newBases 4096 (old.map rows) (mine.map rows)).foldl (fun s q => s.modGroup q.1.1 q.1.2 fun g => { g with rbase := q.2 }) s
  let s2 := (newBases 768 (old.map clos) (mine.map clos)).foldl (fun s q => s.modGroup q.1.1 q.1.2 fun g => { g with cbase := q.2 }) s1
  (newBases 524288 ((ts.filter fun t => t.id != tm).map carve) ((ts.filter fun t => t.id == tm).map carve)).foldl
    (fun s q => s.modTeam q.1 fun t => { t with spBase := q.2 }) s2

end Bases

end Sys2Proof.Machine
end

