-- ==== Sys2Proof/Machine/Shepherd.lean ====
section
/-!
DEFINITION. The shepherds: parking and waking, placement, the end of teams and launches, ageing, musters, slices, reclaims and
drove starts (24_shepherd_launch R383-R395; 27_shepherd_preemption R420-R437). A move that is not enabled changes nothing.
-/
namespace Sys2Proof.Machine
open Sys2Proof

section Parking

/-- PARK_THRESHOLD_EXPIRY (R113, R194): the core's counter reaches the threshold of a waiting group; when every group of the team is
so far, the team parks. -/
def execParkThresholdExpiry (tm g : Nat) (s : State) : Res :=
  match s.team? tm with
  | none => .next s
  | some t =>
    match t.core? with
    | none => .next s
    | some c =>
      let due (l : Lane) : Option (BitVec 64) := match l.wait with
        | some w => if l.live && !w.expired then w.park.map fun n => w.since + BitVec.ofNat 64 n else none
        | none => none
      let gr := rd t.groups g
      let times := gr.lanes.filterMap due
      if times.isEmpty || gr.handler.isSome then .next s
      else
        let s1 := s.modCore c fun k => { k with cycle := times.foldl (fun m x => if m.ult x then x else m) k.cycle }
        let s2 := s1.modGroup tm g fun gr => { gr with lanes := gr.lanes.map fun l =>
          if (due l).isSome then { l with wait := l.wait.map fun w => { w with expired := true } } else l }
        .next s2.parkAll

/-- A wait of a saved group is over (R391). -/
def State.wakes (s : State) (t : Team) (g l : Nat) : Bool :=
  match (rd (rd t.groups g).lanes l).wait with
  | none => false
  | some w =>
    let fault (m : BitVec 64) : Bool := t.efaults.any fun e => e.hits g m t.tags none
    w.park.isSome && (s.allHold t.id g ((rd t.groups g).path l) w.conds ||
      w.conds.any fun c => match c with | .tags m _ => fault m | _ => false)

/-- WAKE (R222, R391): one of the wake conditions of a saved team holds; for a team that has faulted, that one of its entries is
resolved. -/
def execWake (tm : Nat) (s : State) : Res :=
  match s.team? tm with
  | none => .next s
  | some t =>
    let open' (n : Nat) : Bool := match s.vdev? t.vdev with
      | some d => d.faultq.any fun e => e.num == n && e.open_
      | none => false
    let woken := if !t.wakeEntries.isEmpty then t.wakeEntries.any fun n => !open' n
      else (List.range t.groups.length).any fun g => !(rd t.groups g).ended && (List.range 32).any fun l => s.wakes t g l
    if t.place != .saved || t.eligible || !woken then .next s
    else
      let (n, s1) := s.fresh
      .next (s1.modTeam tm fun t => { t with eligible := true, queuedAt := n, age := 0, wakeEntries := [] })

end Parking

section Placing

/-- A team that waits for a core: a team of the state, or the next grid team of a launch, named by the launch's key (R385). -/
structure Cand where
  id       : Nat
  key      : Nat
  vdev     : Nat
  grid     : Bool
  roles    : List Bool
  rank     : List Nat
  age      : Nat
  reserved : Option Nat
  deriving DecidableEq, Repr, Inhabited

/-- Lexicographic order. -/
def lexLt : List Nat → List Nat → Bool
  | a :: s, b :: t => decide (a < b) || (a == b && lexLt s t)
  | [], _ :: _ => true
  | _, [] => false

/-- The roles of a team's groups. -/
def Team.roles (t : Team) : List Bool := t.groups.map fun g => g.consumer

/-- The teams of a virtual device that may be placed, with their order (R385, R436): priority, those at the head, saved teams oldest
first, then by launch, formed teams first. A launch's key rises in the order of acceptance. -/
def State.queue (s : State) (v : Nat) : List Cand :=
  let mine := s.teams.filter fun t => t.vdev == v && (t.place == .queued || (t.place == .saved && t.eligible))
  let team (t : Team) : Cand :=
    let l := s.launchOf t.id
    { id := t.id, key := t.launch, vdev := v, grid := false, roles := t.roles, age := t.age, reserved := t.reserved
      rank := [7 - l.lrec.prio, if t.atHead then 0 else 1] ++ if t.place == .saved then [0, t.queuedAt, 0, 0] else [1, t.launch, 0, t.queuedAt] }
  let grids := s.launches.filter fun l => l.vdev == v && s.ready l && decide (l.nextTeam < l.lrec.gridSize)
  let grid (l : Launch) : Cand :=
    { id := l.key, key := l.key, vdev := v, grid := true, roles := l.lrec.roleList, age := l.age, reserved := l.reserved
      rank := [7 - l.lrec.prio, 1, 1, l.key, 1, l.nextTeam] }
  mine.map team ++ grids.map grid

/-- The candidate is the team of its launch's watermark (R370). -/
def State.isDue (s : State) (c : Cand) : Bool :=
  match s.launch? c.key with
  | none => false
  | some l => l.ordered && s.watermark l == some (if c.grid then l.nextTeam else (s.token? c.id).getD (l.lrec.gridSize + 1))

/-- The queue of a virtual device as the shepherd considers it: no team of a launch with ordered blends stands before the team of the
launch's watermark, so that room which is made for that team goes to it (R370). -/
def State.cands (s : State) (v : Nat) : List Cand :=
  let q := s.queue v
  q.map fun c => match q.find? fun w => w.key == c.key && w.id != c.id && s.isDue w with
    | some w => if lexLt c.rank w.rank then { c with rank := w.rank ++ [(s.token? c.id).getD 0] } else c
    | none => c

/-- What the resident teams of a core take (R102, R386). -/
def State.coreUse (s : State) (c : Nat) : Nat × Nat × Nat × Nat × Nat :=
  (s.teams.filter fun t => t.place == .resident c).foldl (fun n t =>
    let x := (s.launchOf t.id).lrec.teamNeed t.roles
    (n.1 + x.1, n.2.1 + x.2.1, n.2.2.1 + x.2.2.1, n.2.2.2.1 + x.2.2.2.1, n.2.2.2.2 + x.2.2.2.2)) (0, 0, 0, 0, 0)

/-- The launch record of a candidate. -/
def State.candRec (s : State) (c : Cand) : LaunchRec := match s.launch? c.key with | some l => l.lrec | none => {}

/-- Every team that is resident on a cluster belongs to a partition that places teams there: none has still to leave it (R434, R435; log
entry 98). -/
def State.clusterClear (s : State) (cl : Nat) : Bool := s.teams.all fun t => match t.core? with
  | some k => clusterOf k != cl || (s.clustersOf (s.partOf t.vdev)).contains cl
  | none => true

/-- The core has room for the candidate (R386, R387). -/
def State.coreFits (s : State) (c : Cand) (core : Nat) : Bool :=
  let l := s.candRec c
  let u := s.coreUse core
  let n := l.teamNeed c.roles
  let empty := !(s.teams.any fun t => t.place == .resident core)
  (s.clustersOf (s.partOf c.vdev)).contains (clusterOf core) && s.clusterClear (clusterOf core) && (empty || (s.core core).scr == l.scr) &&
    needFits (n.1 + u.1, n.2.1 + u.2.1, n.2.2.1 + u.2.2.1, n.2.2.2.1 + u.2.2.2.1, n.2.2.2.2 + u.2.2.2.2) l.scr

/-- Bytes of the pool in use by a virtual device's teams (R428). -/
def State.poolUse (s : State) (v : Nat) : Nat :=
  (s.teams.filter fun t => t.vdev == v && t.hasArea).foldl (fun n t => n + (s.launchOf t.id).lrec.areaSize t.roles) 0

/-- The candidate has its context area or can be given one (R428), and no write from before its save is outstanding (R80). -/
def State.candClear (s : State) (c : Cand) : Bool :=
  let has := !c.grid && match s.team? c.id with | some t => t.hasArea | none => false
  let pool := match s.vdev? c.vdev with | some d => d.cfg.poolsz | none => 0
  (has || decide (s.poolUse c.vdev + (s.candRec c).areaSize c.roles ≤ pool)) &&
    (c.grid || !(s.cores.any fun k => k.cv.any fun l => l.pend.any fun w => w.team == c.id))

/-- The cores on which a partition places teams. -/
def State.coresOf (s : State) (part : Nat) : List Nat := (s.clustersOf part).flatMap fun j => [4 * j, 4 * j + 1, 4 * j + 2, 4 * j + 3]

/-- Some core of the partition can take the candidate now. -/
def State.fitsSomewhere (s : State) (c : Cand) : Bool := s.candClear c && (s.coresOf (s.partOf c.vdev)).any (s.coreFits c)

/-- Some core of the partition has room for the candidate. -/
def State.coreTakes (s : State) (c : Cand) : Bool := (s.coresOf (s.partOf c.vdev)).any (s.coreFits c)

/-- The virtual devices of a partition. -/
def State.vdevsOf (s : State) (part : Nat) : List Nat := (s.vdevs.filter fun d => d.cfg.part == part).map fun d => d.id

/-- The aged candidate of a partition (R390). -/
def State.agedOf (s : State) (part : Nat) : Option Cand :=
  ((s.vdevsOf part).flatMap s.cands).find? fun c => c.reserved.isSome

/-- A candidate is aged (R390): 4096 teams have been placed while it waited, and some core of the partition, once emptied, could hold it. -/
def State.aged (s : State) (c : Cand) : Bool :=
  decide (4096 ≤ c.age) && !(s.coresOf (s.partOf c.vdev)).isEmpty && needFits ((s.candRec c).teamNeed c.roles) (s.candRec c).scr

/-- A candidate may be placed on a core (R385, R386, R390, R437); while a team of the partition is aged, only that one on the core reserved
for it. -/
def State.mayPlace (s : State) (c : Cand) (core : Nat) : Bool :=
  s.candClear c && s.coreFits c core && (match s.vdev? c.vdev with | some d => d.sched | none => false) &&
    match s.agedOf (s.partOf c.vdev) with
    | some a => a.id == c.id && a.reserved == some core
    | none => !(((s.vdevsOf (s.partOf c.vdev)).flatMap s.cands).any s.aged) && (s.cands c.vdev).all fun o => o.id == c.id || !lexLt o.rank c.rank || !s.fitsSomewhere o

/-- The group slot numbers that a core has free, lowest first. -/
def State.freeSlotNos (s : State) (core : Nat) : List Nat :=
  let used := (s.teams.filter fun t => t.place == .resident core).flatMap fun t => t.groups.map fun g => g.slotNo
  (List.range 64).filter fun n => !used.contains n

/-- A group as it resumes from the saved context (R391, R427): its waits begin again; a resume code sends every lane there as one
path, and v7 takes the interrupted PC. -/
def Group.resume (g : Group) (base : Code) (now : BitVec 64) (strict : Bool) : Group :=
  let again (w : WaitRec) : Option WaitRec := if w.conds.contains .never then none else some { w with since := now, expired := false }
  let lanes := g.lanes.map fun l => { l with wait := l.wait.bind again }
  match g.desc with
  | some (_, r) =>
    if r == 0xFFFFFFFF || g.overran then { g with lanes := lanes, desc := none, overran := false }
    else
      let go (l : Lane) : Lane :=
        if !l.present || l.exited then l
        else { l with v := wr l.v 7 (codeValue base l.pc), pc := codeAddr base r, repi := 0, held := false, trapHeld := false, wait := none }
      ({ g with lanes := lanes.map go, desc := none, overran := false } : Group).merge strict
  | none => { g with lanes := lanes, overran := false }

/-- The next grid team of a launch, as it starts (R388), with the pushes that came before it (R244). -/
def State.bringGrid (s : State) (l : Launch) : State × Nat :=
  let (id, s1) := s.fresh
  let n := l.nextTeam
  let x := n % l.lrec.gx
  let y := n / l.lrec.gx % l.lrec.gy
  let z := n / (l.lrec.gx * l.lrec.gy)
  let mine (p : Push) : Bool := p.x == x && p.y == y && p.z == z
  let t := (l.pushes.filter mine).foldl Team.fill (gridTeam id l.vdev l.key l.lrec (l.drv.map Drove.rank) x y z)
  ({ (s1.modLaunch l.key fun l => { l with
      nextTeam := n + 1, reserved := none, pushes := l.pushes.filter fun p => !mine p }) with teams := s1.teams ++ [t] }, id)

/-- Every team of a partition that still waits has seen one more placement (R390). -/
def State.countPlaced (s : State) (part : Nat) : State :=
  let vs := s.vdevsOf part
  { s with
    teams := s.teams.map fun t =>
      if vs.contains t.vdev && (t.place == .queued || (t.place == .saved && t.eligible)) then { t with age := t.age + 1 } else t
    launches := s.launches.map fun l =>
      if vs.contains l.vdev && s.ready l && decide (l.nextTeam < l.lrec.gridSize) then { l with age := l.age + 1 } else l }

/-- Put a team of the state on a core (R386-R389, R427): its slots, its registers and their places (R14, R282), and the acquire of Start. -/
def State.settleOn (s : State) (tm core : Nat) : State :=
  let l := s.launchOf tm
  let free := s.freeSlotNos core
  let s1 := if s.teams.any fun t => t.place == .resident core then s else s.modCore core fun k => { k with scr := l.lrec.scr }
  let k := s1.core core
  let s2 := s1.modTeam tm fun t => { t with
    place := .resident core, resOrder := s1.resSeq, eligible := false, atHead := false, reclaimed := false, reserved := none, age := 0, hasArea := true
    started := true, wakeEntries := [], leaving := .no
    groups := ((List.range t.groups.length).zip t.groups).map fun p =>
      { p.2.resume (l.lrec.code.extractLsb' 0 56) k.cycle l.lrec.strict with slotNo := rd free p.1, lastSlice := 7 } }
  let s3 : State := { s2.giveBases tm core with resSeq := s1.resSeq + 1 }
  (((s3.acquire core .system).repost tm).postCopies tm).postMats tm

/-- TEAM_PLACE (R385-R390): a team of the state, or the next grid team of the launch with that key. -/
def execTeamPlace (id core : Nat) (s : State) : Res :=
  let vs := match s.team? id, s.launch? id with
    | some t, _ => [t.vdev]
    | none, some l => [l.vdev]
    | none, none => []
  match (vs.flatMap s.cands).find? fun c => c.id == id with
  | none => .next s
  | some c =>
    if !s.mayPlace c core then .next s
    else
      let b := match c.grid, s.launch? c.key with
        | true, some l => s.bringGrid l
        | _, _ => (s, c.id)
      .next ((b.1.settleOn b.2 core).countPlaced (s.partOf c.vdev))

end Placing

section Ends

/-- Every group has ended, the queues have drained, its collectives have been posted, and every entry has completed but for what a class 9 fault
has stopped (R134, R234, R335). -/
def State.teamDone (s : State) (t : Team) : Bool :=
  (t.place != .ended && t.started) && (t.groups.all fun g => g.ended && g.sq.isEmpty && g.handler.isNone) && !s.teamGranted t.id &&
    !(s.flights.any fun f => f.team == t.id) && !(s.feedback.any fun f => f.team == t.id) &&
    !(s.entries.any fun e => e.team == t.id && !e.parked) && t.copyRecs.isEmpty && t.matRecs.isEmpty && t.leaving == .no

/-- TEAM_END (R134, R247, R259): its registers, tags, carve-out and context area are free; its tiles stay under its tag. A class 9
failure that no wait has taken parks the team instead. -/
def execTeamEnd (tm : Nat) (s : State) : Res :=
  match s.team? tm with
  | none => .next s
  | some t =>
    if !s.teamDone t then .next s
    else match t.unheeded with
    | e :: _ => .next (s.queueRecorded tm e)
    | [] =>
      if s.entries.any fun e => e.team == tm then .next s
      else
        let s1 := t.efaults.foldl (fun s e => s.keepRec t.launch e.record) s
        .next (s1.modTeam tm fun t => { t with
          place := .ended, groups := [], sp := [], tags := 0, counts := [], copyRecs := [], matRecs := [], efaults := [], twins := []
          images := [], hasArea := false })

/-- The status that a launch ends with (R383). -/
def State.endStatus (s : State) (l : Launch) : Nat :=
  match l.ending with
  | some n => n
  | none => if s.depsMet l == some true then 3 else if l.errRec.isSome then 2 else 0

/-- A launch may complete (R389): its end has come by itself, or it is being ended. -/
def State.completes (s : State) (l : Launch) (boards : Nat → BoardEntry) : Bool :=
  s.writesGone l &&
    (if l.ending.isSome then s.noTeams l && (!l.lrec.det || l.finalPhase)
     else if s.depsMet l == some true then decide (l.nextTeam = 0)
     else s.ready l && s.noTeams l && l.bins.isEmpty && (l.lrec.pent == 0 || s.settled l boards) && (!l.lrec.det || l.finalPhase))

/-- The end of a deterministic launch has come, and its final serial phase has not (R378, R389): its graph has settled, unless it is being ended. -/
def State.atFinal (s : State) (l : Launch) (boards : Nat → BoardEntry) : Bool :=
  s.noTeams l && l.bins.isEmpty && l.pens.all List.isEmpty && s.writesGone l && !l.finalPhase &&
    (l.ending.isSome || l.lrec.pent == 0 || s.settled l boards)

/-- SERIAL_PHASE (R86, R376, R378): one move; the last one comes when every block has ended and the graph has settled. -/
def execSerialPhase (key : Nat) (s : State) : Res :=
  match s.launch? key with
  | none => .next s
  | some l =>
    let u := s.useBoards key
    let final := s.atFinal l u.2 && s.areasFree l.vdev (if l.lrec.boardt == 0 then [] else [(l.lrec.boardt, 1024)])
    let lines := l.dbs.flatMap fun d => d.op.lines
    if !l.lrec.det || !(final || (s.somePhased l && s.allPhased l)) || lines.any fun x => s.owned (.mem x) then .next s
    else
      let s1 := (sortBy Deferred.before l.dbs).foldl (fun s d => s.applyDef d.op) (if final then u.1 else s)
      let s2 := l.brands.foldl (fun s b => s.prepLine b.line) s1
      .next (s2.modLaunch key fun l => { l with
        dbs := [], phases := l.phases + 1, finalPhase := l.finalPhase || final
        brands := l.brands.filterMap fun b => b.next (s2.cpLine b.line) })

/-- The next device of a partition in turn (R437). -/
def State.nextDevice (s : State) (v : Nat) : Nat :=
  let ids := sortBy (fun (a b : Nat) => decide (a < b)) (s.vdevsOf (s.partOf v))
  match ids.find? fun i => decide (v < i) with
  | some i => i
  | none => ids.headD v

/-- A device's slice begins: what was withheld for it leaves (R437, R439). -/
def State.beginSlice (s : State) (v : Nat) : State := (s.modVdev v fun d => { d with sched := true }).releaseOut v

/-- The pages of mappings. -/
def mapPages (maps : List PageMap) : List Nat :=
  (maps.filter fun m => m.valid).flatMap fun m => (List.range m.units).map fun i => m.ppage + i

/-- Pages of a device are free again (R438), but for those that another device still has in its pool or maps. -/
def State.freePages (s : State) (v : Nat) (pages : List Nat) : State :=
  let others := s.vdevs.filter fun x => x.id != v
  let kept (p : Nat) : Bool := others.any fun x => (VdevCfg.poolPages x.cfg).contains p || (mapPages x.cfg.maps).contains p
  let free := pages.filter fun p => !kept p
  { s with owner := s.owner.filter fun o => !free.contains o.1 }

/-- A deleted device is gone once the last of its launches has completed (R438, R445) and what was withheld for it has been released in a
slice of its own (R439): its pool is free, its key is gone, and the next device of its partition takes the slice. -/
def State.reapVdev (s : State) (v : Nat) : State :=
  match s.vdev? v with
  | none => s
  | some d =>
    if !d.ending || s.launches.any (fun l => l.vdev == v) || !(d.sched || d.waiting.isEmpty) then s
    else
      let n := s.nextDevice v
      let s1 := s.freePages v (VdevCfg.poolPages d.cfg)
      let s2 : State := { s1 with vdevs := s1.vdevs.filter fun x => x.id != v, keys := s1.keys.filter fun k => k.1 != .vdev v }
      if d.sched then s2.beginSlice n else s2

/-- LAUNCH_COMPLETE (R383, R384, R389, R402): the boards are written back and the completion is posted. -/
def execLaunchComplete (key : Nat) (s : State) : Res :=
  match s.launch? key with
  | none => .next s
  | some l =>
    let b := s.useBoards key
    if !s.completes l b.2 || !s.areasFree l.vdev (boardAreas b.2 ++ l.graphAreas) then .next s
    else
      let s1 := b.1.writeBoards l b.2
      let s2 : State := { s1 with
        launches := s1.launches.filter fun x => x.key != key
        teams := s1.teams.filter fun t => t.launch != key }
      .next ((s2.postCompletion l.vdev l.num (s.endStatus l) l.errRec l.host).reapVdev l.vdev)

end Ends

section Mustering

/-- Have a team leave by muster (R420, R431): one save serves several causes, a team that parks already is left to it, and one whose launch is
being ended only ends (R397). -/
def State.musterTeam (s : State) (tm : Nat) (head : Bool) : State :=
  s.modTeam tm fun t =>
    if t.core?.isNone || (s.launchOf tm).ending.isSome then t
    else { t with leaving := if t.leaving == .no then .muster else t.leaving, atHead := t.atHead || head }

/-- Muster every resident team that p picks. -/
def State.musterAll (s : State) (p : Team → Bool) (head : Bool) : State :=
  ((s.teams.filter fun t => t.core?.isSome && p t).map fun t => t.id).foldl (fun s i => s.musterTeam i head) s

/-- AGED (R390): 4096 teams have been placed in the partition since the team was queued, and it is the oldest such; a core that it
fits once emptied is reserved, and the teams there are mustered. Which core is this model's free choice. -/
def execAged (id : Nat) (s : State) : Res :=
  let v := match s.team? id, s.launch? id with
    | some t, _ => t.vdev
    | none, some l => l.vdev
    | none, none => 0
  let part := s.partOf v
  let all := (s.vdevsOf part).flatMap s.cands
  match all.find? fun c => c.id == id with
  | none => .next s
  | some c =>
    let fit := s.coresOf part
    let lost := match c.reserved with | some k => !(s.coresOf part).contains k | none => false
    if !s.aged c || (all.any fun o => o.id != id && (o.reserved.isSome || (s.aged o && decide (c.age < o.age)))) ||
        (c.reserved.isSome && !lost) then .next s
    else
      let core := rd fit ((Config.freeWord s.tick).toNat % fit.length)
      let s1 := if c.grid then s.modLaunch id fun l => { l with reserved := some core } else s.modTeam id fun t => { t with reserved := some core }
      .next (s1.musterAll (fun t => t.place == .resident core) true)

/-- The team on whose tokens a launch's blends wait is queued and no core takes it, and this resident team of the launch has the
highest token (R370). -/
def State.blendCause (s : State) (t : Team) : Bool :=
  let l := s.launchOf t.id
  let waiting := (s.cands t.vdev).any fun c => c.key == t.launch && !s.coreTakes c && s.isDue c
  l.ordered && waiting && (s.token? t.id).isSome && (s.teams.all fun o => o.launch != t.launch || o.core?.isNone ||
    match s.token? o.id, s.token? t.id with | some a, some b => decide (a ≤ b) | _, _ => true)

/-- A reclaimed team fits no core of the borrower, and this is the borrower's team that was placed last (R436). -/
def State.reclaimCause (s : State) (t : Team) : Bool :=
  let part := s.partOf t.vdev
  let peers := s.teams.filter fun o => o.core?.isSome && s.partOf o.vdev == part
  ((s.vdevsOf part).flatMap s.cands).any (fun c => !c.grid && (match s.team? c.id with | some o => o.reclaimed | none => false) && !s.coreTakes c) &&
    peers.all fun o => decide (o.resOrder ≤ t.resOrder)

/-- The team's core is reserved for an aged team (R390). -/
def State.agedCause (s : State) (t : Team) : Bool :=
  match s.agedOf (s.partOf t.vdev), t.core? with
  | some a, some core => a.reserved == some core
  | _, _ => false

/-- A cause of R420 stands for the team: the core or its cluster is wanted, or its virtual device's slice is over. -/
def State.musterCause (s : State) (t : Team) : Bool :=
  match t.core? with
  | none => false
  | some core =>
    !(s.clustersOf (s.partOf t.vdev)).contains (clusterOf core) ||
      (match s.vdev? t.vdev with | some d => !d.sched | none => true) ||
      s.agedCause t || s.blendCause t || s.reclaimCause t

/-- MUSTER (R420): the shepherd decides to muster a resident team; one that makes room for an aged team comes back to the head (R390). -/
def execMuster (tm : Nat) (s : State) : Res :=
  match s.team? tm with
  | none => .next s
  | some t => .next (if s.musterCause t then s.musterTeam tm (s.agedCause t) else s)

/-- The muster frame and the handler's entry (R421, R422); the marks of an interrupted instruction's fault stay with the frame; with no handler the group is saved as after an overrun. -/
def Group.enterMuster (g : Group) (pc budget : Word × Word) (now : BitVec 64) : Group :=
  let runs := (pc.1 != 0 || pc.2 != 0) && budget.1 != 0
  let h : Handler :=
    { frame := g.lanes, trap := g.trap, start := now, runPos := g.runPos, sdiv := g.sdiv, rngKey := g.rngKey, rngStream := g.rngStream
      frec := g.frec, running := runs }
  if !runs then { g with handler := some h, overran := true }
  else
    let goes (l : Lane) : Bool := l.present && !l.exited
    let ss := ((g.lanes.find? goes).map Lane.s).getD []
    { g with
      handler := some h, trap := none, runPos := 0, yielded := false
      lanes := g.lanes.map fun l =>
        if goes l then { l with pc := pc.2.setWidth 24 ++ pc.1, s := ss, repi := 0, held := false, helper := false, trapHeld := false, wait := none
                                twinWait := false, denied := false, owed := none, owesDiv := false }
        else l
      pres := (List.range 8).map fun sl =>
        (((List.range 4).map fun k => 4 * sl + k).find? fun l => goes (rd g.lanes l)).getD (rd g.pres sl) }

/-- The group stands at a run boundary, at a stall point, also one at which it holds its issue point and its slot (R77), or between the
repeats of a REP (R109, R421). -/
def State.atBoundary (s : State) (tm g : Nat) : Bool :=
  let gr := s.group tm g
  !(s.flights.any fun f => f.team == tm && f.group == g) &&
    s.cores.all fun k => k.slots.all fun x => match x with
      | some q =>
        let l := rd gr.lanes (lowest (gr.splinter q.slice))
        q.team != tm || q.group != g || l.repi != 0 || l.wait.isSome
      | none => true

/-- Take a group's slots; it was the one that was granted last on them (R108). -/
def State.dropGrant (s : State) (tm g : Nat) : State :=
  let mine (x : Option Grant) : Bool := match x with | some q => q.team == tm && q.group == g | none => false
  { s with cores := s.cores.map fun k =>
      { k with
        slots := k.slots.map fun x => if mine x then none else x
        last := (List.range 4).map fun i => if mine (rd k.slots i) then some (tm, g) else rd k.last i } }

/-- MUSTER_TRAP (R109, R421, R422). -/
def execMusterTrap (tm g : Nat) (s : State) : Res :=
  match s.team? tm with
  | none => .next s
  | some t =>
    let gr := rd t.groups g
    if t.leaving != .muster || t.core?.isNone || t.groups.length ≤ g || gr.ended || gr.handler.isSome || !s.atBoundary tm g then .next s
    else
      let mpc := (t.musterPc.extractLsb' 0 32, t.musterPc.extractLsb' 32 32)
      let s1 := (s.dropGrant tm g).modGroup tm g fun gr => gr.enterMuster mpc (t.budget, 0) (s.core (s.coreOf tm)).cycle
      .next (s1.modTeam tm fun t => if (rd t.groups g).handling then t.frameTwins g else t)

/-- BUDGET_OVERRUN (R423): xbudget cycles have passed since the handler's entry; it is abandoned at an instruction boundary, which the
point between two repeats of a REP is not. -/
def execBudgetOverrun (tm g : Nat) (s : State) : Res :=
  match (s.group tm g).handler, s.team? tm with
  | some h, some t =>
    let inside (l : Lane) : Bool := (l.live && l.repi != 0) || l.flying
    if !h.running || (s.group tm g).lanes.any inside || t.core?.isNone then .next s
    else
      let c := s.coreOf tm
      let due := h.start + t.budget.setWidth 64
      let s1 := s.modCore c fun k => { k with cycle := if k.cycle.ult due then due else k.cycle }
      let s2 := s1.log c (s1.core c).cycle 7 (some t.vdev) []
      .next (((s2.dropGrant tm g).modGroup tm g fun gr => { gr.endHandler with overran := true }).modTeam tm (Team.unframeTwins g))
  | _, _ => .next s

/-- SLICE_END (R437, R439): the device's resident teams are mustered, and the next device in turn takes its slice, with the messages
that were withheld for it. -/
def execSliceEnd (v : Nat) (s : State) : Res :=
  match s.vdev? v with
  | none => .next s
  | some d =>
    if !d.sched then .next s
    else
      let n := s.nextDevice v
      let s1 := (s.modVdev v fun d => { d with sched := false }).musterAll (fun t => t.vdev == v) false
      .next ((s1.beginSlice n).reapVdev n)

/-- Take a lent cluster back (R435, R436): the borrower's teams there are mustered and stand at the head of their queue. -/
def State.reclaim (s : State) (cl : Nat) : State :=
  let s1 := { s with lent := s.lent.filter fun q => q.cluster != cl }
  let there (t : Team) : Bool := match t.core? with
    | some k => clusterOf k == cl && !(s1.clustersOf (s1.partOf t.vdev)).contains cl
    | none => false
  let s2 : State := { s1 with teams := s1.teams.map fun t => if there t then { t with reclaimed := true } else t }
  s2.musterAll there true

/-- CLUSTER_RECLAIM (R435): the lender has a ready team that fits there. -/
def execClusterReclaim (cl : Nat) (s : State) : Res :=
  match s.lent.find? fun q => q.cluster == cl with
  | none => .next s
  | some q =>
    let wants := ((s.vdevsOf q.lender).flatMap s.cands).any fun c => needFits ((s.candRec c).teamNeed c.roles) (s.candRec c).scr
    .next (if wants then s.reclaim cl else s)

end Mustering

section Droves

/-- The generation counter of a drove (R393). -/
def Vdev.gen (d : Vdev) (id : Nat) : Nat := rd d.gens id
/-- Set it. -/
def State.setGen (s : State) (v id g : Nat) : State := s.modVdev v fun d => { d with gens := wr d.gens id g }

/-- The number by which the messages of one drove launch are told from those of another (R392-R394): the leader's virtual device and launch
number, carried in CORR and in the answers (DESIGN CHOICE, log entry 13). -/
def droveCorr (v num : Nat) : Nat := v % 256 * 2 ^ 24 + num % 2 ^ 24

/-- The value that a member's next copy of a drove launch waits on (R393). -/
def State.nextGen (s : State) (v id : Nat) : Nat := ((match s.vdev? v with | some x => x.gen id | none => 0) + 1) % 2 ^ 32

/-- DROVE_ACK (R393): the dependences are satisfied; the counter goes up, and the leader learns the value. -/
def execDroveAck (key : Nat) (s : State) : Res :=
  match s.launch? key with
  | none => .next s
  | some l => match l.drv with
    | none => .next s
    | some d =>
      if d.gen.isSome || l.ending.isSome || s.depsMet l != some false then .next s
      else
        let g := s.nextGen l.vdev l.lrec.drvid
        let mine := if d.rank = 0 then [(deviceNo, g)] else []
        let s1 := (s.setGen l.vdev l.lrec.drvid g).modLaunch key fun l =>
          { l with drv := some { d with gen := some g, acks := d.acks ++ mine } }
        .next (if d.rank = 0 then s1
          else (s1.sendDrove l.vdev (rd d.members 0) l.corr (.ack l.lrec.drvid l.corr deviceNo g)).getD s1)

/-- A counter takes the largest value that was acknowledged, when any was (R394). -/
def State.takeLargest (s : State) (v id : Nat) (largest : Option Nat) : State :=
  match largest with | some g => s.setGen v id g | none => s

/-- A member's copy ends with status 4 and the counter takes the largest value that was acknowledged (R394). -/
def State.failDrove (s : State) (l : Launch) (largest : Option Nat) : State :=
  (s.takeLargest l.vdev l.lrec.drvid largest).modLaunch l.key fun l =>
    { l with ending := some (l.ending.getD 4), drv := l.drv.map fun d => { d with failed := true } }

/-- DROVE_DECISION (R394): START when every member has acknowledged one value; FAIL when two values differ, a member refuses, or one
cannot be reached. A FAIL carries the generation of its member's copy: the value that it has acknowledged, or else the leader's. -/
def execDroveDecision (key : Nat) (s : State) : Res :=
  match s.launch? key with
  | none => .next s
  | some l => match l.drv with
    | none => .next s
    | some d =>
      if d.rank ≠ 0 || d.started || d.failed || l.ending.isSome then .next s
      else
        let others := d.members.drop 1
        let all := d.members.all fun m => d.acks.any fun a => a.1 == m
        let g := (d.acks.headD (0, 0)).2
        let same := d.acks.all fun a => a.2 == g
        let lost := d.refused || others.any fun m => (s.partConn m).isNone
        let largest : Option Nat := if d.acks.isEmpty then none else some (d.acks.foldl (fun n a => max n a.2) 0)
        let send (s : State) (b : Nat → DroveBody) : State := others.foldl (fun s m => (s.sendDrove l.vdev m (droveCorr l.vdev l.num) (b m)).getD s) s
        let own := d.gen.getD (s.nextGen l.vdev l.lrec.drvid)
        let acked (m : Nat) : Nat := match d.acks.find? fun a => a.1 == m with | some a => a.2 | none => own
        if lost || !same then
          .next ((send s fun m => .fail l.lrec.drvid deviceNo l.vdev (acked m) largest).failDrove l largest)
        else if all then
          .next ((send s fun _ => .start l.lrec.drvid deviceNo l.vdev g).modLaunch key fun l =>
            { l with drv := some { d with started := true } })
        else .next s

end Droves

end Sys2Proof.Machine
end

