-- ==== Sys2Proof/Machine/Context.lean ====
section
/-!
DEFINITION. The saved context as bytes: export and import (27_shepherd_preemption R428-R430). R428 and R429 give the sections, their
sizes and the lane records; the layout inside the team record and the group records is this model's (log entry 14).
-/
namespace Sys2Proof.Machine
open Sys2Proof

section Encoding

/-- Bytes of a list, cut or filled with zeros to n. -/
def padTo (n : Nat) (bs : List Byte) : List Byte := (bs ++ List.replicate (n - bs.length) 0).take n

/-- Fields packed into one number: offset, width, value. -/
def packFields (fs : List (Nat × Nat × Nat)) : Nat := fs.foldl (fun n f => n + f.2.2 % 2 ^ f.2.1 * 2 ^ f.1) 0

/-- A bit as a number. -/
def bitNat (b : Bool) : Nat := if b then 1 else 0

/-- A hit identity as R429 lays it out. -/
def HitId.pack (h : HitId) : Nat := packFields [(0, 32, h.inst.toNat), (32, 20, h.page), (52, 8, h.cidx), (60, 7, h.tri)]
/-- A hit identity from its bits. -/
def HitId.unpack (n : Nat) : HitId := { inst := BitVec.ofNat 32 (fld n 0 32), page := fld n 32 20, cidx := fld n 52 8, tri := fld n 60 7 }

/-- A writer of record as a number (R429). -/
def Writer.num : Writer → Nat
  | .producer => 0
  | .consumer => 1
  | .engine => 2
/-- A writer of record from its number. -/
def Writer.ofNum : Nat → Writer
  | 0 => .producer
  | 1 => .consumer
  | _ => .engine

/-- The twin registers of a lane of a group, when it belongs to a pair. -/
def Team.laneTwins (t : Team) (g l : Nat) : List TwinReg :=
  match t.twinOf g with
  | some (_, tw) => (List.range 8).map fun k => rd tw.regs (twinIx l k)
  | none => []

/-- The path-table slot of a lane: the lowest lane of its path (R428, R429). -/
def Group.pathSlot (g : Group) (l : Nat) : Nat :=
  ((List.range 32).find? fun k => (rd g.lanes k).samePath (rd g.lanes l) && (rd g.lanes k).s == (rd g.lanes l).s).getD l

/-- A lane record (R429). -/
def Team.laneRecord (t : Team) (g l : Nat) : List Byte :=
  let gr := rd t.groups g
  let x := rd gr.lanes l
  let q := x.query
  let tw := t.laneTwins g l
  let many (lo w : Nat) (xs : List Nat) : List (Nat × Nat × Nat) := ((List.range xs.length).zip xs).map fun p => (lo + w * p.1, w, p.2)
  leBytes 256 (packFields ([
    (0, 56, x.pc.toNat), (64, 56, (x.meet.getD 0).toNat), (120, 1, bitNat x.meet.isNone), (128, 1, bitNat x.present),
    (129, 1, bitNat x.exited), (130, 1, bitNat x.held), (131, 1, bitNat x.helper), (132, 1, bitNat x.trapHeld),
    (133, 7, x.preds.toNat / 2), (144, 6, gr.pathSlot l),
    (160, 32, x.fpctl.toNat), (192, 32, x.fpstat.toNat), (224, 32, x.mmode.toNat), (256, 32, x.mstat.toNat),
    (288, 64, x.rngPos.toNat), (640, 64, q.hdr.toNat), (704, 8, q.mask.toNat), (712, 3, q.cls.toNat),
    (715, 1, bitNat q.isOpen), (716, 1, bitNat q.pend), (717, 1, bitNat q.acc), (718, 1, bitNat q.last), (719, 1, bitNat q.ended),
    (720, 96, q.lastId.pack), (816, 96, q.pendId.pack), (912, 96, q.accId.pack), (1008, 6, x.repi)] ++
    many 352 1 (tw.map fun r => bitNat r.full) ++ many 360 2 (tw.map fun r => r.writer.num) ++ many 384 32 (q.ray.map fun w => w.toNat)))

/-- The group record: this model's layout; behind the group's own registers stand failures of the team. -/
def Group.record (g : Group) (fails : List Word) : List Byte :=
  let tr := g.trap.getD { mask := 0, act := 0, next := 0 }
  let next : BitVec 64 := tr.next.setWidth 64
  padTo 4096 (bytesOf ([BitVec.ofNat 32 g.runPos, BitVec.ofNat 32 (bitNat g.sdiv), BitVec.ofNat 32 (bitNat g.trap.isSome), tr.mask, tr.act,
    next.extractLsb' 0 32, next.extractLsb' 32 32, g.frec.w0, g.frec.w1, g.frec.w2, g.frec.w3, g.frec.va.extractLsb' 0 32,
    g.frec.va.extractLsb' 32 32, g.rngStream.extractLsb' 0 32, g.rngStream.extractLsb' 32 32, 0, 0, BitVec.ofNat 32 g.copies,
    BitVec.ofNat 32 g.mats, g.cycleHi, BitVec.ofNat 32 (bitNat g.ended), BitVec.ofNat 32 (g.phased.getD 0xFFFFFFFF)] ++
    (List.range 8).map (rd g.rngKey) ++ fails))

/-- Words cut or filled with zeros to n. -/
def wordsTo (n : Nat) (ws : List Word) : List Word := (ws ++ List.replicate (n - ws.length) 0).take n

/-- An engine failure that no wait has taken, as words (R247, R259). -/
def EngFault.words (e : EngFault) : List Word :=
  wordsTo 6 [BitVec.ofNat 32 (packFields [(0, 1, bitNat e.group.isSome), (1, 3, e.group.getD 0), (4, 1, bitNat e.tag.isSome),
      (5, 6, e.tag.getD 0), (11, 1, bitNat e.hurdle.isSome), (12, 1, bitNat e.flipped), (13, 3, e.scope.code.toNat)]),
    BitVec.ofNat 32 (packFields [(0, 8, e.cls), (8, 6, e.maj), (14, 3, e.fn), (17, 4, e.kind)]), BitVec.ofNat 32 (e.hurdle.getD 0),
    BitVec.ofNat 32 e.info, e.va.extractLsb' 0 32, e.va.extractLsb' 32 32]

/-- A matrix request that a fault has stopped, as words (R258, R263): what is needed to post it again from its block. -/
def Entry.stopWords (e : Entry) : List Word :=
  match e.work with
  | .mat r => wordsTo 27 ([BitVec.ofNat 32 (packFields [(0, 3, r.fn), (3, 7, r.rprog), (10, 1, bitNat e.tag.isSome), (11, 6, e.tag.getD 0),
        (17, 3, e.scope.code.toNat), (20, 8, e.groups.foldl (fun n g => n + 2 ^ g) 0), (28, 3, e.groups.headD 0)]),
      BitVec.ofNat 32 e.home.1, BitVec.ofNat 32 e.home.2.1, BitVec.ofNat 32 e.home.2.2, BitVec.ofNat 32 e.prio,
      r.vaddr.extractLsb' 0 32, r.vaddr.extractLsb' 32 32] ++ ((List.range 4).map fun j => maskOf fun k => r.rows.contains (32 * j + k)) ++
      r.block)
  | _ => []

/-- What of a team's engine work a fault has stopped (R263): the failures that no wait has taken, each with its request where that is held,
and the requests that are held behind a failure already in the fault queue. -/
def State.failures (s : State) (tm : Nat) : List (Option EngFault × Option Entry) :=
  let held := s.entries.filter fun e => e.team == tm && e.parked
  let recs := match s.team? tm with | some t => t.efaults | none => []
  recs.map (fun f => (some f, held.find? fun e => f.entry == some e.id)) ++
    (held.filter fun e => !(recs.any fun f => f.entry == some e.id)).map fun e => (none, some e)

/-- Words of one failure in a record: what stands there, the failure and the request. -/
def failLen : Nat := 34

/-- A failure as words. -/
def failWords (f : Option EngFault × Option Entry) : List Word :=
  wordsTo failLen (BitVec.ofNat 32 (packFields [(0, 1, bitNat f.1.isSome), (1, 1, bitNat f.2.isSome)]) ::
    wordsTo 6 ((f.1.map EngFault.words).getD []) ++ ((f.2.map Entry.stopWords).getD []))

/-- Failures that a group's block holds: in its record, from a word on, and in the section of its store queue, which is empty when a context is
exported (R430). -/
def failsInRecord : Nat := 29
def failsAt : Nat := 30
def failsInQueue : Nat := 240
def failsPerGroup : Nat := failsInRecord + failsInQueue

/-- The lane as which a group arrived: one with the arrival's place in a deterministic launch (R376). -/
def Team.arrivalLane (t : Team) (a : Arrival) : Nat :=
  ((List.range 32).find? fun k =>
    let h := (rd (rd t.groups a.group).lanes k).home
    h.1 == a.home.1 && (a.home.2.1 < 8 || (8 + h.2.1 == a.home.2.1 && h.2.2 == a.home.2.2))).getD 0

/-- Words of an arrival in a record: present, empty and lane; for a copy, the operands of its slice too (R234). -/
def arrivalLen (mat : Bool) : Nat := if mat then 1 else 8

/-- Words of an arrival record: its number, what the slices agree on, for MMAT the block, and 8 arrivals. -/
def arrRecLen (mat : Bool) : Nat := if mat then 48 else 72

/-- An arrival as words. -/
def Team.arrivalWords (t : Team) (mat : Bool) (a : Arrival) : List Word :=
  wordsTo (arrivalLen mat) (BitVec.ofNat 32 (packFields [(0, 1, 1), (1, 1, bitNat a.empty), (8, 5, t.arrivalLane a)]) :: a.ops)

/-- What the slices of a collective agree on (R235, R256): whether there is anything, FN, whether X stands and its payload, the completion
word, and for MMAT the block's address and the block. -/
def accordWords (mat : Bool) (a : Option Accord) : List Word :=
  wordsTo (if mat then 39 else 7) (match a with
    | none => []
    | some a => [1, BitVec.ofNat 32 a.fn, BitVec.ofNat 32 (bitNat a.x.isSome), ((a.x.map XMod.payload).getD 0).setWidth 32, a.word,
        a.vaddr.extractLsb' 0 32, a.vaddr.extractLsb' 32 32] ++ a.block)

/-- An arrival record: its number, what the slices agree on, and the arrivals by group (R234, R256). -/
def Team.arrRecWords (t : Team) (mat : Bool) (r : ArrRec) : List Word :=
  BitVec.ofNat 32 r.number :: accordWords mat r.accord ++ (List.range 8).flatMap fun g =>
    match r.arrs.find? fun a => a.group == g with
    | some a => t.arrivalWords mat a
    | none => wordsTo (arrivalLen mat) []

/-- What a record must agree on with the team that it is restored into: LEVEL, groups, TSCR, TAGS, the register budgets of the two roles,
the roles and the twin pairs (R428, R430). -/
def Team.shape (t : Team) (l : LaunchRec) : List Word :=
  let (b, c) := (l.budget false, l.budget true)
  [1, BitVec.ofNat 32 t.groups.length, BitVec.ofNat 32 l.tscr, BitVec.ofNat 32 l.tags] ++
    ([b.1, b.2.1, b.2.2, c.1, c.2.1, c.2.2].map (BitVec.ofNat 32)) ++
    [BitVec.ofNat 32 (t.groups.foldr (fun g n => 2 * n + bitNat g.consumer) 0),
     BitVec.ofNat 32 (t.twins.foldr (fun w n => 256 * n + 64 + 8 * (w.cons % 8) + w.prod % 8) 0)]

/-- The team record: shape, descriptors, tags, counts and arrival records in this model's layout. -/
def Team.record (t : Team) (l : LaunchRec) : List Byte :=
  let descs := t.groups.flatMap fun g => match g.desc with
    | some d => [1, d.1, d.2, BitVec.ofNat 32 (bitNat g.overran)]
    | none => [0, 0, 0, BitVec.ofNat 32 (bitNat g.overran)]
  padTo 4096 (bytesOf (t.shape l ++ [t.tags.extractLsb' 0 32, t.tags.extractLsb' 32 32, t.musterPc.extractLsb' 0 32,
    t.musterPc.extractLsb' 32 32, t.budget, BitVec.ofNat 32 t.id, BitVec.ofNat 32 t.copyRecs.length, BitVec.ofNat 32 t.matRecs.length] ++
    (List.range 64).map (fun k => BitVec.ofNat 32 (rd t.counts k)) ++ wordsTo 32 descs ++
    t.copyRecs.flatMap (t.arrRecWords false) ++ t.matRecs.flatMap (t.arrRecWords true)))

/-- A group's block (R428): record, path table, store queue, lane records, and the v, m and c sections. -/
def Team.groupBlock (t : Team) (l : LaunchRec) (fails : List (List Word)) (g : Nat) : List Byte :=
  let gr := rd t.groups g
  let b := l.budget gr.consumer
  let ln (k : Nat) : Lane := rd gr.lanes k
  let regs (n : Nat) (f : Nat → Nat → List Word) : List Byte :=
    bytesOf ((List.range n).flatMap fun r => (List.range 32).flatMap fun k => f r k)
  let mine := (fails.drop (failsPerGroup * g)).take failsPerGroup
  gr.record (mine.take failsInRecord).flatten ++ (List.range 32).flatMap (fun k => bytesOf ((List.range 64).map (rd (ln k).s))) ++
    padTo 32768 (bytesOf (mine.drop failsInRecord).flatten) ++
    (List.range 32).flatMap (t.laneRecord g) ++ regs b.1 (fun r k => [t.rdV g k r]) ++
    regs b.2.1 (fun r k => [(rd (ln k).m r).mean, (rd (ln k).m r).var]) ++
    regs b.2.2 fun r k => (List.range 64).map (rd (rd (ln k).c r))

/-- The context area of a saved team (R428), with what a fault has stopped (R263). -/
def Team.image (t : Team) (l : LaunchRec) (fails : List (List Word)) : List Byte :=
  t.record l ++ (List.range t.groups.length).flatMap (t.groupBlock l fails) ++ (List.range (4096 * l.tscr)).map (Memory.get t.sp) ++
    (List.range 32).flatMap fun a => match t.images.find? fun (i : Nat × List Word) => i.1 == a with
      | some i => padTo 65536 (bytesOf i.2)
      | none => List.replicate 65536 0

/-- The context area of a saved team of this part. -/
def State.contextImage (s : State) (t : Team) (l : LaunchRec) : List Byte := t.image l ((s.failures t.id).map failWords)

end Encoding

section Restoring

/-- Reserved bits of a lane record (R429): offset and width. -/
def laneRsvd : List (Nat × Nat) :=
  [(56, 8), (121, 7), (140, 4), (150, 10), (376, 8), (787, 29), (883, 29), (979, 29), (1014, 1034)]

/-- A lane from its record, with the s-file copy of its path. -/
def laneOf (n : Nat) (s : List Word) : Lane :=
  let w (lo : Nat) : Word := BitVec.ofNat 32 (fld n lo 32)
  { present := n.testBit 128, exited := n.testBit 129, held := n.testBit 130, helper := n.testBit 131, trapHeld := n.testBit 132
    pc := BitVec.ofNat 56 (fld n 0 56), meet := if n.testBit 120 then none else some (BitVec.ofNat 56 (fld n 64 56))
    preds := BitVec.ofNat 8 (2 * fld n 133 7), s := s, fpctl := w 160, fpstat := w 192, mmode := w 224, mstat := w 256
    rngPos := BitVec.ofNat 64 (fld n 288 64), repi := fld n 1008 6
    query :=
      { isOpen := n.testBit 715, pend := n.testBit 716, acc := n.testBit 717, last := n.testBit 718, ended := n.testBit 719
        ray := (List.range 8).map fun i => w (384 + 32 * i), hdr := BitVec.ofNat 64 (fld n 640 64), mask := BitVec.ofNat 8 (fld n 704 8)
        cls := BitVec.ofNat 3 (fld n 712 3), lastId := HitId.unpack (fld n 720 96), pendId := HitId.unpack (fld n 816 96)
        accId := HitId.unpack (fld n 912 96) } }

/-- A group from its block; what the block does not hold stays as in `old`. -/
def Group.ofBlock (old : Group) (l : LaunchRec) (bs : List Byte) (desc : Option (Word × Word)) (overran : Bool) : Group :=
  let ws := wordsOf 30 bs
  let b := l.budget old.consumer
  let sec (off n : Nat) : List Word := wordsOf n (bs.drop off)
  let vs := sec 53248 (32 * b.1)
  let ms := sec (53248 + 128 * b.1) (64 * b.2.1)
  let cs := sec (53248 + 128 * b.1 + 256 * b.2.1) (2048 * b.2.2)
  let lane (k : Nat) : Lane :=
    let n := leNat ((bs.drop (45056 + 256 * k)).take 256)
    let x := laneOf n (wordsOf 64 (bs.drop (4096 + 256 * fld n 144 6)))
    { x with
      home := (rd old.lanes k).home
      v := (List.range b.1).map fun r => rd vs (32 * r + k)
      m := (List.range b.2.1).map fun r => ({ mean := rd ms (2 * (32 * r + k)), var := rd ms (2 * (32 * r + k) + 1) } : Moment)
      c := (List.range b.2.2).map fun r => (List.range 64).map fun j => rd cs (64 * (32 * r + k) + j) }
  { old with
    lanes := (List.range 32).map lane, sq := [], runPos := (rd ws 0).toNat, sdiv := rd ws 1 != 0
    trap := if rd ws 2 == 0 then none else some { mask := rd ws 3, act := rd ws 4, next := (pair (rd ws 5) (rd ws 6)).setWidth 56 }
    frec := { w0 := rd ws 7, w1 := rd ws 8, w2 := rd ws 9, w3 := rd ws 10, va := pair (rd ws 11) (rd ws 12) }
    rngStream := pair (rd ws 13) (rd ws 14), copies := (rd ws 17).toNat, mats := (rd ws 18).toNat, cycleHi := rd ws 19
    ended := rd ws 20 != 0, phased := if rd ws 21 == 0xFFFFFFFF then none else some (rd ws 21).toNat
    rngKey := (ws.drop 22).take 8, desc := desc, overran := overran }

/-- Where the block of group g starts in an image, and where the groups end. -/
def Team.blockAt (t : Team) (l : LaunchRec) (g : Nat) : Nat :=
  (t.groups.take g).foldl (fun n x => let b := l.budget x.consumer; n + 53248 + 128 * b.1 + 256 * b.2.1 + 8192 * b.2.2) 4096

/-- The image may not be restored into this team (R430): another LEVEL or shape, or a reserved bit that is set. -/
def Team.imageBad (t : Team) (l : LaunchRec) (bs : List Byte) : Bool :=
  wordsOf 12 bs != t.shape l || bs.length != l.areaSize t.roles ||
    (List.range t.groups.length).any fun g => (List.range 32).any fun k =>
      let n := leNat ((bs.drop (t.blockAt l g + 45056 + 256 * k)).take 256)
      laneRsvd.any fun q => fld n q.1 q.2 != 0

/-- Twin registers from the sections and lane records of a pair's two groups. -/
def Team.restoreTwins (t : Team) (l : LaunchRec) (bs : List Byte) : Team :=
  { t with twins := t.twins.map fun tw =>
      { tw with regs := (List.range 256).map fun ix =>
          let n := leNat ((bs.drop (t.blockAt l tw.prod + 45056 + 256 * (ix / 8))).take 256)
          { val := rd (rd (rd t.groups tw.prod).lanes (ix / 8)).v (56 + ix % 8), full := n.testBit (352 + ix % 8)
            writer := Writer.ofNum (fld n (360 + 2 * (ix % 8)) 2) } } }

/-- What the slices of an arrival record agree on, from its words; the block lies where its page stands here (R257). -/
def State.accordOf (s : State) (v : Nat) (mat : Bool) (ws : List Word) : Option Accord :=
  if rd ws 0 == 0 then none
  else
    let va := pair (rd ws 5) (rd ws 6)
    some { fn := (rd ws 1).toNat, x := if rd ws 2 == 0 then none else XMod.ofPayload ((rd ws 3).setWidth 21), word := rd ws 4
           block := ws.drop 7, vaddr := va
           paddr := match mat, s.translate v va .read with | true, .ok pa => pa | _, _ => 0 }

/-- An arrival record from its words: the pieces of each slice are made again from its operands, in the context of the team that it is
restored into (R239-R241, R430). A piece whose page does not translate there is left out and no failure is kept (R250; DESIGN CHOICE, log
entry 134). -/
def State.arrRecOf (s : State) (t : Team) (mat : Bool) (ws : List Word) : ArrRec :=
  let hd := if mat then 40 else 8
  let acc := s.accordOf t.vdev mat ((ws.take hd).drop 1)
  let slice (ops : List Word) : Slice := match mat, acc with
    | true, _ | _, none => { fails := [], segs := [], bytes := 0 }
    | false, some a =>
      let cls : BitVec 5 := (a.x.map XMod.cls).getD 0
      if a.fn = 0 then s.copySlice t.id (cls.extractLsb' 0 2).toNat ops a.word
      else s.copytSlice t.id (cls.getLsbD 0) ops a.word
  let arrival (g : Nat) : Option Arrival :=
    let w := (ws.drop (hd + arrivalLen mat * g)).take (arrivalLen mat)
    let h := (rd w 0).toNat
    if !h.testBit 0 then none
    else
      let sl := slice (w.drop 1)
      let home := s.homeOf t.id g (fld h 8 5)
      some (if h.testBit 1 then { group := g, empty := true, segs := [], bytes := 0, home := home }
        else { group := g, empty := false, segs := sl.segs, bytes := sl.bytes, ops := w.drop 1, home := home })
  { number := (rd ws 0).toNat, accord := acc, arrs := (List.range 8).filterMap arrival }

/-- A saved team after an image has been restored into it (R430). Homes and the launch's own state stay. -/
def State.restored (s : State) (t : Team) (l : LaunchRec) (bs : List Byte) : Team :=
  let ws := wordsOf 1024 bs
  let (nc, nm) := (min (rd ws 18).toNat 8, min (rd ws 19).toNat 4)
  let recs (mat : Bool) (lo n : Nat) : List ArrRec := (List.range n).map fun i =>
    s.arrRecOf t mat ((ws.drop (lo + arrRecLen mat * i)).take (arrRecLen mat))
  let group (g : Nat) : Group :=
    let d := (ws.drop (84 + 4 * g)).take 4
    Group.ofBlock (rd t.groups g) l (bs.drop (t.blockAt l g)) (if rd d 0 == 0 then none else some (rd d 1, rd d 2)) (rd d 3 != 0)
  let base := t.blockAt l t.groups.length
  let cells := cellsAt 0 ((bs.drop base).take (4096 * l.tscr))
  let tile (a : Nat) : Nat × List Word := (a, wordsOf 16384 (bs.drop (base + 4096 * l.tscr + 65536 * a)))
  let t1 : Team := { t with
    groups := (List.range t.groups.length).map group
    tags := pair (rd ws 12) (rd ws 13), musterPc := pair (rd ws 14) (rd ws 15), budget := rd ws 16
    counts := ((ws.drop 20).take 64).map fun w => w.toNat, copyRecs := recs false 116 nc, matRecs := recs true (116 + arrRecLen false * nc) nm
    sp := Memory.setAll [] cells, images := (List.range 32).map tile, efaults := [], eligible := true, wakeEntries := [] }
  t1.restoreTwins l bs

/-- A failure from its words. -/
def EngFault.ofWords (id : Nat) (entry : Option Nat) (ws : List Word) : EngFault :=
  let (a, b) := ((rd ws 0).toNat, (rd ws 1).toNat)
  { id := id, group := if a.testBit 0 then some (fld a 1 3) else none, tag := if a.testBit 4 then some (fld a 5 6) else none
    hurdle := if a.testBit 11 then some (rd ws 2).toNat else none, flipped := a.testBit 12
    scope := (Scope.ofCode (BitVec.ofNat 3 (fld a 13 3))).getD .device
    cls := fld b 0 8, maj := fld b 8 6, fn := fld b 14 3, kind := fld b 17 4, info := (rd ws 3).toNat, va := pair (rd ws 4) (rd ws 5)
    entry := entry }

/-- A stopped request from its words, held for the team that it is restored into: by its failure where that stands recorded, else until it
is posted again. -/
def State.stoppedOf (s : State) (tm v id : Nat) (recorded : Bool) (ws : List Word) : Entry :=
  let a := (rd ws 0).toNat
  let va := pair (rd ws 5) (rd ws 6)
  let hd := fld a 28 3
  let row (i : Nat) : Bool := (rd ws (7 + i / 32)).getLsbD (i % 32)
  { id := id, copyEng := false, unit := 0, team := tm, groups := hd :: (List.range 8).filter fun g => g != hd && (fld a 20 8).testBit g
    home := ((rd ws 1).toNat, (rd ws 2).toNat, (rd ws 3).toNat), scope := (Scope.ofCode (BitVec.ofNat 3 (fld a 17 3))).getD .device
    tag := if a.testBit 10 then some (fld a 11 6) else none, hurdle := none, prio := (rd ws 4).toNat
    work := .mat { fn := fld a 0 3, block := (ws.drop 11).take 16, vaddr := va
                   paddr := match s.translate v va .read with | .ok pa => pa | .error _ => 0
                   rows := (List.range 128).filter row, rprog := fld a 3 7, hold := if recorded then .recorded else .resolved } }

/-- What a fault had stopped comes back with the image (R259, R263, R430), under numbers of this part. -/
def State.restoreWork (s : State) (t : Team) (l : LaunchRec) (bs : List Byte) : State :=
  let at' (g i : Nat) : Nat := t.blockAt l g +
    if i < failsInRecord then 4 * (failsAt + failLen * i) else 12288 + 4 * (failLen * (i - failsInRecord))
  let recs := (List.range t.groups.length).flatMap fun g => (List.range failsPerGroup).map fun i => wordsOf failLen (bs.drop (at' g i))
  recs.foldl (fun s ws =>
    let (f, r) := ((rd ws 0).getLsbD 0, (rd ws 0).getLsbD 1)
    let (fid, s1) := s.fresh
    let (eid, s2) := s1.fresh
    if !f && !r then s
    else
      let s3 : State := if r then { s2 with entries := s2.entries ++ [s.stoppedOf t.id t.vdev eid f (ws.drop 7)] } else s2
      if f then s3.modTeam t.id fun t => { t with efaults := t.efaults ++
        [EngFault.ofWords fid (if r then some eid else none) ((ws.drop 1).take 6)] } else s3)
    { s with entries := s.entries.filter fun e => e.team != t.id }

end Restoring

end Sys2Proof.Machine
end

