-- ==== Sys2Proof/Machine/Hub.lean ====
section
/-!
DEFINITION. The hub: connections and messages, launches from the host, windows, code segments and attestation, management, droves,
firmware and reset (28_hub R440-R454; 27_shepherd_preemption R432-R438). A message that may not take effect yet changes nothing:
it is still on its way.
-/
namespace Sys2Proof.Machine
open Sys2Proof

section Messages

/-- The 16 bytes of a message's header (R442). -/
def Msg.header (h : Msg) : List Byte :=
  leBytes 16 (packFields [(0, 8, h.type), (8, 8, h.vdev), (16, 16, h.len), (32, 32, h.seq), (64, 32, h.corr),
    (96, 16, h.status), (112, 16, h.rsvd)])

/-- A header as it is read from a connection (R442). -/
def Msg.ofHeader (conn : Nat) (bs : List Byte) : Msg :=
  let n := leNat (bs.take 16)
  { conn := conn, type := fld n 0 8, vdev := fld n 8 8, len := fld n 16 16, seq := fld n 32 32, corr := fld n 64 32, status := fld n 96 16
    rsvd := fld n 112 16 }

/-- Every field fits its place in the header (R442): there is no other message. -/
def Msg.fits (h : Msg) : Bool :=
  decide (h.type < 2 ^ 8) && decide (h.vdev < 2 ^ 8) && decide (h.len < 2 ^ 16) && decide (h.seq < 2 ^ 32) && decide (h.corr < 2 ^ 32) &&
    decide (h.status < 2 ^ 16) && decide (h.rsvd < 2 ^ 16)

/-- A message of the part as bytes: header and body (R442). -/
def OutMsg.bytes (m : OutMsg) : List Byte :=
  leBytes 16 (packFields [(0, 8, m.type), (8, 8, m.vdev), (16, 16, m.body.length), (32, 32, m.seq), (64, 32, m.corr), (96, 16, m.status)]) ++ m.body

/-- A TYPE that a message may have (R443), and one that only the part sends to a host. -/
def typeListed (t : Nat) : Bool := decide (1 ≤ t) && decide (t ≤ 0x0C)
def typeOut (t : Nat) : Bool := t == 0x02 || t == 0x0A

/-- What an endpoint is asked to accept (R441, R443). -/
inductive Ask where
  | launch | load | tenant | window | attest | recover | drove | shared | manage | readEvents | create | table
  deriving DecidableEq, Repr, Inhabited

/-- The endpoint accepts the message type (R441). -/
def accepts (key : PeerKey) (a : Ask) : Bool :=
  match key with
  | .tenant _ => (match a with | .launch | .load | .tenant | .window | .attest | .shared => true | _ => false)
  | .management => a != .drove
  | .part _ => (match a with | .drove | .window => true | _ => false)
  | .recovery => (match a with | .recover | .attest => true | _ => false)

/-- VDEV is one that the connection may name (R441, R443). -/
def mayName (key : PeerKey) (v : Nat) : Bool :=
  match key with
  | .tenant d => d == v
  | .management => decide (v < 256)
  | _ => true

/-- The message needs its virtual device to exist (R459): every one but the MANAGE that creates it. -/
def needsVdev (key : PeerKey) (a : Ask) : Bool := (match key with | .management | .tenant _ => true | _ => false) && a != .create

/-- The answers to what the part has sent come on a part-to-part connection (R441, R443): those of WWRITE, WREAD and DROVE.
Each takes its turn and is not answered (DEDUCED, log entry 136). -/
def isAnswer (key : PeerKey) (type : Nat) : Bool :=
  match key with | .part _ => type == 0x85 || type == 0x86 || type == 0x8B | _ => false

/-- The whole part as one pasture. -/
def wholePart : Partition :=
  { level := 1, parent := none, clusters := List.range 160, hbmsh := 256, cmnsh := 256, fabsh := 256, isolate := false, slice := 1, period := 1 }

/-- A virtual device stands: it exists and is not being deleted. -/
def State.standing (s : State) (v : Nat) : Bool := match s.vdev? v with | some d => !d.ending | none => false

/-- One program of a firmware image is signed, by both signatures (R28). -/
def partSigned (image : List Byte) (i : Nat) : Bool :=
  let p := Config.imagePart image i
  Config.ecdsaOk p.1 p.2.1 p.2.2.1 && Config.lmsOk p.1 p.2.1 p.2.2.2

/-- A firmware image verifies (R28, R447): the boot code verifies Akgium, Akgium the untrusted firmware, and the security version is at least
the minimum in the fuses. -/
def State.verifies (s : State) (image : List Byte) : Bool :=
  decide (s.minVer ≤ Config.imageVersion image) && partSigned image 0 && partSigned image 1

/-- Akgium generates a key (R449); an owner's older key is gone. -/
def State.generateKey (s : State) (o : KeyOwner) : State :=
  let (n, s1) := s.fresh
  { s1 with keys := (o, Config.newKey n) :: s1.keys.filter fun k => k.1 != o }

/-- Akgium runs (R448, R449): it has generated the firmware's key and management's, and assigned the firmware its pages. The partition table
that it starts with is this model's choice: the whole part as one pasture, in which a first device can be made (R438, R459; DESIGN CHOICE, log
entry 107). -/
def State.akgiumRuns (s : State) (p : Power) : State :=
  { ((s.generateKey .firmware).generateKey .management).generateKey (.part 0) with
    power := p, parts := [(0, wholePart)], secVer := Config.imageVersion s.image, owner := (Config.firmwarePages.map fun x => (x, .firmware)) ++ s.owner }

/-- One stage of bring-up (R28, R447, R452): rails, boot code, Akgium, untrusted firmware, port training, memory training. The boot code
verifies Akgium and the version, Akgium the firmware; where either fails, Akgium's recovery loader is entered (R28, R451). -/
def State.bootStage (s : State) : State :=
  match s.power with
  | .rails => { s with power := .bootCode }
  | .bootCode => s.akgiumRuns (if decide (s.minVer ≤ Config.imageVersion s.image) && partSigned s.image 0 then .akgium else .recovery)
  | .akgium => { s with power := if partSigned s.image 1 then .firmware else .recovery }
  | .firmware => { s with power := .ports }
  | .ports => { s with power := .memory }
  | .memory => { s with power := .running }
  | _ => s

/-- Stages of bring-up that have passed by now, at most n: how long each takes is open (R452). -/
def State.bootBy : Nat → State → State
  | 0, s => s
  | n + 1, s => if s.flip 6 n then State.bootBy n s.bootStage else s

/-- The part as it stands by now, when it is coming up. -/
def State.boot (s : State) : State :=
  match s.power with
  | .running | .recovery | .off => s
  | _ => State.bootBy 6 s

/-- What the part takes up in its present condition (R444, R452): before Akgium runs, nothing; then ATTEST, and LAUNCH and LOAD, which it
refuses; from the untrusted firmware on, the MANAGE that it executes; the rest when bring-up is over. -/
def Power.takes (p : Power) (a : Ask) : Bool :=
  let early := a == .attest || a == .launch || a == .load
  match p with
  | .rails | .bootCode => false
  | .akgium => early
  | .firmware | .ports | .memory =>
    early || a == .shared || a == .manage || a == .readEvents || a == .create || a == .table
  | .running | .recovery | .off => true

/-- Take a message in its turn (R441-R445, R452, R459): the reply with which it is turned away, or `k` on the state in which its
turn has passed. A message of another TYPE of the list is another row's; an answer takes its turn and is not answered. LAUNCH and LOAD are refused
until bring-up is over, whatever their device (R452). A lost core power leaves only ATTEST and the reading of events; what
else comes then is not answered (R452); with no port up nothing arrives. -/
def hubMsg (h : Msg) (type : Nat) (a : Ask) (lenOk : Bool) (s0 : State) (k : State → Conn → State) : Res :=
  let s := s0.boot
  .next (match s.conns.find? fun c => c.id == h.conn with
    | none => s
    | some c =>
      let own := h.type == type
      if !Msg.fits h || (!own && typeListed h.type && !typeOut h.type) || h.seq != c.nextIn || c.xfer.isSome || s.portsUp == 0 || !s.power.takes a then s
      else
        let s1 := s.modConn h.conn Conn.pass
        let no (st : Nat) : State := s1.reply h.conn h.vdev h.type h.corr st []
        if isAnswer c.key h.type then (if own then k s1 c else s1)
        else if s.power == .off && !(own && (a == .attest || a == .readEvents)) then s1
        else if !typeListed h.type || h.rsvd != 0 || decide (4096 < h.len) || (own && !lenOk) || !mayName c.key h.vdev then no 2
        else if !own then no 3
        else if s.power == .recovery && a != .attest && a != .recover then no 3
        else if !accepts c.key a || (a == .recover && s.power != .recovery) then no 3
        else if (a == .launch || a == .load) && s.power != .running then no 4
        else if needsVdev c.key a && !s.standing h.vdev then no 1
        else k s1 c)

end Messages

section Launching

/-- A window write that another connection of the same endpoint has delivered is still being applied (R389). -/
def State.windowBusy (s : State) (key : PeerKey) : Bool :=
  s.conns.any fun c => c.key == key && match c.xfer with | some x => x.write | none => false

/-- The leader replicates its drove launch (R392); a member that cannot be reached fails the start (R394). -/
def State.replicate (s : State) (v num : Nat) (record : List Byte) : State :=
  match s.launches.find? fun l => l.vdev == v && l.num == num with
  | none => s
  | some l => match l.drv with
    | none => s
    | some d =>
      ((List.range d.members.length).drop 1).foldl (fun s r =>
        match s.sendDrove v (rd d.members r) (droveCorr v num) (.replicate record d.members r deviceNo v) with
        | some s' => s'
        | none => s.modLaunch l.key fun l => { l with drv := l.drv.map fun d => { d with refused := true } }) s

/-- What a LAUNCH reads and writes in its context has no owned line (R17). -/
def State.launchFree (s : State) (v : Nat) (record : List Byte) : Bool := s.areasFree v (s.recordAreas v (parseRecord record))

/-- LAUNCH (R17, R382, R389, R392, R443): a refusal comes back with its number in R382's list (log entry 108). -/
def execLaunch (h : Msg) (record : List Byte) (s : State) : Res :=
  match s.conns.find? fun c => c.id == h.conn with
  | none => .next s
  | some c =>
    if s.windowBusy c.key || !s.launchFree h.vdev record then .next s
    else hubMsg h 1 .launch (h.len == 256 && record.length == 256) s fun s _ =>
      let rep (s : State) (st : Nat) (b : List Byte) : State := s.reply h.conn h.vdev 1 h.corr st b
      let a := s.accept h.vdev record .host 7 h.vdev h.conn h.corr
      if a.refused then rep a.state 1 (leBytes 4 (a.why.getD 0)) else (rep a.state 0 (leBytes 4 a.num)).replicate h.vdev a.num record

end Launching

section Windows

/-- Window handles in use on the part; this model gives every window of the part a handle of its own (log entry 15). -/
def State.freeHandle (s : State) : Option Nat :=
  ((List.range 65535).map fun i => i + 1).find? fun n => !(s.vdevs.any fun d => d.wins.any fun w => w.handle == n)

/-- Bytes of a WMAP's body (R443; log entry 108). -/
def WinBody.size : WinBody → Nat
  | .exportWin .. => 24
  | .importWin .. => 16

/-- Every field of a WMAP's body fits its place: a device number has 21 bits, a handle 16 (R6, R443). -/
def WinBody.fits : WinBody → Bool
  | .exportWin b u _ => decide (b < 2 ^ 64) && decide (u < 2 ^ 64)
  | .importWin d n => decide (d < 2 ^ 21) && decide (n < 2 ^ 16)

/-- WMAP (R443). -/
def execWmap (h : Msg) (body : WinBody) (s : State) : Res :=
  hubMsg h 3 .tenant (h.len == WinBody.size body && WinBody.fits body) s fun s _ =>
    match s.freeHandle with
    | none => s.reply h.conn h.vdev 3 h.corr 4 []
    | some n => (s.modVdev h.vdev fun d => { d with wins := d.wins ++ [{ handle := n, body := body }] }).reply h.conn h.vdev 3 h.corr 0
        (leBytes 2 n)

/-- Some copy entry of a virtual device names the window (R443). -/
def State.windowUsed (s : State) (v handle : Nat) : Bool :=
  match (s.vdev? v).bind fun d => d.wins.find? fun w => w.handle == handle with
  | some w => match w.body with
    | .importWin dev rh => s.entries.any fun e => s.vdevOf e.team == v && e.work.segs.any fun g => match g.src, g.dst with
        | .remote d x _, _ => d == dev && x == rh
        | _, .remote d x _ => d == dev && x == rh
        | _, _ => false
    | .exportWin .. => false
  | none => false

/-- WUNMAP (R443, R459), with a handle of 8 bytes: it takes effect after every copy entry that names the handle. -/
def execWunmap (h : Msg) (handle : Nat) (s : State) : Res :=
  if s.windowUsed h.vdev handle then .next s
  else hubMsg h 4 .tenant (h.len == 8) s fun s _ =>
    let holds := match s.vdev? h.vdev with | some d => d.wins.any fun w => w.handle == handle | none => false
    (s.modVdev h.vdev fun d => { d with wins := d.wins.filter fun w => w.handle != handle }).reply h.conn h.vdev 4 h.corr
      (if holds then 0 else 1) []

/-- The exported window that a WWRITE or WREAD names, with its virtual device: another part names it by handle alone (R441, R443). -/
def State.exported (s : State) (key : PeerKey) (v handle : Nat) : Option (Nat × VAddr × Nat × Perm) :=
  let ds := match key with | .part _ => s.vdevs | _ => s.vdevs.filter fun d => d.id == v
  ds.findSome? fun d => d.wins.findSome? fun w =>
    match w.body with
    | .exportWin b u p => if w.handle == handle then some (d.id, BitVec.ofNat 64 b, u, p) else none
    | .importWin .. => none

/-- A window access (R443, R445, R459): STATUS 1, 3 or 2, or its lines, which take effect one by one. -/
def windowAccess (h : Msg) (type : Nat) (write : Bool) (handle off : Nat) (data : List Byte) (n : Nat) (lenOk : Bool) (s : State) : Res :=
  hubMsg h type .window (lenOk && decide (n ≤ 4080)) s fun s c =>
    let no (st : Nat) : State := s.reply h.conn h.vdev type h.corr st []
    match s.exported c.key h.vdev handle with
    | none => no 1
    | some (v, base, units, perm) =>
      if units * 65536 < off + n || (write && !perm.w) || (!write && !perm.r) then no 3
      else match s.place v ⟨0, base + BitVec.ofNat 64 off, n⟩ (if write then .write else .read) with
        | .error _ => no 1
        | .ok segs =>
          let offs := segs.foldl (fun (acc : List (Nat × Nat × Nat) × Nat) q => (acc.1 ++ [(q.1, q.2, acc.2)], acc.2 + q.2)) ([], 0)
          let ops := if n = 0 then [] else ((List.range offs.1.length).zip offs.1).map fun p =>
            ({ id := s.nextId + p.1, off := p.2.2.2, phys := p.2.1, len := p.2.2.1, data := (data.drop p.2.2.2).take p.2.2.1 } : XferOp)
          let s1 : State := { s with nextId := s.nextId + ops.length }
          (s1.modConn h.conn fun y =>
            { y with nextIn := (y.nextIn + 2 ^ 32 - 1) % 2 ^ 32
                     xfer := some { write := write, vdev := h.vdev, corr := h.corr, ops := ops } }).endXfer h.conn

/-- WWRITE (R443): 16 bytes of handle and offset stand before the data. -/
def execWwrite (h : Msg) (handle off : Nat) (data : List Byte) (s : State) : Res :=
  windowAccess h 5 true handle off data data.length (h.len == 16 + data.length) s
/-- WREAD (R443): handle, offset and count, 8 bytes each. -/
def execWread (h : Msg) (handle off count : Nat) (s : State) : Res := windowAccess h 6 false handle off [] count (h.len == 24) s

end Windows

section Code

/-- Length that the codes of an LMS signature imply (R446; RFC 8554): heights 10 to 25, Winternitz 1, 2, 4 or 8; none for others. -/
def lmsLength (sig : List Byte) : Option Nat :=
  let be (o : Nat) : Nat := leNat ((sig.drop o).take 4).reverse
  let p := match be 4 with | 1 => some 265 | 2 => some 133 | 3 => some 67 | 4 => some 34 | _ => none
  match p with
  | none => none
  | some p =>
    let hgt := match be (40 + 32 * p) with | 6 => some 10 | 7 => some 15 | 8 => some 20 | 9 => some 25 | _ => none
    hgt.map fun n => 44 + 32 * p + 32 * n

/-- A segment's fields (R446). -/
def segField (seg : List Byte) (off n : Nat) : Nat := leNat ((seg.drop off).take n)

/-- Bytes of a whole segment, as far as its header tells. -/
def segTotal (seg : List Byte) : Nat := 256 + segField seg 16 4 + segField seg 8 4

/-- A complete segment is malformed (R446). -/
def segBad (seg : List Byte) : Bool :=
  let vb : BitVec 64 := BitVec.ofNat 64 (segField seg 0 8)
  let clen := segField seg 8 4
  ((seg.drop 20).take 44).any (fun b => b != 0) || vb.toNat % 65536 != 0 || !canonical vb || clen % 2 != 0 || clen == 0 ||
    lmsLength ((seg.drop 256).take (segField seg 16 4)) != some (segField seg 16 4)

/-- The physical pages of a segment, when every page is mapped and none belongs to another partition. -/
def Vdev.segPages (d : Vdev) (s : State) (vb : BitVec 64) (clen : Nat) : Option (List Nat) :=
  (List.range ((clen + 65535) / 65536)).foldr (fun i acc =>
    match acc, d.page? (pageOf vb + i) with
    | some l, some (pp, _) => (match s.pageOwner pp with | some o => if o == .part d.cfg.part then some (pp :: l) else none | none => some (pp :: l))
    | _, _ => none) (some [])

/-- Write the code and set its pages in the execute map (R29, R446). -/
def State.writeCode (s : State) (v : Nat) (pages : List Nat) (code : List Byte) : State :=
  let n := (code.length + 127) / 128
  let s1 := (List.range n).foldl (fun s i =>
    let a := rd pages (i / 512) * 65536 + i % 512 * 128
    s.cpWrite (lineOf a) (cellsAt a ((code.drop (128 * i)).take 128))) s
  let s2 := pages.foldl State.dropExec s1
  s2.modVdev v fun d => { d with exec := d.exec ++ pages.filter fun p => !d.exec.contains p }

/-- The lines that a segment's code is written to. -/
def codeLines (pages : List Nat) (clen : Nat) : List Nat :=
  (List.range ((clen + 127) / 128)).map fun i => rd pages (i / 512) * 512 + i % 512

/-- The loader's four checks and effects on a complete segment (R446): the state after it and the reply's STATUS. -/
def State.loadSegment (s : State) (v : Nat) (seg : List Byte) : State × Nat :=
  match s.vdev? v with
  | none => (s, 1)
  | some d =>
    let clen := segField seg 8 4
    let keyid := (seg.drop 112).take 48
    let meas := (seg.drop 64).take 48
    let code := (seg.drop (256 + segField seg 16 4)).take clen
    let signed := seg.take 160
    let ok := Config.policyAdmits d.cfg.policy (segField seg 12 4) keyid && Config.ecdsaOk signed keyid ((seg.drop 160).take 96) &&
      Config.lmsOk signed keyid ((seg.drop 256).take (segField seg 16 4)) && Config.sha384 code == meas
    match d.segPages s (BitVec.ofNat 64 (segField seg 0 8)) clen with
    | none => (s, 3)
    | some pages =>
      if !ok then (s, 3)
      else
        let s1 := s.modVdev v fun d => { d with
          attest := Config.sha384 ((if d.attest.isEmpty then List.replicate 48 0 else d.attest) ++ meas), attestN := d.attestN + 1 }
        (s1.writeCode v pages code, 0)

/-- A whole segment stands in a connection's buffer, but a line of its code is owned by an engine. -/
def State.segOwned (s : State) (v : Nat) (seg : List Byte) : Bool :=
  match s.vdev? v with
  | none => false
  | some d => match d.segPages s (BitVec.ofNat 64 (segField seg 0 8)) (segField seg 8 4) with
    | some pages => (codeLines pages (segField seg 8 4)).any fun x => s.owned (.mem x)
    | none => false

/-- A segment whose LOAD messages have stopped before its last byte, since one for another device follows (R446): the answer to its last
message. -/
def State.dropSegment (s : State) (conn vdev : Nat) : State :=
  match s.conns.find? fun c => c.id == conn with
  | some c =>
    if c.seg.isEmpty || c.segVdev == vdev then s
    else (s.modConn conn fun c => { c with seg := [] }).reply conn c.segVdev 7 c.segCorr 2 []
  | none => s

/-- LOAD (R446): one more part of a segment; the last one has it loaded. -/
def execLoad (h : Msg) (chunk : List Byte) (s : State) : Res :=
  let held := match s.conns.find? fun c => c.id == h.conn with
    | some c => if c.segVdev == h.vdev then c.seg ++ chunk else chunk
    | none => chunk
  let whole := decide (256 ≤ held.length) && decide (segTotal held ≤ held.length)
  if whole && s.segOwned h.vdev held then .next s
  else hubMsg h 7 .load (h.len == chunk.length) s fun s0 _ =>
    let s := s0.dropSegment h.conn h.vdev
    let rep (s : State) (st : Nat) : State := s.reply h.conn h.vdev 7 h.corr st []
    let drop (s : State) : State := s.modConn h.conn fun c => { c with seg := [] }
    if chunk.isEmpty then rep (drop s) 2
    else if !whole then rep (s.modConn h.conn fun c => { c with seg := held, segVdev := h.vdev, segCorr := h.corr }) 0
    else if segTotal held != held.length || segBad held then rep (drop s) 2
    else let r := (drop s).loadSegment h.vdev held; rep r.1 r.2

/-- A reply of any length goes out in bodies of at most 4096 bytes, the last one as the request's reply proper (R440). -/
def State.replyLong (s : State) (h : Msg) (type : Nat) (body : List Byte) : State :=
  let n := (body.length + 4095) / 4096 - 1
  ((List.range n).foldl (fun s i => s.reply h.conn h.vdev type h.corr 0 ((body.drop (4096 * i)).take 4096)) s).reply h.conn h.vdev type h.corr 0
    (body.drop (4096 * n))

/-- ATTEST (R440, R446, R451): the report and the part's signatures; the recovery endpoint ignores VDEV, and its report is of no device (R441). -/
def execAttest (h : Msg) (nonce : List Byte) (s : State) : Res :=
  hubMsg h 8 .attest (h.len == 48 && nonce.length == 48) s fun s c =>
    let a := match if c.key == .recovery then none else s.vdev? h.vdev with
      | some d => (if d.attest.isEmpty then List.replicate 48 0 else d.attest, d.attestN)
      | none => (List.replicate 48 0, 0)
    let body := nonce ++ a.1 ++ leBytes 4 a.2 ++ leBytes 4 s.secVer ++ leBytes 4 deviceNo
    s.replyLong h 8 (body ++ Config.signReport body)

end Code

section DroveMessages

/-- The device of the part that takes part in a drove (R392, R438). -/
def State.droveDevice (s : State) (drvid leader lv : Nat) : Option Vdev :=
  s.vdevs.find? fun d => let m := rd d.cfg.dmap drvid; !d.ending && m.valid && m.leader == leader && m.leaderVdev == lv

/-- The leader's launch to which an answer of a member belongs: by its number, its DRVID and its members (R393; log entry 13). -/
def State.leads (s : State) (num id member : Nat) : Option Launch :=
  s.launches.find? fun l => match l.drv with
    | some d => droveCorr l.vdev l.num == num && l.lrec.drvid == id && d.rank == 0 && d.members.contains member
    | none => false

/-- An acknowledgement that finds no launch that still waits for it (R394): the launch has failed, and the member is told so with the
generation that it has acknowledged; the leader's counter takes the value too when it is the largest. -/
def State.lateAck (s : State) (num id member g : Nat) : State :=
  let v := num / 2 ^ 24
  let own := match s.vdev? v with | some d => d.gen id | none => 0
  let s1 := s.setGen v id (max own g)
  (s1.sendDrove v member num (.fail id deviceNo v g (some (max own g)))).getD s1

/-- An acknowledgement at the leader (R393, R394). -/
def State.droveAck (s : State) (num id member g : Nat) : State :=
  match s.leads num id member with
  | some l => match l.drv with
    | some d =>
      if d.started || d.acks.any (fun a => a.1 == member) then s
      else if d.failed then s.lateAck num id member g
      else s.modLaunch l.key fun l => { l with drv := some { d with acks := d.acks ++ [(member, g)] } }
    | none => s
  | none => s.lateAck num id member g

/-- A member's copy of a launch is refused, when the launch is still undecided (R394). -/
def State.refuseDrove (s : State) (l : Launch) : State :=
  s.modLaunch l.key fun l => { l with drv := l.drv.map fun d => { d with refused := d.refused || (!d.started && !d.failed) } }

/-- A member has refused its copy (R394). -/
def State.droveRefused (s : State) (num id member : Nat) : State :=
  match s.leads num id member with
  | some l => s.refuseDrove l
  | none => s

/-- The answer to a drove copy that was turned away by its STATUS (R442, R459): the launch is the one whose CORR it echoes. -/
def State.droveTurned (s : State) (corr member : Nat) : State :=
  match s.launches.find? fun l => match l.drv with
      | some d => droveCorr l.vdev l.num == corr && d.rank == 0 && d.members.contains member
      | none => false with
  | some l => s.refuseDrove l
  | none => s

/-- DROVE (R17, R392-R394), and the answer to one, of which a STATUS other than 0 or a refusal tells the leader (R442, R443). A FAIL reaches a member that has refused its copy
too, and sets its counter. -/
def execDrove (h : Msg) (body : DroveBody) (s : State) : Res :=
  let held := match body with
    | .replicate record _ _ leader lv => (match s.droveDevice (parseRecord record).drvid leader lv with
      | some d => !s.launchFree d.id record
      | none => false)
    | _ => false
  if held then .next s
  else hubMsg h (if h.type == 0x8B then 0x8B else 0x0B) .drove (h.len == (droveBytes body).length) s fun s c =>
    let ok (s : State) : State := s.reply h.conn h.vdev 0x0B h.corr 0 []
    let from' := match c.key with | .part d => d | _ => 0
    if h.type == 0x8B then
      let s1 := if h.status == 0 then s else s.droveTurned h.corr from'
      (match body with
      | .refuse id n dev => if dev == from' && h.len == (droveBytes body).length then s1.droveRefused n id from' else s1
      | _ => s1)
    else match body with
    | .replicate record ms rank leader lv =>
      let id := (parseRecord record).drvid
      let no (s : State) : State := s.reply h.conn h.vdev 0x0B h.corr 1 (droveBytes (.refuse id h.corr deviceNo))
      match s.droveDevice id leader lv with
      | none => no s
      | some d =>
        let a := s.accept d.id record (.member ms rank) 7 lv h.conn h.corr
        if a.refused then no (a.state.modVdev d.id fun d => { d with refused := (id, h.corr) :: d.refused }) else ok a.state
    | .ack id n dev g => ok (if dev == from' then s.droveAck n id dev g else s)
    | .refuse id n dev => ok (if dev == from' then s.droveRefused n id from' else s)
    | .start id leader lv g =>
      match s.launches.find? fun l => match l.drv with
          | some d => l.lrec.drvid == id && d.rank != 0 && rd d.members 0 == leader && d.leaderVdev == lv && d.gen == some g && !d.failed
          | none => false with
      | some l => ok (s.modLaunch l.key fun l => { l with drv := l.drv.map fun d => { d with started := true } })
      | none => ok s
    | .fail id leader lv g largest =>
      match s.launches.find? fun l => match l.drv with
          | some d => l.lrec.drvid == id && d.rank != 0 && rd d.members 0 == leader && d.leaderVdev == lv && !d.started && !d.failed &&
              (d.gen == some g || (d.gen.isNone && g == s.nextGen l.vdev id))
          | none => false with
      | some l => ok (s.failDrove l largest)
      | none => ok (match s.droveDevice id leader lv with
        | some d =>
          if d.refused.contains (id, h.corr) then
            (s.takeLargest d.id id largest).modVdev d.id fun d => { d with refused := d.refused.filter fun q => q != (id, h.corr) }
          else s
        | none => s)

end DroveMessages

section Management

/-- A management request and its reply (R442-R444): the sub-operation stands in the first word, and n bytes of operands behind it. Their layout
is this model's: 8 bytes for a number, 32 for a format-region register (R371), 60 and 224 for an entry of the partition table and of the
virtual-device table (R432, R438), whose page tables and policy stand outside the message (log entry 108). -/
def manage (h : Msg) (a : Ask) (n : Nat) (s : State) (k : State → State × Nat × List Byte) : Res :=
  hubMsg h 9 a (h.len == 4 + n) s fun s _ => let r := k s; r.1.reply h.conn h.vdev 9 h.corr r.2.1 r.2.2

/-- MANAGE: end a launch with status 6 (R383, R444). -/
def execManageEndLaunch (h : Msg) (num : Nat) (s : State) : Res :=
  manage h .shared 8 s fun s =>
    match s.launches.find? fun l => l.vdev == h.vdev && l.num == num with
    | some l => (s.modLaunch l.key fun l => { l with ending := some (l.ending.getD 6) }, 0, [])
    | none => (s, 1, [])

/-- A decoded line outside page p has packed bytes in it. -/
def State.packedIn (s : State) (p y : Nat) : Bool :=
  y / 512 != p && match s.regionOf y with
    | some (_, r) => let q := packedOf r y; decide (q.2.1 < 65536 * (p + 1)) && decide (65536 * p < q.2.1 + q.2.2)
    | none => false

/-- Every line of a page is written with zeros under its new owner's key (R450): a whole-line write takes a line out of the error-line table
and the page out of the execute maps (R30, R364). Decoded lines over the page's packed bytes are encoded and dropped first; the lines of a page
of a decoded window hold zeros that are still to be encoded (R374). -/
def State.zeroPage (s : State) (p : Nat) : State :=
  let s1 := ((s.decoded.map Prod.fst).filter (s.packedIn p)).foldl (fun s y => (s.encodeLine y).dropLine y) (s.dropExec p)
  let own := if physKind (65536 * p) == .decoded then ((List.range 512).map (512 * p + ·)).filter fun y => (s.regionOf y).isSome else []
  { s1 with
    mem := s1.mem.filter fun c => c.1 / 65536 != p
    errLines := s1.errLines.filter fun x => x / 512 != p
    decoded := own.map (fun y => (y, [true, true, true, true])) ++ s1.decoded.filter fun d => d.1 / 512 != p }

/-- Pages that are owned by nothing become the partition's, filled with zeros (R448, R450). -/
def State.ownPages (s : State) (part : Nat) (pages : List Nat) : State :=
  pages.foldl (fun s p =>
    if (s.pageOwner p).isSome then s else let s1 := s.zeroPage p; { s1 with owner := (p, .part part) :: s1.owner }) s

/-- A page that a tenant's page tables cannot map: one of another partition (R448), of the on-chip window (R15), or of a context pool
(R428). -/
def State.mapsBad (s : State) (part : Nat) (maps : List PageMap) : Bool :=
  (mapPages maps).any fun p => (match s.pageOwner p with | some o => o != .part part | none => false) || physKind (65536 * p) == .window || s.poolPage p

/-- An open entry of a fault queue. -/
def State.openFault (s : State) (v n : Nat) : Option FqEntry := (s.vdev? v).bind fun d => d.faultq.find? fun e => e.num == n && e.open_

/-- Close an entry of a fault queue. -/
def State.closeFault (s : State) (v n : Nat) : State :=
  s.modVdev v fun d => { d with faultq := d.faultq.map fun e => if e.num == n then { e with open_ := false } else e }

/-- Matrix requests that were held for an entry (R259). -/
def Entry.heldFor (e : Entry) (tm n : Nat) : Bool := e.team == tm && match e.work with | .mat r => r.hold == .queued n | _ => false

/-- MANAGE: resolve a fault-queue entry (R222, R448), with the mappings that system software adds. -/
def execManageResolveFault (h : Msg) (entry : Nat) (maps : List PageMap) (s : State) : Res :=
  manage h .shared 8 s fun s =>
    match s.openFault h.vdev entry with
    | none => (s, 1, [])
    | some f =>
      if s.mapsBad (s.partOf h.vdev) maps then (s, 3, [])
      else
        let s1 := (s.closeFault h.vdev entry).ownPages (s.partOf h.vdev) (mapPages maps)
        let s2 := s1.modVdev h.vdev fun d => { d with cfg := { d.cfg with maps := maps ++ d.cfg.maps } }
        let free (w : Work) : Work := match w with | .mat r => .mat { r with hold := .resolved } | w => w
        let s3 : State := { s2 with entries := s2.entries.map fun e => if e.heldFor f.team entry then { e with work := free e.work } else e }
        (s3.repost f.team, 0, [])

/-- MANAGE: deny a fault-queue entry (R222, R259): the replay takes a protection fault, and a matrix request held for it is not posted
again. -/
def execManageDenyFault (h : Msg) (entry : Nat) (s : State) : Res :=
  manage h .shared 8 s fun s =>
    match s.openFault h.vdev entry with
    | none => (s, 1, [])
    | some f =>
      let gone := s.entries.filter fun e => e.heldFor f.team entry
      let s1 := s.closeFault h.vdev entry
      let s2 : State := { s1 with entries := s1.entries.filter fun e => !e.heldFor f.team entry }
      let s3 := gone.foldl (fun s e => match e.tag with
        | some k => s.modTeam f.team fun t => t.tagDone k e.scope
        | none => s) s2
      let owes (l : Lane) : Bool := match l.owed with | some o => o.entry == entry | none => false
      let mark (g : Group) : Group := g.mapLanes f.frec.w1 fun _ l => if owes l then { l with denied := true } else l
      let ended := (s3.group f.team f.group).ended
      let s4 := if ended && !gone.isEmpty then
          s3.keepRec (s3.keyOf f.team) (mkRec 4 (bits f.frec.w0 8 6) (bits f.frec.w0 14 3) 0 (bits f.frec.w0 23 4) 2 0 0 f.frec.va)
        else s3.modGroup f.team f.group mark
      (s4, 0, [])

/-- MANAGE: muster a team (R420). -/
def execManageMusterTeam (h : Msg) (tm : Nat) (s : State) : Res :=
  manage h .manage 8 s fun s =>
    match s.team? tm with
    | some t => if t.vdev == h.vdev && t.core?.isSome then (s.musterTeam tm false, 0, []) else (s, 1, [])
    | none => (s, 1, [])

/-- The partition table keeps R432: levels, clusters, shares and slices of a child within its parent's, siblings apart. -/
def partsOk (ps : List (Nat × Partition)) : Bool :=
  let kids (i : Option Nat) : List Partition := (ps.filter fun p => p.2.parent == i).map Prod.snd
  let sums (f : Partition → Nat) (l : List Partition) : Nat := l.foldl (fun n p => n + f p) 0
  let within (par : Partition) (l : List Partition) : Bool :=
    l.all (fun p => p.clusters.all par.clusters.contains) && decide (sums Partition.hbmsh l ≤ par.hbmsh) &&
      decide (sums Partition.cmnsh l ≤ par.cmnsh) && decide (sums Partition.fabsh l ≤ par.fabsh) &&
      l.all fun p => decide (p.slice * par.period ≤ par.slice * p.period)
  let apart (l : List Partition) : Bool := let all := l.flatMap Partition.clusters; all.eraseDups.length == all.length
  ps.all (fun p => if p.2.level = 1 then p.2.parent.isNone
    else p.2.level == 2 && match p.2.parent with | some i => ps.any fun q => q.1 == i && q.2.level == 1 | none => false) &&
    within wholePart (kids none) && apart (kids none) && ps.all fun p => within p.2 (kids (some p.1)) && apart (kids (some p.1))

/-- Discard what teams have stored and posted and what has not reached CP yet: their pages change owner (R450). -/
def State.dropWork (s : State) (ids : List Nat) : State :=
  { s with
    cores := s.cores.map fun k =>
      { k with cv := k.cv.map fun y => if y.pend.any fun w => ids.contains w.team then { y with pend := y.pend.filter fun w => !ids.contains w.team, copy := none } else y }
    teams := s.teams.map fun t => if ids.contains t.id then { t with groups := t.groups.map fun g => { g with sq := [] } } else t
    entries := s.entries.filter fun e => !ids.contains e.team
    flights := s.flights.filter fun f => !ids.contains f.team
    fq := s.fq.filter fun o => !ids.contains o.team
    feedback := s.feedback.filter fun f => !ids.contains f.team }

/-- Discard what a partition runs when it is deleted (R450): its launches end with status 6, nothing of theirs reaches memory any more, its
pages are cleared, and its key is gone. -/
def State.dropPartition (s : State) (i : Nat) : State :=
  let vs := s.vdevsOf i
  let pages := (s.owner.filter fun o => o.2 == .part i).map Prod.fst
  let s1 := pages.foldl State.zeroPage (s.dropWork ((s.teams.filter fun t => vs.contains t.vdev).map fun t => t.id))
  { s1 with
    launches := s1.launches.map fun l =>
      if vs.contains l.vdev then { l with ending := some (l.ending.getD 6), dbs := [], blends := [] } else l
    owner := s1.owner.filter fun o => o.2 != .part i
    keys := s1.keys.filter fun k => k.1 != .part i }

/-- A loan that the table still allows: the lender holds the cluster, and the borrower is an entry of the same parent (R435). -/
def loanStands (ps : List (Nat × Partition)) (q : Loan) : Bool :=
  ps.any fun a => a.1 == q.lender && a.2.clusters.contains q.cluster &&
    ps.any fun b => b.1 == q.borrower && b.2.parent == a.2.parent && b.2.level == a.2.level

/-- MANAGE: write a partition-table entry (R432, R434, R449): every team on a cluster that leaves is mustered, and until the last of them
has gone no team is placed there (State.clusterClear; log entry 98). LEVEL 0 deletes the entry (log entry 16). -/
def execManageWritePartition (h : Msg) (i : Nat) (p : Partition) (s : State) : Res :=
  manage h .table 68 s fun s =>
    let rest := s.parts.filter fun q => q.1 != i
    let ps := if p.level = 0 then rest else (i, p) :: rest
    if !partsOk ps || (p.level = 0 && !(s.parts.any fun q => q.1 == i)) then (s, 3, [])
    else
      let s1 : State := { s with parts := ps, lent := s.lent.filter (loanStands ps) }
      let s2 := if p.level = 0 then s1.dropPartition i else if (s.part? i).isNone then s1.generateKey (.part i) else s1
      (s2.musterAll (fun t => match t.core? with
        | some k => !(s2.clustersOf (s2.partOf t.vdev)).contains (clusterOf k)
        | none => false) false, 0, [])

/-- The entry that may lend a cluster to another: one of the same parent and level that holds it (R435). -/
def State.lenderOf (s : State) (cl dest : Nat) : Option Nat :=
  match s.part? dest with
  | some b => (s.parts.find? fun q => q.1 != dest && q.2.clusters.contains cl && q.2.parent == b.parent && q.2.level == b.level).map Prod.fst
  | none => none

/-- MANAGE: lend an idle cluster to a partition of the same parent (R435). -/
def execManageLendClusters (h : Msg) (cl dest : Nat) (s : State) : Res :=
  manage h .manage 16 s fun s =>
    let idle := !(s.teams.any fun t => match t.core? with | some k => clusterOf k == cl | none => false)
    match s.lenderOf cl dest with
    | none => (s, 3, [])
    | some i =>
      if !idle || s.lent.any (fun q => q.cluster == cl) then (s, 3, [])
      else ({ s with lent := { cluster := cl, borrower := dest, lender := i } :: s.lent }, 0, [])

/-- MANAGE: reclaim a lent cluster (R435). -/
def execManageReclaimClusters (h : Msg) (cl : Nat) (s : State) : Res :=
  manage h .manage 8 s fun s => if s.lent.any fun q => q.cluster == cl then (s.reclaim cl, 0, []) else (s, 1, [])

/-- Akgium refuses the entry of device v (R6, R15, R428, R438, R448): its own mappings and those of the other devices must not name a page of
its pool, nor its drove map what another device's names. -/
def State.vdevBad (s : State) (v : Nat) (c : VdevCfg) : Bool :=
  let others := s.vdevs.filter fun d => d.id != v
  (s.part? c.part).isNone ||
    (VdevCfg.poolPages c).any (fun p => (match s.pageOwner p with | some o => o != .part c.part | none => false) || physKind (65536 * p) == .window ||
      (mapPages c.maps).contains p || others.any fun d => (mapPages d.cfg.maps).contains p) ||
    s.mapsBad c.part c.maps ||
    (List.range 16).any fun i => let m := rd c.dmap i
      m.valid && (decide (2 ^ 21 ≤ m.leader) || decide (256 ≤ m.leaderVdev) ||
        others.any fun d => let x := rd d.cfg.dmap i; x.valid && x.leader == m.leader && x.leaderVdev == m.leaderVdev)

/-- No other device of the partition has a slice. -/
def State.sliceFree (s : State) (v part : Nat) : Bool := !(s.vdevs.any fun d => d.id != v && d.cfg.part == part && d.sched)

/-- The entry of a device that stands is written anew (R438): pages that it had alone are free and those it takes are its partition's. In
another partition it takes the slice when no device there has one, and its old partition's next device takes the one that it leaves; its teams
on clusters that are not its own any more are mustered (R420, R434). -/
def State.rewriteVdev (s : State) (d : Vdev) (cfg : VdevCfg) : State :=
  let moved := d.cfg.part != cfg.part
  let n := s.nextDevice d.id
  let s1 := s.modVdev d.id fun d => { d with cfg := cfg, sched := !moved && d.sched }
  let s2 := (s1.freePages d.id ((VdevCfg.poolPages d.cfg).filter fun p => moved || !(VdevCfg.poolPages cfg ++ mapPages cfg.maps).contains p)).ownPages
    cfg.part (VdevCfg.poolPages cfg ++ mapPages cfg.maps)
  let s3 := s2.musterAll (fun t => t.vdev == d.id && match t.core? with
    | some k => !(s2.clustersOf cfg.part).contains (clusterOf k)
    | none => false) false
  let s4 := if moved && s.sliceFree d.id cfg.part then s3.beginSlice d.id else s3
  if moved && d.sched && n != d.id then s4.beginSlice n else s4

/-- MANAGE: create a virtual device, or write the entry of one that exists anew (R438, R459). -/
def execManageCreateVdev (h : Msg) (entry : VdevWrite) (s : State) : Res :=
  let cfg := entry.cfg
  manage h .create 224 s fun s =>
    match s.vdev? h.vdev with
    | some d =>
      if !entry.rewrite || d.ending then (s, 1, [])
      else if s.vdevBad h.vdev cfg then (s, 3, [])
      else (s.rewriteVdev d cfg, 0, [])
    | none =>
      if entry.rewrite then (s, 1, [])
      else if s.vdevBad h.vdev cfg then (s, 3, [])
      else
        let s1 := (s.ownPages cfg.part (VdevCfg.poolPages cfg ++ mapPages cfg.maps)).generateKey (.vdev h.vdev)
        ({ s1 with vdevs := s1.vdevs ++ [{ id := h.vdev, cfg := cfg, sched := s.sliceFree h.vdev cfg.part }] }, 0, [])

/-- MANAGE: delete a virtual device (R438): its launches end with status 6, each by its own Launch complete move (R445); the device takes no
message any more, and is gone once the last of them has ended (`State.reapVdev`). -/
def execManageDeleteVdev (h : Msg) (s : State) : Res :=
  manage h .create 0 s fun s =>
    if !s.standing h.vdev then (s, 1, [])
    else
      let s1 : State := { s with launches := s.launches.map fun l =>
        if l.vdev == h.vdev then { l with ending := some (l.ending.getD 6) } else l }
      ((s1.modVdev h.vdev fun d => { d with ending := true }).reapVdev h.vdev, 0, [])

/-- Two registers in force overlap in a window (R371). -/
def regsClash (a b : FmtReg) : Bool :=
  a.fmt != 0 && b.fmt != 0 &&
    ((decide (a.pbase < b.pbase + b.nrec * recBytes b.fmt) && decide (b.pbase < a.pbase + a.nrec * recBytes a.fmt)) ||
      (decide (a.dbase < b.dbase + 32 * b.nrec) && decide (b.dbase < a.dbase + 32 * a.nrec)))

/-- A reserved value, or a field outside its range (R371). -/
def fmtRegBad (r : FmtReg) : Bool :=
  r.rsvd != 0 || decide (4 < r.fmt) || r.nrec % 4 != 0 || decide (2 ^ 32 ≤ r.nrec) || decide (2 ^ 52 ≤ r.pbase) || decide (2 ^ 52 ≤ r.sbase) ||
    (r.fmt != 0 && (r.dbase % 128 != 0 || decide (r.dbase < 0x40000000000) || decide (0x80000000000 < r.dbase + 32 * r.nrec)))

/-- The decoded lines that CP holds for a register. -/
def State.linesOfReg (s : State) (i : Nat) : List Nat :=
  (s.decoded.map Prod.fst).filter fun y => match s.regionOf y with | some (k, _) => k == i | none => false

/-- MANAGE: write a format-region register (R371, R374): 16 for each of 16 controllers; the old region's decoded lines are encoded and
dropped first. -/
def execManageWriteFormatRegion (h : Msg) (controller index : Nat) (value : FmtReg) (s : State) : Res :=
  let i := 16 * controller + index
  if (s.linesOfReg i).any fun y => s.owned (.mem y) then .next s
  else manage h .manage 48 s fun s =>
    let others := ((List.range s.fmtRegs.length).zip s.fmtRegs).filter fun p => p.1 != i
    if decide (16 ≤ controller) || decide (16 ≤ index) || fmtRegBad value || others.any fun p => regsClash p.2 value then (s, 3, [])
    else
      let s1 := (s.linesOfReg i).foldl (fun s y => (s.encodeLine y).dropLine y) s
      ({ s1 with fmtRegs := wr s1.fmtRegs i value }, 0, [])

/-- MANAGE: retire a page (R364): its entries leave the error-line table. -/
def execManageRetirePage (h : Msg) (page : Nat) (s : State) : Res :=
  manage h .manage 8 s fun s =>
    ({ s with retired := page :: s.retired.filter fun p => p != page
              errPages := s.errPages.filter fun p => p != page
              errLines := s.errLines.filter fun x => x / 512 != page }, 0, [])

/-- Spill every tile of a team (R430). -/
def State.spillAll (s : State) (tm : Nat) : State :=
  (((s.tiles.filter fun t => t.team == tm).map fun t => t.cluster).eraseDups).foldl (fun s cl => s.spillTeam cl tm) s

/-- Drain a saved team's queues to CP, group by group (R430). -/
def State.drainSaved (tm : Nat) : Nat → State → State
  | 0, s => s
  | n + 1, s =>
    match s.team? tm with
    | none => s
    | some t => State.drainSaved tm n ((List.range t.groups.length).foldl (fun s g =>
        match execSavedDrain tm g s with | .next s' => s' | _ => s) s)

/-- Twin writes whose full bit waited for the stores before them are whole once those have drained (R198). -/
def State.settleTwins (s : State) (tm : Nat) : State :=
  match s.team? tm with
  | none => s
  | some t => (List.range t.groups.length).foldl (fun s g => match execTwinFull tm g s with | .next s' => s' | _ => s) s

/-- MANAGE: export a saved team's context (R430). It takes effect once its queues can drain; one with more failures than
the groups' blocks hold stays (log entry 14). -/
def execManageExportContext (h : Msg) (tm : Nat) (s : State) : Res :=
  let mine := match s.team? tm with | some t => t.vdev == h.vdev && t.place == .saved | none => false
  let n := (s.teams.foldl (fun n t => t.groups.foldl (fun n g => n + g.sq.length) n) 0)
  let ready := match s.team? tm with
    | some t => if mine then (State.drainSaved tm n (s.spillAll t.id)).settleTwins tm else s
    | none => s
  let stuck := mine && match ready.team? tm with | some t => t.groups.any fun g => !g.sq.isEmpty | none => false
  let due : Bool := match s.conns.find? fun c => c.id == h.conn with
    | some c => h.type == 9 && Msg.fits h && s.power == .running && s.standing h.vdev && h.len == 12 && h.seq == c.nextIn &&
        c.xfer.isNone && s.portsUp != 0 && accepts c.key .shared && mayName c.key h.vdev && h.rsvd == 0 && decide (h.len ≤ 4096)
    | none => false
  if stuck then .next s
  else hubMsg h 9 .shared (h.len == 12) (bif due then ready else s) fun s _ =>
    match s.team? tm with
    | some t =>
      if !mine || decide (failsPerGroup * t.groups.length < (s.failures tm).length) then s.reply h.conn h.vdev 9 h.corr 1 []
      else s.replyLong h 9 (s.contextImage t (s.launchOf tm).lrec)
    | none => s.reply h.conn h.vdev 9 h.corr 1 []

/-- MANAGE: import a team context (R430, R440) into a saved team of the same shape: the image comes in the bodies of several messages, in order,
each one of them answered, and is restored with the last of them. -/
def execManageImportContext (h : Msg) (tm : Nat) (chunk : List Byte) (s : State) : Res :=
  manage h .shared (8 + chunk.length) s fun s =>
    let image := (match s.conns.find? fun c => c.id == h.conn with | some c => if c.imgTeam == tm then c.img else [] | none => []) ++ chunk
    let keep (bs : List Byte) (s : State) : State := s.modConn h.conn fun c => { c with img := bs, imgTeam := tm }
    match s.team? tm with
    | some t =>
      let l := (s.launchOf tm).lrec
      if t.vdev != h.vdev || t.place != .saved || chunk.isEmpty then (keep [] s, 1, [])
      else if image.length < l.areaSize t.roles then (keep image s, 0, [])
      else if t.imageBad l image then (keep [] s, 1, [])
      else
        let s0 := keep [] s
        let s1 : State := { s0 with tiles := s.tiles.filter fun x => x.team != tm }
        ((s1.modTeam tm fun t => s1.restored t l image).restoreWork t l image, 0, [])
    | none => (keep [] s, 1, [])

/-- The 64 bytes of a recorder entry (R453). -/
def Event.bytes (e : Event) : List Byte :=
  leBytes 64 (packFields ([(0, 48, e.seq), (48, 16, e.unit), (64, 64, e.cycle.toNat), (128, 8, e.cls), (136, 8, e.vdev.getD 0),
    (144, 1, bitNat e.vdev.isSome)] ++ ((List.range e.data.length).zip e.data).map fun p => (160 + 32 * p.1, 32, p.2.toNat)))

/-- MANAGE: read the event recorder (R453): the entries in SEQ order. -/
def execManageReadEvents (h : Msg) (s : State) : Res :=
  hubMsg h 9 .readEvents (h.len == 4) s fun s _ =>
    s.replyLong h 9 (s.events.flatMap Event.bytes)

/-- MANAGE: clear the event recorder (R453). -/
def execManageClearEvents (h : Msg) (s : State) : Res := manage h .manage 0 s fun s => ({ s with events := [] }, 0, [])

/-- MANAGE: attach a debugger (R226, R444). -/
def execManageAttachDebugger (h : Msg) (s : State) : Res :=
  manage h .shared 0 s fun s => (s.modVdev h.vdev fun d => { d with debugger := true }, 0, [])
/-- MANAGE: detach the debugger (R444). -/
def execManageDetachDebugger (h : Msg) (s : State) : Res :=
  manage h .shared 0 s fun s => (s.modVdev h.vdev fun d => { d with debugger := false }, 0, [])

/-- A debugger of a virtual device is attached and reaches the part: by a connection of the device or of management, over a port (R1, R226,
R444). -/
def State.debuggerThere (s : State) (v : Nat) : Bool :=
  (match s.vdev? v with | some d => d.debugger | none => false) && s.portsUp != 0 &&
    s.conns.any fun c => c.key == .tenant v || c.key == .management

/-- DEBUGGER_RESUME (R226): an attached debugger resumes a group that BKPT stopped. -/
def execDebuggerResume (tm g : Nat) (s : State) : Res :=
  .next (if s.debuggerThere (s.vdevOf tm) && (s.group tm g).broken then s.modGroup tm g fun g => { g with broken := false } else s)

/-- MANAGE: raise the fused minimum version, at a request signed by the image's key (R447). -/
def execManageRaiseMinVersion (h : Msg) (version : Nat) (sig : List Byte) (s : State) : Res :=
  manage h .manage (8 + sig.length) s fun s =>
    if Config.signedByImage s.image 0 version sig then ({ s with minVer := max s.minVer version }, 0, []) else (s, 3, [])

end Management

section Firmware

/-- A core that has lost everything but its cycle counter (R454). -/
def Core.cleared (k : Core) : Core := { id := k.id, cycle := k.cycle }

/-- Nothing runs any more: teams, launches, what they had posted, what the cores held and what messages had begun are lost; cycle counters go
on (R454). -/
def State.halted (s : State) : State :=
  { s with
    cores := s.cores.map Core.cleared, teams := [], launches := [], entries := [], tiles := [], flights := [], fq := [], feedback := []
    conns := s.conns.map fun c => { (if c.xfer.isSome then c.pass else c) with seg := [], img := [] } }

/-- MANAGE: enter the recovery loader at a signed request (R451). -/
def execManageEnterRecovery (h : Msg) (sig : List Byte) (s : State) : Res :=
  manage h .manage sig.length s fun s =>
    if Config.signedByImage s.image 1 s.secVer sig then ({ s.halted with power := .recovery, recBuf := [] }, 0, []) else (s, 3, [])

/-- RESET (R28, R447, R451-R454): everything is lost but the image, the fuses, the event recorder, with what was under way to it, and the cycle
counters; an image that does
not verify leads to recovery, where Akgium's loader runs with a new key for the firmware (R449). The model's own counters go on, and
messages that have left stay sent. -/
def State.restart (s0 : State) : State :=
  let s := s0.flushEvents
  let s1 : State := { State.reset with
    image := s.image, minVer := s.minVer, events := s.events, eventSeq := s.eventSeq, outbox := s.outbox, nextId := s.nextId
    tick := s.tick, clocks := s.clocks, cores := s.cores.map Core.cleared, agenda := s.agenda
    secVer := Config.imageVersion s.image }
  if s.verifies s.image then s1 else s1.akgiumRuns .recovery

/-- RESET. -/
def execReset (s : State) : Res := .next s.restart

/-- RECOVER (R451): image chunks; the last one has the image verified, written, and the part reset. -/
def execRecover (h : Msg) (chunk : List Byte) (last : Bool) (s : State) : Res :=
  hubMsg h 0x0C .recover (h.len == chunk.length) s fun s _ =>
    let image := s.recBuf ++ chunk
    let rep (s : State) (st : Nat) : State := s.reply h.conn h.vdev 0x0C h.corr st []
    if !last then rep { s with recBuf := image } 0
    else if s.verifies image then ({ rep s 0 with image := image } : State).restart
    else rep { s with recBuf := [] } 3

/-- THERMAL_TRIP (R452): the event is logged, in the recorder before core power is removed. -/
def execThermalTrip (s : State) : Res :=
  .next (if s.power == .off then s else { (s.logUnit 0xE00 4 none []).flushEvents.halted with power := .off })

end Firmware

section Encryption

/-- Whose key encrypts a line: the partition's that owns its page, else the firmware's (R448, R449). -/
def State.lineOwner (s : State) (x : Nat) : KeyOwner := (s.pageOwner (x / 512)).getD .firmware

/-- The key of a line, when Akgium holds one (R449). -/
def State.lineKey (s : State) (x : Nat) : Option (BitVec 512) := (s.keys.find? fun k => k.1 == s.lineOwner x).map Prod.snd

/-- What stands in HBM4E or LPDDR6 for a line of memory: the line under its owner's key with its physical address as the tweak (R449). The
model's memory is the plaintext, as the commons hold it. -/
def State.cipher (s : State) (x : Nat) : Option (List Byte) :=
  (s.lineKey x).map fun k => Config.xtsEncrypt k (128 * x) (Memory.read s.mem (128 * x) 128)

/-- Memory after the encrypted bytes of a line have been altered outside the part: the line decrypts to other bytes, and no fault is raised
(R449; log entry 99: no agent of the part does so). -/
def State.alterLine (s : State) (x : Nat) (bs : List Byte) : State :=
  match s.lineKey x with
  | some k => { s with mem := Memory.setAll s.mem (cellsAt (128 * x) (Config.xtsDecrypt k (128 * x) bs)) }
  | none => s

end Encryption

section Connections

/-- The endpoint that a key binds to exists in the part's present condition (R441, R451). -/
def State.keyOk (s : State) (key : PeerKey) : Bool :=
  match key with
  | .tenant v => s.standing v && s.power != .recovery
  | .recovery => s.power == .recovery
  | .part d => decide (d < 2 ^ 21) && s.power != .recovery
  | _ => s.power != .recovery

/-- The part supports what a peer asks for (R440). -/
def ConnOption.listed : ConnOption → Bool
  | .unlisted _ => false
  | _ => true

/-- CONNECTION_SETUP (R440, R441, R452): a peer that asks for an unlisted option is refused; at most 4096 connections, at most 256 of one
virtual device; what was held for it leaves. Akgium, which derives the keys, must run. -/
def execConnectionSetup (conn : Nat) (asks : ConnAsk) (s0 : State) : Res :=
  let key := asks.key
  let s := s0.boot
  let ofDev := (s.conns.filter fun c => match key with | .tenant _ => c.key == key | _ => false).length
  if s.conns.any (fun c => c.id == conn) || decide (4096 ≤ s.conns.length) || decide (256 ≤ ofDev) || !s.keyOk key || s.portsUp == 0 ||
      !s.power.takes .attest || !asks.options.all ConnOption.listed then .next s
  else
    let s1 : State := { s with conns := s.conns ++ [{ id := conn, key := key }] }
    .next (match key with | .tenant v => s1.releaseOut v | _ => s1)

/-- CONNECTION_CLOSE (R441): what a tenant's connection still held of COMPLETION and FAULTQ messages waits for another, ahead of what has been
posted since. -/
def execConnectionClose (conn : Nat) (s : State) : Res :=
  .next (match s.conns.find? fun c => c.id == conn with
    | none => s
    | some c =>
      let s1 : State := { s with conns := s.conns.filter fun c => c.id != conn }
      match c.key with
      | .tenant v => (s1.modVdev v fun d => { d with waiting := c.held.filter (fun m => typeOut m.type) ++ d.waiting }).releaseOut v
      | _ => s1)

/-- PORT_FAILURE (R440, R453): the port is drained, and the event logged. -/
def execPortFailure (port : Nat) (s : State) : Res :=
  .next (if 16 ≤ port || !s.portsUp.getLsbD port then s
    else { s.logUnit (0xD00 + port) 5 none [] with portsUp := s.portsUp &&& ~~~(1#16 <<< port) })

end Connections

end Sys2Proof.Machine
end

