-- ==== Sys2Proof/Machine/System.lean ====
section
/-!
DEFINITION. The system instructions: major 0x03, FN 3 to 7 (11_lane_faults R225-R229).
-/
namespace Sys2Proof.Machine
open Sys2Proof

/-- TRAP (R226): its lanes enter the handler with class 16; with no lane it has no effect. -/
def execTrap (m : Mods) (f : RForm) (s : State) : Res :=
  issue (.trap m f) s fun c s =>
    let g := s.guarded c f.g
    if g == 0 then .done s else .fault { cls := 16, mask := g, info := f.a.toNat }

/-- A debugger is attached to the team's virtual device (R226, R444). -/
def State.debugged (s : State) (tm : Nat) : Bool := match s.vdev? (s.vdevOf tm) with | some d => d.debugger | none => false

/-- BKPT (R224, R226): the group stops and is reported to the debugger through the hub's management path, its lanes at the next
instruction; with no debugger, or in trap state, it is a fault of class 17. The report is a message of TYPE 0x09 with team, group and
address; the form of its body is this model's (log entry 93). -/
def execBkpt (m : Mods) (f : RForm) (s : State) : Res :=
  issue (.bkpt m f) s fun c s =>
    if s.debugged c.team && (s.group c.team c.group).trap.isNone then
      .done ((s.modGroup c.team c.group fun g => { g with broken := true }).postOut (s.vdevOf c.team) 0x09
        (leBytes 4 c.team ++ leBytes 4 c.group ++ leBytes 8 c.pc.toNat))
    else .fault { cls := 17, mask := c.act }

/-- The traversals that lanes have posted and that have not landed are given up: their instructions have not left the issue point. -/
def State.recall (s : State) (tm g : Nat) (m : BitVec 32) : State :=
  { s with flights := s.flights.filter fun f => !(f.vis && f.team == tm && f.group == g && f.act &&& m != 0) }

/-- TRET and TRET.SKIP (R227): what a path of the handler still has in flight goes with the handler. -/
def execTret (m : Mods) (f : RForm) (s : State) : Res :=
  issue (.tret m f) s fun c s =>
    match (s.group c.team c.group).trap with
    | none => illegalAct c
    | some st => .moved ((s.recall c.team c.group st.mask).modGroup c.team c.group fun g => g.trapReturn st (m.clsBit 0)) .ended

/-- MDONE (R228, R424): group-uniform, so that helper lanes alone do nothing (R110). -/
def execMdone (m : Mods) (f : RForm) (s : State) : Res :=
  issue (.mdone m f) s fun c s => groupUniform c s <|
    match (s.group c.team c.group).handler with
    | none => illegalAct c
    | some h =>
      let d := s.rdS c f.a.toNat
      if !h.running || bits d 4 28 != 0 then illegalAct c
      else .moved ((s.modGroup c.team c.group fun g =>
        { g.endHandler with desc := some (d, s.rdS c (f.a.toNat + 1)) }).modTeam c.team (Team.unframeTwins c.group)) .ended

/-- The copies of one class of control block are discarded (R229). -/
def State.discard (s : State) (c : Cur) (cls : Nat) : State :=
  let v := s.vdevOf c.team
  let each (f : Launch → Launch) : State := { s with launches := s.launches.map fun l => if l.vdev == v then f l else l }
  match cls with
  | 0 => each fun l => { l with foldTab := [] }
  | 1 => each fun l => { l with penTab := [] }
  | 2 => each fun l => { l with boardTab := [] }
  | 4 => s.modCore c.core fun k => { k with wc := [], lc := [] }
  | _ => s

/-- INVD (R229): a FENCE at DEVICE scope first; `.FMT` from a launch takes a protection fault. -/
def execInvd (m : Mods) (f : RForm) (s : State) : Res :=
  issue (.invd m f) s fun c s =>
    let cls := m.clsField 0 3
    if cls == 3 then .fault { cls := 4, mask := c.act }
    else
      let q := s.fenceConds c .device
      s.need c q.1 q.2 none <| .done ((s.fenceRefresh c .device).discard c cls)

end Sys2Proof.Machine
end

