-- ==== Sys2Proof/Machine/Dispatch.lean ====
section
/-!
DEFINITION. What every instruction does: one arm per constructor, each one direct call of its meaning.
-/
namespace Sys2Proof.Machine
open Sys2Proof

/-- The instruction's effect on the state. -/
def exec (i : Instr) (s : State) : Host.Outcome State Fault Refusal :=
  match i with
  | .bra m f => Sys2Proof.Machine.execBra m f s
  | .call m f => Sys2Proof.Machine.execCall m f s
  | .brx m f => Sys2Proof.Machine.execBrx m f s
  | .callx m f => Sys2Proof.Machine.execCallx m f s
  | .ret m f => Sys2Proof.Machine.execRet m f s
  | .exit m f => Sys2Proof.Machine.execExit m f s
  | .yield m f => Sys2Proof.Machine.execYield m f s
  | .nop m f => Sys2Proof.Machine.execNop m f s
  | .trap m f => Sys2Proof.Machine.execTrap m f s
  | .bkpt m f => Sys2Proof.Machine.execBkpt m f s
  | .tret m f => Sys2Proof.Machine.execTret m f s
  | .mdone m f => Sys2Proof.Machine.execMdone m f s
  | .invd m f => Sys2Proof.Machine.execInvd m f s
  | .meet m f => Sys2Proof.Machine.execMeet m f s
  | .meetr m f => Sys2Proof.Machine.execMeetr m f s
  | .vote m f => Sys2Proof.Machine.execVote m f s
  | .shfl m f => Sys2Proof.Machine.execShfl m f s
  | .srd m f => Sys2Proof.Machine.execSrd m f s
  | .swr m f => Sys2Proof.Machine.execSwr m f s
  | .iadd m f => Sys2Proof.Machine.execIadd m f s
  | .isub m f => Sys2Proof.Machine.execIsub m f s
  | .iand m f => Sys2Proof.Machine.execIand m f s
  | .ior m f => Sys2Proof.Machine.execIor m f s
  | .ixor m f => Sys2Proof.Machine.execIxor m f s
  | .imin m f => Sys2Proof.Machine.execImin m f s
  | .imax m f => Sys2Proof.Machine.execImax m f s
  | .isel m f => Sys2Proof.Machine.execIsel m f s
  | .shl m f => Sys2Proof.Machine.execShl m f s
  | .shrl m f => Sys2Proof.Machine.execShrl m f s
  | .shra m f => Sys2Proof.Machine.execShra m f s
  | .rot m f => Sys2Proof.Machine.execRot m f s
  | .bfx m f => Sys2Proof.Machine.execBfx m f s
  | .bfi m f => Sys2Proof.Machine.execBfi m f s
  | .popc m f => Sys2Proof.Machine.execPopc m f s
  | .clz m f => Sys2Proof.Machine.execClz m f s
  | .imul m f => Sys2Proof.Machine.execImul m f s
  | .imulh m f => Sys2Proof.Machine.execImulh m f s
  | .imad m f => Sys2Proof.Machine.execImad m f s
  | .iaddc m f => Sys2Proof.Machine.execIaddc m f s
  | .lea m f => Sys2Proof.Machine.execLea m f s
  | .brev m f => Sys2Proof.Machine.execBrev m f s
  | .iabs m f => Sys2Proof.Machine.execIabs m f s
  | .ineg m f => Sys2Proof.Machine.execIneg m f s
  | .iaddi m f => Sys2Proof.Machine.execIaddi m f s
  | .mov m f => Sys2Proof.Machine.execMov m f s
  | .inot m f => Sys2Proof.Machine.execInot m f s
  | .ext m f => Sys2Proof.Machine.execExt m f s
  | .iset m f => Sys2Proof.Machine.execIset m f s
  | .plop m f => Sys2Proof.Machine.execPlop m f s
  | .movi m f => Sys2Proof.Machine.execMovi m f s
  | .iaddU m f => Sys2Proof.Machine.execIaddU m f s
  | .isubU m f => Sys2Proof.Machine.execIsubU m f s
  | .iandU m f => Sys2Proof.Machine.execIandU m f s
  | .iorU m f => Sys2Proof.Machine.execIorU m f s
  | .ixorU m f => Sys2Proof.Machine.execIxorU m f s
  | .iminU m f => Sys2Proof.Machine.execIminU m f s
  | .imaxU m f => Sys2Proof.Machine.execImaxU m f s
  | .shlU m f => Sys2Proof.Machine.execShlU m f s
  | .shrlU m f => Sys2Proof.Machine.execShrlU m f s
  | .shraU m f => Sys2Proof.Machine.execShraU m f s
  | .rotU m f => Sys2Proof.Machine.execRotU m f s
  | .bfxU m f => Sys2Proof.Machine.execBfxU m f s
  | .bfiU m f => Sys2Proof.Machine.execBfiU m f s
  | .popcU m f => Sys2Proof.Machine.execPopcU m f s
  | .clzU m f => Sys2Proof.Machine.execClzU m f s
  | .imulU m f => Sys2Proof.Machine.execImulU m f s
  | .imulhU m f => Sys2Proof.Machine.execImulhU m f s
  | .imadU m f => Sys2Proof.Machine.execImadU m f s
  | .iaddcU m f => Sys2Proof.Machine.execIaddcU m f s
  | .leaU m f => Sys2Proof.Machine.execLeaU m f s
  | .brevU m f => Sys2Proof.Machine.execBrevU m f s
  | .iabsU m f => Sys2Proof.Machine.execIabsU m f s
  | .inegU m f => Sys2Proof.Machine.execInegU m f s
  | .iaddiU m f => Sys2Proof.Machine.execIaddiU m f s
  | .movU m f => Sys2Proof.Machine.execMovU m f s
  | .inotU m f => Sys2Proof.Machine.execInotU m f s
  | .extU m f => Sys2Proof.Machine.execExtU m f s
  | .isetU m f => Sys2Proof.Machine.execIsetU m f s
  | .moviU m f => Sys2Proof.Machine.execMoviU m f s
  | .movW16 f => Sys2Proof.Machine.execMovW16 f s
  | .iaddW16 f => Sys2Proof.Machine.execIaddW16 f s
  | .isubW16 f => Sys2Proof.Machine.execIsubW16 f s
  | .iandW16 f => Sys2Proof.Machine.execIandW16 f s
  | .iorW16 f => Sys2Proof.Machine.execIorW16 f s
  | .ixorW16 f => Sys2Proof.Machine.execIxorW16 f s
  | .shlW16 f => Sys2Proof.Machine.execShlW16 f s
  | .shrlW16 f => Sys2Proof.Machine.execShrlW16 f s
  | .shraW16 f => Sys2Proof.Machine.execShraW16 f s
  | .imulW16 f => Sys2Proof.Machine.execImulW16 f s
  | .faddW16 f => Sys2Proof.Machine.execFaddW16 f s
  | .fsubW16 f => Sys2Proof.Machine.execFsubW16 f s
  | .fmulW16 f => Sys2Proof.Machine.execFmulW16 f s
  | .fminW16 f => Sys2Proof.Machine.execFminW16 f s
  | .fmaxW16 f => Sys2Proof.Machine.execFmaxW16 f s
  | .iaddiW16 f => Sys2Proof.Machine.execIaddiW16 f s
  | .fadd m f => Sys2Proof.Machine.execFadd m f s
  | .fsub m f => Sys2Proof.Machine.execFsub m f s
  | .fmul m f => Sys2Proof.Machine.execFmul m f s
  | .fmin m f => Sys2Proof.Machine.execFmin m f s
  | .fmax m f => Sys2Proof.Machine.execFmax m f s
  | .fma m f => Sys2Proof.Machine.execFma m f s
  | .frnd m f => Sys2Proof.Machine.execFrnd m f s
  | .fclass m f => Sys2Proof.Machine.execFclass m f s
  | .fset m f => Sys2Proof.Machine.execFset m f s
  | .cvt m f => Sys2Proof.Machine.execCvt m f s
  | .cvti m f => Sys2Proof.Machine.execCvti m f s
  | .cvtf m f => Sys2Proof.Machine.execCvtf m f s
  | .pack m f => Sys2Proof.Machine.execPack m f s
  | .unpk m f => Sys2Proof.Machine.execUnpk m f s
  | .dot2 m f => Sys2Proof.Machine.execDot2 m f s
  | .dot4 m f => Sys2Proof.Machine.execDot4 m f s
  | .dot8 m f => Sys2Proof.Machine.execDot8 m f s
  | .rcp m f => Sys2Proof.Machine.execRcp m f s
  | .rcpa m f => Sys2Proof.Machine.execRcpa m f s
  | .rsq m f => Sys2Proof.Machine.execRsq m f s
  | .sqrt m f => Sys2Proof.Machine.execSqrt m f s
  | .exp2 m f => Sys2Proof.Machine.execExp2 m f s
  | .log2 m f => Sys2Proof.Machine.execLog2 m f s
  | .sincos m f => Sys2Proof.Machine.execSincos m f s
  | .erf m f => Sys2Proof.Machine.execErf m f s
  | .rngkey m f => Sys2Proof.Machine.execRngkey m f s
  | .rngpos m f => Sys2Proof.Machine.execRngpos m f s
  | .rng m f => Sys2Proof.Machine.execRng m f s
  | .rngf m f => Sys2Proof.Machine.execRngf m f s
  | .rngn m f => Sys2Proof.Machine.execRngn m f s
  | .ld m f => Sys2Proof.Machine.execLd m f s
  | .st m f => Sys2Proof.Machine.execSt m f s
  | .lds m f => Sys2Proof.Machine.execLds m f s
  | .sts m f => Sys2Proof.Machine.execSts m f s
  | .pref m f => Sys2Proof.Machine.execPref m f s
  | .atomAdd m f => Sys2Proof.Machine.execAtomAdd m f s
  | .atomMin m f => Sys2Proof.Machine.execAtomMin m f s
  | .atomMax m f => Sys2Proof.Machine.execAtomMax m f s
  | .atomAnd m f => Sys2Proof.Machine.execAtomAnd m f s
  | .atomOr m f => Sys2Proof.Machine.execAtomOr m f s
  | .atomXor m f => Sys2Proof.Machine.execAtomXor m f s
  | .atomXchg m f => Sys2Proof.Machine.execAtomXchg m f s
  | .atomFadd m f => Sys2Proof.Machine.execAtomFadd m f s
  | .cas m f => Sys2Proof.Machine.execCas m f s
  | .red m f => Sys2Proof.Machine.execRed m f s
  | .fence m f => Sys2Proof.Machine.execFence m f s
  | .xfence m f => Sys2Proof.Machine.execXfence m f s
  | .hinit m f => Sys2Proof.Machine.execHinit m f s
  | .harv m f => Sys2Proof.Machine.execHarv m f s
  | .hexp m f => Sys2Proof.Machine.execHexp m f s
  | .hwait m f => Sys2Proof.Machine.execHwait m f s
  | .tagw m f => Sys2Proof.Machine.execTagw m f s
  | .tagf m f => Sys2Proof.Machine.execTagf m f s
  | .tagc m f => Sys2Proof.Machine.execTagc m f s
  | .madd m f => Sys2Proof.Machine.execMadd m f s
  | .msub m f => Sys2Proof.Machine.execMsub m f s
  | .mmul m f => Sys2Proof.Machine.execMmul m f s
  | .mscl m f => Sys2Proof.Machine.execMscl m f s
  | .msamp m f => Sys2Proof.Machine.execMsamp m f s
  | .mrelu m f => Sys2Proof.Machine.execMrelu m f s
  | .mexp m f => Sys2Proof.Machine.execMexp m f s
  | .mcol m f => Sys2Proof.Machine.execMcol m f s
  | .mmov m f => Sys2Proof.Machine.execMmov m f s
  | .mspl m f => Sys2Proof.Machine.execMspl m f s
  | .mmode m f => Sys2Proof.Machine.execMmode m f s
  | .mld m f => Sys2Proof.Machine.execMld m f s
  | .mst m f => Sys2Proof.Machine.execMst m f s
  | .copy m f => Sys2Proof.Machine.execCopy m f s
  | .copyt m f => Sys2Proof.Machine.execCopyt m f s
  | .gath m f => Sys2Proof.Machine.execGath m f s
  | .scat m f => Sys2Proof.Machine.execScat m f s
  | .pushw m f => Sys2Proof.Machine.execPushw m f s
  | .crem m f => Sys2Proof.Machine.execCrem m f s
  | .mma m f => Sys2Proof.Machine.execMma m f s
  | .mmat m f => Sys2Proof.Machine.execMmat m f s
  | .mmas m f => Sys2Proof.Machine.execMmas m f s
  | .mmam m f => Sys2Proof.Machine.execMmam m f s
  | .mwait m f => Sys2Proof.Machine.execMwait m f s
  | .acrd m f => Sys2Proof.Machine.execAcrd m f s
  | .acwr m f => Sys2Proof.Machine.execAcwr m f s
  | .acst m f => Sys2Proof.Machine.execAcst m f s
  | .acz m f => Sys2Proof.Machine.execAcz m f s
  | .acrel m f => Sys2Proof.Machine.execAcrel m f s
  | .cclr m f => Sys2Proof.Machine.execCclr m f s
  | .cfrm m f => Sys2Proof.Machine.execCfrm m f s
  | .clobe m f => Sys2Proof.Machine.execClobe m f s
  | .cmix m f => Sys2Proof.Machine.execCmix m f s
  | .clay m f => Sys2Proof.Machine.execClay m f s
  | .cnet m f => Sys2Proof.Machine.execCnet m f s
  | .csmp m f => Sys2Proof.Machine.execCsmp m f s
  | .cevl m f => Sys2Proof.Machine.execCevl m f s
  | .cpdf m f => Sys2Proof.Machine.execCpdf m f s
  | .calb m f => Sys2Proof.Machine.execCalb m f s
  | .cspl m f => Sys2Proof.Machine.execCspl m f s
  | .cfil m f => Sys2Proof.Machine.execCfil m f s
  | .ldt m f => Sys2Proof.Machine.execLdt m f s
  | .cfence m f => Sys2Proof.Machine.execCfence m f s
  | .trace m f => Sys2Proof.Machine.execTrace m f s
  | .tstep m f => Sys2Proof.Machine.execTstep m f s
  | .hitget m f => Sys2Proof.Machine.execHitget m f s
  | .hitacc m f => Sys2Proof.Machine.execHitacc m f s
  | .rast m f => Sys2Proof.Machine.execRast m f s
  | .qdiff m f => Sys2Proof.Machine.execQdiff m f s
  | .resid m f => Sys2Proof.Machine.execResid m f s
  | .folddef m f => Sys2Proof.Machine.execFolddef m f s
  | .fold m f => Sys2Proof.Machine.execFold m f s
  | .foldf m f => Sys2Proof.Machine.execFoldf m f s
  | .blend m f => Sys2Proof.Machine.execBlend m f s
  | .brand m f => Sys2Proof.Machine.execBrand m f s
  | .phase m f => Sys2Proof.Machine.execPhase m f s
  | .emit m f => Sys2Proof.Machine.execEmit m f s
  | .pubv m f => Sys2Proof.Machine.execPubv m f s
  | .vwait m f => Sys2Proof.Machine.execVwait m f s
  | .vchk m f => Sys2Proof.Machine.execVchk m f s
  | .vstop m f => Sys2Proof.Machine.execVstop m f s
  | .vget m f => Sys2Proof.Machine.execVget m f s
  | .lnch m f => Sys2Proof.Machine.execLnch m f s
  | .drain team group => Sys2Proof.Machine.execDrain team group s
  | .propagate core line => Sys2Proof.Machine.execPropagate core line s
  | .refresh core line drop => Sys2Proof.Machine.execRefresh core line drop s
  | .savedDrain team group => Sys2Proof.Machine.execSavedDrain team group s
  | .engineRead entry key => Sys2Proof.Machine.execEngineRead entry key s
  | .engineWrite entry key => Sys2Proof.Machine.execEngineWrite entry key s
  | .complete entry => Sys2Proof.Machine.execComplete entry s
  | .fill core line => Sys2Proof.Machine.execFill core line s
  | .tableDrop core line => Sys2Proof.Machine.execTableDrop core line s
  | .weightFill core vdev addr => Sys2Proof.Machine.execWeightFill core vdev addr s
  | .weightDrop core vdev addr => Sys2Proof.Machine.execWeightDrop core vdev addr s
  | .fabricDelivery op => Sys2Proof.Machine.execFabricDelivery op s
  | .serialPhase launch => Sys2Proof.Machine.execSerialPhase launch s
  | .decode line => Sys2Proof.Machine.execDecode line s
  | .encode line => Sys2Proof.Machine.execEncode line s
  | .decodedLineDrop line => Sys2Proof.Machine.execDecodedLineDrop line s
  | .packedAccess core line => Sys2Proof.Machine.execPackedAccess core line s
  | .traceRead flight line => Sys2Proof.Machine.execTraceRead flight line s
  | .traversalComplete flight => Sys2Proof.Machine.execTraversalComplete flight s
  | .feedbackWrite slot => Sys2Proof.Machine.execFeedbackWrite slot s
  | .traversalUnitError core unit => Sys2Proof.Machine.execTraversalUnitError core unit s
  | .foldTimerExpiry launch entry key => Sys2Proof.Machine.execFoldTimerExpiry launch entry key s
  | .foldDrainFlush launch => Sys2Proof.Machine.execFoldDrainFlush launch s
  | .penTimerExpiry launch pen => Sys2Proof.Machine.execPenTimerExpiry launch pen s
  | .graphDrain launch => Sys2Proof.Machine.execGraphDrain launch s
  | .runGrant core slot => Sys2Proof.Machine.execRunGrant core slot s
  | .twinFull team group => Sys2Proof.Machine.execTwinFull team group s
  | .matrixGrant cluster => Sys2Proof.Machine.execMatrixGrant cluster s
  | .matrixPass cluster => Sys2Proof.Machine.execMatrixPass cluster s
  | .acstRowBlock cluster => Sys2Proof.Machine.execAcstRowBlock cluster s
  | .tileClaim entry => Sys2Proof.Machine.execTileClaim entry s
  | .parkThresholdExpiry team group => Sys2Proof.Machine.execParkThresholdExpiry team group s
  | .wake team => Sys2Proof.Machine.execWake team s
  | .teamPlace team core => Sys2Proof.Machine.execTeamPlace team core s
  | .teamEnd team => Sys2Proof.Machine.execTeamEnd team s
  | .launchComplete launch => Sys2Proof.Machine.execLaunchComplete launch s
  | .aged team => Sys2Proof.Machine.execAged team s
  | .muster team => Sys2Proof.Machine.execMuster team s
  | .musterTrap team group => Sys2Proof.Machine.execMusterTrap team group s
  | .budgetOverrun team group => Sys2Proof.Machine.execBudgetOverrun team group s
  | .sliceEnd vdev => Sys2Proof.Machine.execSliceEnd vdev s
  | .clusterReclaim cluster => Sys2Proof.Machine.execClusterReclaim cluster s
  | .droveAck launch => Sys2Proof.Machine.execDroveAck launch s
  | .droveDecision launch => Sys2Proof.Machine.execDroveDecision launch s
  | .memoryErrorDetect line => Sys2Proof.Machine.execMemoryErrorDetect line s
  | .connectionSetup conn asks => Sys2Proof.Machine.execConnectionSetup conn asks s
  | .portFailure port => Sys2Proof.Machine.execPortFailure port s
  | .launch h record => Sys2Proof.Machine.execLaunch h record s
  | .wmap h body => Sys2Proof.Machine.execWmap h body s
  | .wunmap h handle => Sys2Proof.Machine.execWunmap h handle s
  | .wwrite h handle offset data => Sys2Proof.Machine.execWwrite h handle offset data s
  | .wread h handle offset count => Sys2Proof.Machine.execWread h handle offset count s
  | .load h chunk => Sys2Proof.Machine.execLoad h chunk s
  | .attest h nonce => Sys2Proof.Machine.execAttest h nonce s
  | .drove h body => Sys2Proof.Machine.execDrove h body s
  | .recover h chunk last => Sys2Proof.Machine.execRecover h chunk last s
  | .manageEndLaunch h launch => Sys2Proof.Machine.execManageEndLaunch h launch s
  | .manageResolveFault h entry maps => Sys2Proof.Machine.execManageResolveFault h entry maps s
  | .manageDenyFault h entry => Sys2Proof.Machine.execManageDenyFault h entry s
  | .manageMusterTeam h team => Sys2Proof.Machine.execManageMusterTeam h team s
  | .manageWritePartition h index entry => Sys2Proof.Machine.execManageWritePartition h index entry s
  | .manageLendClusters h cluster partition => Sys2Proof.Machine.execManageLendClusters h cluster partition s
  | .manageReclaimClusters h cluster => Sys2Proof.Machine.execManageReclaimClusters h cluster s
  | .manageCreateVdev h entry => Sys2Proof.Machine.execManageCreateVdev h entry s
  | .manageDeleteVdev h => Sys2Proof.Machine.execManageDeleteVdev h s
  | .manageWriteFormatRegion h controller index value => Sys2Proof.Machine.execManageWriteFormatRegion h controller index value s
  | .manageRetirePage h page => Sys2Proof.Machine.execManageRetirePage h page s
  | .manageExportContext h team => Sys2Proof.Machine.execManageExportContext h team s
  | .manageImportContext h team image => Sys2Proof.Machine.execManageImportContext h team image s
  | .manageReadEvents h => Sys2Proof.Machine.execManageReadEvents h s
  | .manageClearEvents h => Sys2Proof.Machine.execManageClearEvents h s
  | .manageAttachDebugger h => Sys2Proof.Machine.execManageAttachDebugger h s
  | .manageDetachDebugger h => Sys2Proof.Machine.execManageDetachDebugger h s
  | .debuggerResume team group => Sys2Proof.Machine.execDebuggerResume team group s
  | .manageRaiseMinVersion h version sig => Sys2Proof.Machine.execManageRaiseMinVersion h version sig s
  | .manageEnterRecovery h sig => Sys2Proof.Machine.execManageEnterRecovery h sig s
  | .reset => Sys2Proof.Machine.execReset s
  | .thermalTrip => Sys2Proof.Machine.execThermalTrip s
  | .lobeOperationComplete flight => Sys2Proof.Machine.execLobeOperationComplete flight s
  | .connectionClose conn => Sys2Proof.Machine.execConnectionClose conn s

end Sys2Proof.Machine
end

