-- ==== Sys2Proof/Machine/Step.lean ====
section
/-!
DEFINITION. One step of the part: the next move of the agenda, or where it is empty the move that a free value names
(04_ordering_machine R66, R79; log entries 1 and 3).
-/
namespace Sys2Proof.Machine
open Sys2Proof

/-- Take a move: an issue slot issues an instruction, or an event row happens. -/
def stepMove (m : Move) (s : State) : Res :=
  match m with
  | .issue core slot =>
    match s.startIssue core slot with
    | .halt s' => .next s'.afterMove
    | .run i s' =>
      match exec i s' with
      | .next t => .next (t.afterIssue i)
      | .fault f => .fault f
      | .refused r => .refused r
  | .event i =>
    if i.raw == .event then
      match exec i s with
      | .next t => .next t.afterMove
      | .fault f => .fault f
      | .refused r => .refused r
    else .next s

/-- The move that comes next, and the state in which it is taken. -/
def nextOf (s : State) : Move × State :=
  match s.agenda with
  | m :: t => (m, { s with agenda := t, tick := s.tick + 1, cur := none })
  | [] => (Config.nextMove s.tick, { s with tick := s.tick + 1, cur := none })

/-- One step of the part. -/
def step (s : State) : Host.Outcome State Fault Refusal := stepMove (nextOf s).1 (nextOf s).2

/-- s with an instruction placed where the next step fetches: a launch of one group of 32 lanes at 0x10000, holding slot 0 of
core 0, whose code page is mapped and set in the execute map, and the issue of that slot next in the agenda (log entry 1). -/
def State.withFetchWord (s : State) (nbits w : Nat) : State :=
  let id := s.nextId
  let dev : Vdev :=
    { id := 255, exec := [1]
      cfg := { part := 0, pool := 0, poolsz := 0, policy := [], dmap := []
               maps := [{ vpage := 1, ppage := 1, units := 1, perm := { r := true, w := true }, valid := true }] } }
  let team : Team := { gridTeam id 255 id probeRec none 0 0 0 with place := .resident 0, started := true }
  let core := s.core 0
  let s1 := s.setCore { core with slots := core.slots.set 0 (some { team := id, group := 0, slice := 0 }) }
  { s1 with
    nextId := s.nextId + 1
    vdevs := dev :: s.vdevs
    launches := { key := id, num := 1, vdev := 255, lrec := probeRec, host := true } :: s.launches
    teams := team :: s.teams
    mem := Memory.setAll s.mem (cellsAt 0x10000 (leBytes 16 (w % 2 ^ nbits)))
    agenda := .issue 0 0 :: s.agenda }

end Sys2Proof.Machine
end

