-- ==== Sys2Proof/Safety.lean ====
section
/-!
DEFINITION. What counts as a safe run and the words in which statements are made: the invariant of the memory's form, when an
instruction issues undisturbed (`Ready`), and what an instruction that only computes leaves behind (`Computed`, its frame).
-/
namespace Sys2Proof

/-- The operands that an instruction names at repeat k, each with its first register number (R50-R53, R58). -/
def Instr.names (i : Instr) (k : Nat) : List (Fld × Nat) :=
  let step (m : Mods) (sel : Rep → Bool) (f : BitVec 6) : Nat := f.toNat + (if m.rep.any sel then k else 0)
  match i.raw with
  | .half _ f => (.v 1, f.d.toNat) :: (match i with | .iaddiW16 _ => [] | _ => [(.v 1, f.s.toNat)])
  | .i _ m f => [(i.legal.d, step m Rep.sd f.d), (i.legal.a, step m Rep.sa f.a)]
  | .r _ _ m f => [(i.legal.d, step m Rep.sd f.d), (i.legal.a, step m Rep.sa f.a), (i.legal.b, step m Rep.sb f.b)]
  | _ => []

/-- An instruction names a register outside a budget of v, m and c registers, directly or through REP stepping (R101). -/
def Instr.outside (i : Instr) (b : Nat × Nat × Nat) : Prop :=
  ∃ k ≤ i.lastRep, ∃ x ∈ i.names k, match x.1 with
    | .v n => ∃ j < n, b.1 ≤ x.2 + j
    | .m => b.2.1 ≤ x.2
    | .c => b.2.2 ≤ x.2
    | _ => False

end Sys2Proof

namespace Sys2Proof.Machine
open Sys2Proof

section Invariants

/-- The memory stands in its one canonical form (log entry 2). -/
def State.Inv (s : State) : Prop := Memory.wf s.mem = true

/-- The part does not stop: its step answers a next state. -/
def State.goesOn (s : State) : Prop := ∃ t, step s = .next t

end Invariants

section Issuing

/-- The conditions that every lane instruction meets before its own entry are met (R27, R101, R104): an issue is in progress, its
team exists, every register the instruction names lies in the group's budget, no lobe result that it names is awaited; and of
twin registers, those it writes are empty and those it reads are full. The instruction then acts as the issue `c`, in the state
`s1` in which its twin reads have been taken. -/
def Ready (s : State) (i : Instr) (c : Cur) (s1 : State) : Prop :=
  ∃ c0 t, s.cur = some c0 ∧ s.team? c0.team = some t ∧ i.inBudget (s.budget c0.team c0.group) = true ∧ s.pendingOn c0 i = [] ∧
    ((t.twins = [] ∧ c = c0 ∧ s1 = s) ∨
      (t.twins ≠ [] ∧ t.twinMisuse c0.group (s.acting c0 i) (i.vUse c0.rep).2 = 0 ∧
        (Cond.twinFull (s.twinNeeds t c0 i)).holds s c0.team c0.group c0.act = true ∧
        c = { c0 with twinWaited := s.twinHasWaited c0 } ∧
        s1 = s.modTeam c0.team fun t' => t'.twinTake c0.group (s.twinNeeds t c0 i)))

/-- The last write to register r in a list of writes, or what stood there. -/
def written (ws : List (Nat × Word)) (r : Nat) (old : Word) : Word := ws.foldl (fun x w => if w.1 = r then w.2 else x) old

/-- What a lane holds beside its place in the program (PC, repeat index, waits, held mark), its copy of the uniform registers and
the debt of a divergent merge. -/
def Lane.body (l : Lane) : Lane := { l with pc := 0, repi := 0, wait := none, twinWait := false, held := false, owesDiv := false, s := [] }

/-- What a group holds beside its lanes, xsdiv, its end, its run position and the paths that its slices present. -/
def Group.body (g : Group) : Group := { g with lanes := [], sdiv := false, ended := false, runPos := 0, pres := [] }

/-- What a team holds beside its groups and twin registers. -/
def Team.body (t : Team) : Team := { t with groups := [], twins := [] }

/-- Group g shares the twin registers v56-v63 of group g' (R103). -/
def State.sharesTwin (s : State) (tm g g' : Nat) : Bool :=
  match s.team? tm with
  | some t => (match t.twinOf g, t.twinOf g' with | some p, some q => p.1 == q.1 | _, _ => false)
  | none => false

/-- v(56 + k) of lane l as the twin pair of a group holds it, with what the pair's muster frame holds of it (R103, R104, R421); none without a
pair. -/
def State.twinReg (s : State) (tm g l k : Nat) : Option (TwinReg × Option TwinReg) :=
  ((s.team? tm).bind fun t => t.twinOf g).map fun p => (rd p.2.regs (twinIx l k), p.2.frame.map fun fs => rd fs (twinIx l k))

/-- THE FRAME of an instruction that computes and moves. From s to t the lanes of m have written the registers and predicates of
`fx` and had the change `fx.other` of their other fields; a lane of the splinter that has not exited has arrived at `tgt`, or,
where `tgt` gives none, stands before the next repeat; where paths have met, one of the merged copies of the uniform registers
stands (R96, R99). Of the twin registers, a lane of m that writes one of v56-v63 changes that one alone; every other keeps its value, full bit,
writer of record and pending write (R103, R104). The run position has risen by at most one, or a released set starts a run (R106); a slice presents the lane that it
presented, or another of its own (R90). NOTHING ELSE has changed: no byte of memory or of a scratchpad, no register of another lane, group or team,
no accumulator, special or fault register, no other field of the state. -/
structure Did (s t : State) (c : Cur) (m : BitVec 32) (fx : Nat → Fx) (tgt : Nat → Option Code) (out : Out) : Prop where
  mem : ∀ a, Memory.get t.mem a = Memory.get s.mem a
  sp : ∀ tm a, t.spByte tm a = s.spByte tm a
  state : t = { s with teams := t.teams, cur := some { c with out := out } }
  teams : ∀ tm, tm ≠ c.team → t.team? tm = s.team? tm
  team : (t.team? c.team).map Team.body = (s.team? c.team).map Team.body
  groups : ∀ g, g ≠ c.group → t.group c.team g = s.group c.team g
  group : (t.group c.team c.group).body = (s.group c.team c.group).body
  run : (t.group c.team c.group).runPos = 0 ∨ (t.group c.team c.group).runPos = (s.group c.team c.group).runPos ∨
    (t.group c.team c.group).runPos = (s.group c.team c.group).runPos + 1
  pres : ∀ sl < 8, rd (t.group c.team c.group).pres sl = rd (s.group c.team c.group).pres sl ∨ rd (t.group c.team c.group).pres sl / 4 = sl
  v : ∀ l < 32, ∀ r < 64, t.rdV c.team c.group l r =
    if inMask m l then written (fx l).v r (s.rdV c.team c.group l r) else s.rdV c.team c.group l r
  vElse : ∀ tm g l r, l < 32 → r < 64 → (tm, g) ≠ (c.team, c.group) → (r < 56 ∨ tm ≠ c.team ∨ s.sharesTwin tm g c.group = false) →
    t.rdV tm g l r = s.rdV tm g l r
  twins : ∀ tm g l k, l < 32 → k < 8 →
    (tm ≠ c.team ∨ s.sharesTwin tm g c.group = false ∨ inMask m l = false ∨ ∀ w ∈ (fx l).v, w.1 ≠ 56 + k) →
    t.twinReg tm g l k = s.twinReg tm g l k
  preds : ∀ l < 32, (t.lane c.team c.group l).preds =
    if inMask m l then setPreds (s.lane c.team c.group l).preds (fx l).p else (s.lane c.team c.group l).preds
  body : ∀ l < 32, { (t.lane c.team c.group l).body with v := [], preds := 0 } =
    { (if inMask m l then ((fx l).other (s.lane c.team c.group l)).body else (s.lane c.team c.group l).body) with v := [], preds := 0 }
  uni : ∀ l < 32, ∃ k < 32, (k = l ∨ (t.lane c.team c.group k).samePath (t.lane c.team c.group l) = true) ∧
    (t.lane c.team c.group l).s =
      if inMask m k then wrs (s.lane c.team c.group k).s (fx k).s else (s.lane c.team c.group k).s
  moved : ∀ l < 32, inMask c.act l = true → (t.lane c.team c.group l).exited = false →
    (t.lane c.team c.group l).wait = none ∧
    match tgt l with
    | some a => (t.lane c.team c.group l).pc = a ∧ (t.lane c.team c.group l).repi = 0
    | none => (t.lane c.team c.group l).pc = (s.lane c.team c.group l).pc ∧ (t.lane c.team c.group l).repi = c.rep + 1
  stayed : ∀ l < 32, inMask c.act l = false → (t.lane c.team c.group l).pc = (s.lane c.team c.group l).pc ∧
    (t.lane c.team c.group l).repi = (s.lane c.team c.group l).repi ∧
    (inMask m l = false → (t.lane c.team c.group l).wait = (s.lane c.team c.group l).wait)

/-- An instruction that only computes: its lanes go on to its next repeat, and after the last to the next instruction. -/
def Computed (s t : State) (i : Instr) (c : Cur) (m : BitVec 32) (fx : Nat → Fx) : Prop :=
  Did s t c m fx (fun _ => if c.rep < i.lastRep then none else some c.next) .done

end Issuing

section Statements

/-- Wherever instruction i is ready, executing it ANSWERS A NEXT STATE t, of which P holds; P sees the state in which the
instruction acted and its issue. -/
def Completes (i : Instr) (P : State → Cur → State → Prop) : Prop :=
  ∀ s c s1, Ready s i c s1 → ∃ t, exec i s = .next t ∧ P s1 c t

/-- The guarded lanes write vector register d and nothing else changes. -/
def SetsV (i : Instr) (g : BitVec 3) (d : Cur → Nat) (val : State → Cur → Nat → Word) : Prop :=
  Completes i fun s c t => Computed s t i c (s.guarded c g) fun l => { v := [(d c, val s c l)] }

/-- The path's copy writes uniform register d, unless the splinter holds only helper lanes; nothing else changes. -/
def SetsS (i : Instr) (d : Cur → Nat) (val : State → Cur → Word) : Prop :=
  Completes i fun s c t =>
    Computed s t i c (if s.onlyHelpers c then 0 else c.act) fun _ => { s := [(d c, val s c)] }

/-- Lane l's vector register. -/
def vreg (s : State) (c : Cur) (l : Nat) (r : BitVec 6) : Word := s.rdV c.team c.group l r.toNat

/-- r is n fitted to a sub-element's format (R117): the end of the range on n's side under SAT, else what agrees with n in the
low bits. -/
def Fits (t : Ty) (sat : Bool) (n r : Int) : Prop :=
  t.minInt ≤ r ∧ r ≤ t.maxInt ∧
    if sat then (t.minInt ≤ n → n ≤ t.maxInt → r = n) ∧ (t.maxInt < n → r = t.maxInt) ∧ (n < t.minInt → r = t.minInt)
    else (2 ^ t.width : Int) ∣ r - n

/-- What the result word w of an integer instruction is, by its entry (R147-R150): operands a, b, the old destination d, and
field B as a number, j. -/
def IntResult (o : IntOp) (m : Mods) (j : Nat) (a b d w : Word) : Prop :=
  let t := m.ty
  let n := min (bits b 8 6) 32
  let off := bits b 0 5
  let A (k : Nat) : Int := t.int (sub t a k)
  let B (k : Nat) : Int := t.int (sub t b k)
  let D (k : Nat) : Int := t.int (sub t d k)
  let W (k : Nat) : Int := t.int (sub t w k)
  let each (p : Nat → Prop) : Prop := ∀ k < t.count, p k
  match o with
  | .add => each fun k => Fits t m.sat (A k + B k) (W k)
  | .sub => each fun k => Fits t m.sat (A k - B k) (W k)
  | .min => each fun k => W k = min (A k) (B k)
  | .max => each fun k => W k = max (A k) (B k)
  | .mul => each fun k => Fits t m.sat (A k * B k) (W k)
  | .mulh => each fun k => 2 ^ t.width * W k ≤ A k * B k ∧ A k * B k < 2 ^ t.width * (W k + 1)
  | .mad => each fun k => Fits t m.sat (A k * B k + D k) (W k)
  | .lea => each fun k => Fits t m.sat (A k + B k * 2 ^ m.clsField 0 3) (W k)
  | .abs => each fun k => Fits t m.sat (if A k < 0 then -A k else A k) (W k)
  | .neg => each fun k => Fits t m.sat (-A k) (W k)
  | .shl => each fun k => Fits t m.sat (A k * 2 ^ sub t b k) (W k)
  | .and => ∀ i, w.getLsbD i = (a.getLsbD i && b.getLsbD i)
  | .or => ∀ i, w.getLsbD i = (a.getLsbD i || b.getLsbD i)
  | .xor => ∀ i, w.getLsbD i = (a.getLsbD i != b.getLsbD i)
  | .not => ∀ i < 32, w.getLsbD i = !a.getLsbD i
  | .mov => w = a
  | .shrl => each fun k => ∀ i, (sub t w k).testBit i = (sub t a k).testBit (i + sub t b k)
  | .shra => each fun k => ∀ i < t.width, (sub t w k).testBit i =
      if t.width ≤ i + sub t b k then t.signed && (sub t a k).testBit (t.width - 1) else (sub t a k).testBit (i + sub t b k)
  | .rot => each fun k => ∀ i < t.width, (sub t w k).testBit ((i + sub t b k) % t.width) = (sub t a k).testBit i
  | .brev => each fun k => ∀ i < t.width, (sub t w k).testBit i = (sub t a k).testBit (t.width - 1 - i)
  | .popc => each fun k => sub t w k = ((List.range t.width).filter fun i => (sub t a k).testBit i).length
  | .clz => each fun k => sub t w k ≤ t.width ∧ (∀ i < t.width, t.width ≤ i + sub t w k → (sub t a k).testBit i = false) ∧
      (sub t w k < t.width → (sub t a k).testBit (t.width - 1 - sub t w k) = true)
  | .bfx => ∀ i < 32, w.getLsbD i = if i < n then a.getLsbD (off + i) else (n != 0 && t.signed && a.getLsbD (off + n - 1))
  | .bfi => ∀ i < 32, w.getLsbD i = if off ≤ i ∧ i < off + n then a.getLsbD (i - off) else d.getLsbD i
  | .ext => if t.signed then w.toInt = A j else (w.toNat : Int) = A j

/-- R-form integer instructions on vector registers, each with its operation (07_lane_control_integer). -/
def vectorInts : List (IntOp × (Mods → RForm → Instr)) :=
  [(.add, .iadd), (.sub, .isub), (.and, .iand), (.or, .ior), (.xor, .ixor), (.min, .imin), (.max, .imax), (.shl, .shl),
   (.shrl, .shrl), (.shra, .shra), (.rot, .rot), (.bfx, .bfx), (.bfi, .bfi), (.popc, .popc), (.clz, .clz), (.mul, .imul),
   (.mulh, .imulh), (.mad, .imad), (.lea, .lea), (.brev, .brev), (.abs, .iabs), (.neg, .ineg), (.mov, .mov), (.not, .inot),
   (.ext, .ext)]

/-- The same operations on uniform registers. -/
def uniformInts : List (IntOp × (Mods → RForm → Instr)) :=
  [(.add, .iaddU), (.sub, .isubU), (.and, .iandU), (.or, .iorU), (.xor, .ixorU), (.min, .iminU), (.max, .imaxU), (.shl, .shlU),
   (.shrl, .shrlU), (.shra, .shraU), (.rot, .rotU), (.bfx, .bfxU), (.bfi, .bfiU), (.popc, .popcU), (.clz, .clzU), (.mul, .imulU),
   (.mulh, .imulhU), (.mad, .imadU), (.lea, .leaU), (.brev, .brevU), (.abs, .iabsU), (.neg, .inegU), (.mov, .movU), (.not, .inotU),
   (.ext, .extU)]

/-- The 16-bit integer instructions of two registers, each with its operation. -/
def halfInts : List (IntOp × (HForm → Instr)) :=
  [(.add, .iaddW16), (.sub, .isubW16), (.and, .iandW16), (.or, .iorW16), (.xor, .ixorW16), (.shl, .shlW16), (.shrl, .shrlW16),
   (.shra, .shraW16), (.mul, .imulW16)]

/-- The guarded lanes write predicates: the first named predicate takes the bit and the second its complement; a predicate named in
both parts takes one free value (log entry 8), and p0 ignores writes. Nothing else changes. -/
def SetsP (i : Instr) (g : BitVec 3) (d : Cur → BitVec 6) (bit : State → Cur → Nat → Bool) : Prop :=
  Completes i fun s c t => ∃ free, Computed s t i c (s.guarded c g) fun l =>
    { p := if (d c).toNat % 8 = (d c).toNat / 8 then [((d c).toNat % 8, free)]
           else [((d c).toNat % 8, bit s c l), ((d c).toNat / 8, !bit s c l)] }

/-- An integer condition of ISET, by its code. -/
def holdsInt (cc : Nat) (a b : Int) : Prop :=
  match cc with | 0 => a = b | 1 => a ≠ b | 2 => a < b | 3 => a ≤ b | 4 => a > b | _ => a ≥ b

/-- The conditions on which an instruction waits let it go on: those that it looks at each time, and those taken when its splinter
first came to wait on them (R77), which a splinter that has waited so has recorded. -/
def State.unblocked (s : State) (c : Cur) (conds snap : List Cond) : Prop :=
  s.allHold c.team c.group c.act (conds ++ match s.recorded c with | some w => if w.snap = [] then snap else w.snap | none => snap) = true

/-- What a wait leaves behind (R75, R83): the acquires of the completions observed that p picks, and its own. -/
def State.afterWait (s : State) (c : Cur) (p : Seen → Bool) (acq : Bool) (sc : Scope) : State :=
  if acq then (s.acquireSeen c p).acquire c.core sc else s.acquireSeen c p

/-- A code value v names an address when it is the count of halfwords, as a signed number, from the code base to it (R130). -/
def codeValueOf (base a : Code) (v : Word) : Prop := ∀ n : Int, (a - base).toInt = 2 * n → -2 ^ 31 ≤ n → n < 2 ^ 31 → v.toInt = n

/-- The guarded lanes write vector register d with a computed word and take the computation's generator position and sticky flags of
xfpstat (R120, R174); nothing else changes. -/
def SetsFp (i : Instr) (g : BitVec 3) (d : Cur → Nat) (w : State → Cur → Nat → Word × Eff) : Prop :=
  Completes i fun s c t => Computed s t i c (s.guarded c g) fun l =>
    { v := [(d c, (w s c l).1)]
      other := fun ln => { ln with rngPos := (w s c l).2.pos, fpstat := ln.fpstat ||| (w s c l).2.flags } }

/-- Lane l's generator position. -/
def posOf (s : State) (c : Cur) (l : Nat) : BitVec 64 := (s.lane c.team c.group l).rngPos

/-- The instructions of major 0x11 with their operation (R157). -/
def floatOps : List (FpOp × (Mods → RForm → Instr)) :=
  [(.plus, .fadd), (.minus, .fsub), (.times, .fmul), (.least, .fmin), (.most, .fmax), (.fma, .fma), (.frnd, .frnd), (.fclass, .fclass)]

/-- Their 16-bit forms (R49). -/
def halfFloats : List (FpOp × (HForm → Instr)) :=
  [(.plus, .faddW16), (.minus, .fsubW16), (.times, .fmulW16), (.least, .fminW16), (.most, .fmaxW16)]

/-- The functions of one F32 result with their procedures (R165, R168-R172). -/
def floatFns : List ((FpEnv → Val → Val × Word) × (Mods → RForm → Instr)) :=
  [(fun _ x => rcpVal x, .rcp), (fun _ x => sqrtOf x, .sqrt), (fun _ x => rsqVal x, .rsq), (fun _ x => (exp2Val x, 0), .exp2),
   (fun v x => log2Val v.rdn x, .log2), (fun _ x => erfVal x, .erf)]

/-- Lane l's moment register. -/
def mreg (s : State) (c : Cur) (l : Nat) (r : BitVec 6) : Moment := rd (s.lane c.team c.group l).m r.toNat

/-- A variance that a moment instruction may not read (R204): below zero after the flush that X or xfpctl asks for, where X or
xmmode does not ask for the clamp. -/
def badVariance (s : State) (c : Cur) (m : Mods) (l : Nat) (x : Moment) : Prop :=
  isNegVar (f32 (flushIn (fpModeOf m (s.lane c.team c.group l).fpctl).2 .w32 x.var.toNat)) = true ∧
    (match m.x with | some _ => m.clsBit 1 | none => (s.lane c.team c.group l).mmode.getLsbD 2) = false

/-- A moment as lane l reads it (R203, R204): mean and variance after the flush, a negative variance as +0. -/
def momentIn (s : State) (c : Cur) (m : Mods) (l : Nat) (x : Moment) : Val × Val :=
  let ftz := (fpModeOf m (s.lane c.team c.group l).fpctl).2
  let v := f32 (flushIn ftz .w32 x.var.toNat)
  (f32 (flushIn ftz .w32 x.mean.toNat), if isNegVar v then .zero else v)

/-- An F32 operand of lane l after the flush (R203). -/
def f32In (s : State) (c : Cur) (m : Mods) (l : Nat) (x : Word) : Val :=
  f32 (flushIn (fpModeOf m (s.lane c.team c.group l).fpctl).2 .w32 x.toNat)

/-- The covariance mode of lane l (R201, R203): 0 none, 1 +1, 2 -1. -/
def covIn (s : State) (c : Cur) (m : Mods) (l : Nat) : Nat :=
  match m.x with | some _ => m.clsField 2 3 | none => bits (s.lane c.team c.group l).mmode 0 2

/-- An exact sum and an exact product (R128); `rdn` says that a zero sum of unlike signs is negative. -/
def exactSum (rdn : Bool) (ts : List (Val × Bool)) : Val := (sumTerms rdn ts).1
def exactProd (fs : List Val) : Val × Bool := prodExact fs

/-- What a moment instruction rounds (R207-R212): the exact mean, and the exact variance from the word of the rounded mean. -/
abbrev Exact := Val × (Nat → Val)

/-- R207, with sigma = -1 for `minus`. -/
def exactMadd (minus rdn : Bool) (cov : Nat) (a b : Val × Val) : Exact :=
  let ra := root32 a.2
  let rb := root32 b.2
  (exactSum rdn [(a.1, false), (if minus then b.1.negate else b.1, false)],
    fun _ => if cov = 0 then exactSum rdn [(a.2, false), (b.2, false)]
      else
        let r := exactSum rdn [(ra, false), (if (cov = 2) = (minus = true) then rb else rb.negate, false)]
        (exactProd [r, r]).1)

/-- R208. -/
def exactMmul (rdn : Bool) (cov : Nat) (a b : Val × Val) : Exact :=
  let base := [exactProd [a.1, a.1, b.2], exactProd [b.1, b.1, a.2], exactProd [a.2, b.2]]
  let rb := root32 b.2
  let k : List Val := [root32 a.2, if cov = 2 then rb.negate else rb]
  if cov = 0 then (exactSum rdn [exactProd [a.1, b.1]], fun _ => exactSum rdn base)
  else (exactSum rdn [exactProd [a.1, b.1], exactProd k],
    fun _ => exactSum rdn (base ++ [exactProd (k ++ k), exactProd ([.fin false 2 1, a.1, b.1] ++ k)]))

/-- R209. -/
def exactMscl (k : Val) (a : Val × Val) : Exact := ((exactProd [k, a.1]).1, fun _ => (exactProd [k, k, a.2]).1)

/-- R210: the sample x, the count n, the moment so far. -/
def exactMsamp (rdn : Bool) (x : Val) (n : Nat) (a : Val × Val) : Exact :=
  if n = 0 then (x, fun _ => .zero)
  else
    let nv : Val := .fin false n 1
    ((exactSum rdn [nv.mul a.1, (x, false)]).divNat (n + 1), fun mean =>
      let d1 := exactSum rdn [(x, false), (a.1.negate, false)]
      let d2 := exactSum rdn [(x, false), ((f32 mean).negate, false)]
      (exactSum rdn [nv.mul a.2, d1.mul d2]).divNat (n + 1))

/-- R211. -/
def exactMrelu (rdn : Bool) (a : Val × Val) : Exact :=
  let u := a.1
  let v := a.2
  if u = .nan ∨ v = .nan ∨ v.isInf = true then (.nan, fun _ => .nan)
  else if v.isZero = true then (if Val.zero.lt u then u else .zero, fun _ => .zero)
  else if u.isInf = true then (if u.neg? then (.zero, fun _ => .zero) else (u, fun _ => v))
  else
    let s := root32 v
    let q' := r32 (u.quot s)
    let P := fma32 (r32 (erfVal (mul32 q' (f32 0x3F3504F3))).1) (f32 0x3F000000) (f32 0x3F000000)
    let q := mul32 (r32 (exp2Val (mul32 (mul32 q' q') (f32 0xBF38AA3B)))) (f32 0x3ECC422A)
    let m1 := fma32 u P (mul32 s q)
    let m2 := fma32 (fma32 u u v) P (mul32 (mul32 u s) q)
    (exactSum rdn [u.mul P, (mul32 s q, false)], fun _ => exactSum rdn [(m2, false), m1.negate.mul m1])

/-- EXP2 as R212 uses it: an argument of +inf is clamped to 160, so that its rounding overflows (DEDUCED, log entry 112). -/
def exactExp2 (x : Val) : Val := exp2Val (if x = .inf false then .fin false 160 1 else x)

/-- R212. -/
def exactMexp (rdn : Bool) (a : Val × Val) : Exact :=
  let L := f32 0x3FB8AA3B
  if a.1 = .nan ∨ a.2 = .nan then (.nan, fun _ => .nan)
  else if a.2.isInf = true then (.inf false, fun _ => .inf false)
  else if a.2.isZero = true then (exactExp2 (mul32 a.1 L), fun _ => .zero)
  else
    let t := fma32 a.2 (f32 0x3F000000) a.1
    let e := r32 (exactExp2 (mul32 t L))
    (exactExp2 (mul32 t L), fun _ => (exactProd [exactSum rdn [(r32 (exactExp2 (mul32 a.2 L)), false), (Val.one.negate, false)], e, e]).1)

/-- The word that lane l draws as its k-th under RS (R123, R174). -/
def drawn (s : State) (c : Cur) (l k : Nat) : Word :=
  let g := s.group c.team c.group
  rd (chachaBlock g.rngKey (posOf s c l + BitVec.ofNat 64 k) g.rngStream) (l % 16)

/-- Lane l's rounding to F32 of its k-th result (R203, R205): the word. -/
def roundIn (s : State) (c : Cur) (m : Mods) (l k : Nat) (x : Val) : Nat :=
  let p := fpModeOf m (s.lane c.team c.group l).fpctl
  (roundTo (fmtOf .w32) p.1 false p.2 (if p.1 = .rs then drawn s c l k else 0) x).1

/-- The moment that lane l writes (R205): the mean is rounded first; of the variance, what is below zero is written as +0, and so is any zero. -/
def momentOut (s : State) (c : Cur) (m : Mods) (l : Nat) (x : Exact) (r : Moment) : Prop :=
  let mean := roundIn s c m l 0 x.1
  let v := x.2 mean
  let var := roundIn s c m l 1 v
  r.mean = BitVec.ofNat 32 mean ∧ r.var = if isNegVar v = true ∨ (f32 var).isZero = true then 0 else BitVec.ofNat 32 var

/-- The mode rounds down in lane l. -/
def rdnIn (s : State) (c : Cur) (m : Mods) (l : Nat) : Bool := (fpModeOf m (s.lane c.team c.group l).fpctl).1 == .rdn

/-- The moments that a guarded lane reads and tests: mA, mA and mB, or, for MSAMP with n > 0, mD (R207-R213). -/
def readsA (s : State) (c : Cur) (f : RForm) (l : Nat) : List Moment := [mreg s c l f.a]
def readsAB (s : State) (c : Cur) (f : RForm) (l : Nat) : List Moment := [mreg s c l f.a, mreg s c l f.b]
def readsSample (s : State) (c : Cur) (f : RForm) (l : Nat) : List Moment := if vreg s c l f.b = 0 then [] else [mreg s c l f.d]

/-- The exact results of the seven instructions from their operands (R207-R212). -/
def valueMadd (minus : Bool) (s : State) (c : Cur) (m : Mods) (f : RForm) (l : Nat) : Exact :=
  exactMadd minus (rdnIn s c m l) (covIn s c m l) (momentIn s c m l (mreg s c l f.a)) (momentIn s c m l (mreg s c l f.b))
def valueMmul (s : State) (c : Cur) (m : Mods) (f : RForm) (l : Nat) : Exact :=
  exactMmul (rdnIn s c m l) (covIn s c m l) (momentIn s c m l (mreg s c l f.a)) (momentIn s c m l (mreg s c l f.b))
def valueMscl (s : State) (c : Cur) (m : Mods) (f : RForm) (l : Nat) : Exact :=
  exactMscl (f32In s c m l (vreg s c l f.b)) (momentIn s c m l (mreg s c l f.a))
def valueMsamp (s : State) (c : Cur) (m : Mods) (f : RForm) (l : Nat) : Exact :=
  exactMsamp (rdnIn s c m l) (f32In s c m l (vreg s c l f.a)) (vreg s c l f.b).toNat (momentIn s c m l (mreg s c l f.d))
def valueMrelu (s : State) (c : Cur) (m : Mods) (f : RForm) (l : Nat) : Exact :=
  exactMrelu (rdnIn s c m l) (momentIn s c m l (mreg s c l f.a))
def valueMexp (s : State) (c : Cur) (m : Mods) (f : RForm) (l : Nat) : Exact :=
  exactMexp (rdnIn s c m l) (momentIn s c m l (mreg s c l f.a))

/-- Where a guarded lane reads a variance that it may not, the instruction takes the negative-variance fault of exactly those lanes,
and has no effect (R204, R219). -/
def BadVarianceFaults (i : Instr) (m : Mods) (f : RForm) (reads : State → Cur → RForm → Nat → List Moment) : Prop :=
  ∀ s c s1, Ready s i c s1 →
    let bad (l : Nat) : Prop := inMask (s1.guarded c f.g) l = true ∧ ∃ x ∈ reads s1 c (f.at m c.rep) l, badVariance s1 c m l x
    (∃ l < 32, bad l) → ∃ mask, exec i s = .next (s.takeFault c i.code { cls := 8, mask := mask }) ∧ ∀ l < 32, (inMask mask l = true ↔ bad l)

/-- An instruction that writes mD (R202, R205, R219) COMPLETES, wherever it is ready and no guarded lane reads a variance that it may
not: mD takes the rounded moment of its rule, whose variance is not below zero, flags are set in xmstat, and the generator position moves
by two words under RS; nothing else changes. Elsewhere it takes its fault. -/
def MomentCompletes (k : Mods → RForm → Instr) (reads : State → Cur → RForm → Nat → List Moment)
    (value : State → Cur → Mods → RForm → Nat → Exact) : Prop :=
  (∀ (m : Mods) (f : RForm) s c s1, Ready s (k m f) c s1 →
    (∀ l < 32, inMask (s1.guarded c f.g) l = true → ∀ x ∈ reads s1 c (f.at m c.rep) l, ¬ badVariance s1 c m l x) →
    ∃ t, exec (k m f) s = .next t ∧ ∃ (r : Nat → Moment) (pos : Nat → BitVec 64) (flags : Nat → Word),
      (Computed s1 t (k m f) c (s1.guarded c f.g) fun l => { other := fun ln =>
        { ln with m := wr ln.m (f.at m c.rep).d.toNat (r l), rngPos := pos l, mstat := ln.mstat ||| flags l } }) ∧
      ∀ l, momentOut s1 c m l (value s1 c m (f.at m c.rep) l) (r l) ∧ isNegVar (f32 (r l).var.toNat) = false ∧ (flags l).toNat < 64 ∧
        ((fpModeOf m (s1.lane c.team c.group l).fpctl).1 = .rs → pos l = posOf s1 c l + 2) ∧
        ((fpModeOf m (s1.lane c.team c.group l).fpctl).1 ≠ .rs → pos l = posOf s1 c l)) ∧
  ∀ (m : Mods) (f : RForm), BadVarianceFaults (k m f) m f reads

/-- One lane's access reaches memory (R177, R178, R182): it is aligned to its size, its page is mapped and permits it, and its line
neither fails nor has to be decoded from a bad record. -/
def Reaches (s : State) (c : Cur) (a : Access) (size : Nat) (va : VAddr) (pa : Nat) : Prop :=
  va.toNat % size = 0 ∧ s.translate (s.vdevOf c.team) va a = .ok pa ∧ s.errHit (lineOf pa) = false ∧ s.undecodable (lineOf pa) = false

/-- The sizes of accesses in bytes, by the SIZE code (R177). -/
def isSize (m : Mods) : Prop := m.clsField 0 3 ≤ 4

/-- The lanes that store: guarded, and no helper lanes (R110). -/
def stores (s : State) (c : Cur) (g : BitVec 3) (l : Nat) : Prop :=
  inMask (s.guarded c g) l = true ∧ (s.lane c.team c.group l).helper = false

/-- The view of the team's core can give a line: it holds a copy, or no unpropagated write that bars a Refresh (R72). -/
def viewable (s : State) (c : Cur) (x : Nat) : Prop :=
  ((s.core (s.coreOf c.team)).line x).copy ≠ none ∨ ((s.core (s.coreOf c.team)).line x).pend = []

/-- The atomics on words that return the old value, with their operation (R186). -/
def atomics (m : Mods) : List (AtomOp × (Mods → RForm → Instr)) :=
  [(.add (m.ty == .w32), .atomAdd), (.min (m.ty == .w32), .atomMin), (.max (m.ty == .w32), .atomMax), (.and, .atomAnd), (.or, .atomOr),
   (.xor, .atomXor), (.xchg, .atomXchg), (.fadd m.ty, .atomFadd)]

/-- What an atomic of the lanes `ls`, at physical addresses `pa`, leaves (R76, R186): the steps in increasing lane number, each on the
state that the one before left, and the old values. -/
def atomicSteps (s : State) (c : Cur) (ls : List Nat) (pa : Nat → Nat) (size : Nat) (op : Nat → AtomOp) (b : Nat → Nat) :
    State × List (Nat × Nat) :=
  ls.foldl (fun acc l =>
    let r := acc.1.atomStep c.team c.group l (pa l) size (op l) (b l)
    (r.1, acc.2 ++ [(l, r.2)])) (s, [])

/-- Nothing that a lane computes with has changed from s to t but the uniform copies of paths that met: no byte of memory or of a
scratchpad, no register, predicate, special or query field of a lane, no twin register; other groups are wholly as they were. -/
structure Kept (s t : State) (c : Cur) : Prop where
  mem : ∀ a, Memory.get t.mem a = Memory.get s.mem a
  sp : ∀ tm a, t.spByte tm a = s.spByte tm a
  others : ∀ tm g, (tm, g) ≠ (c.team, c.group) → t.group tm g = s.group tm g
  lanes : ∀ l < 32, (t.lane c.team c.group l).body = (s.lane c.team c.group l).body
  uni : ∀ l < 32, ∃ k < 32, (k = l ∨ (t.lane c.team c.group k).samePath (t.lane c.team c.group l) = true) ∧
    (t.lane c.team c.group l).s = (s.lane c.team c.group k).s
  twins : ∀ tm, (t.team? tm).map Team.twins = (s.team? tm).map Team.twins

/-- The entry that GATH, SCAT, PUSHW or CREM posts (R238): of the copy engine of its core, for the issuing group, with the tag and the
hurdle of its completion word. -/
def copyEntry (s : State) (c : Cur) (m : Mods) (word : Word) (dflt : Scope) (w : Work) (reads writes : List LineKey) : Entry :=
  { id := 0, copyEng := true, unit := c.core, team := c.team, groups := [c.group], home := s.homeOf c.team c.group (lowest c.act)
    scope := m.scopeD dflt, cache := (m.x.map XMod.cache).getD .dflt, tag := cwTag word, hurdle := cwHurdle word
    work := w, reads := reads, writes := writes }

/-- A posting instruction is over: its entry has been posted and its gets have been sent, and nothing that a lane computes with has
changed. -/
def Posted (i : Instr) (s t : State) (c : Cur) (e : Entry) (ops : List FabOp) : Prop :=
  t = ((s.postEntry e).sendFab ops).advance i c ∧ Kept s t c

/-- The parameter block of a matrix request at va (R273), as the group loads it in lane l, of which it is asked that it is readable and passes the
tests on its contents. -/
def BlockReads (s : State) (c : Cur) (l fn : Nat) (va : VAddr) (pa : Nat) (s2 : State) (b : List Word) : Prop :=
  Reaches s c .read 64 va pa ∧ s.owned (.mem (lineOf pa)) = false ∧ viewable s c (lineOf pa) ∧ s.unblocked c [] [] ∧
    s2 = s.loadPrep c.team false [lineOf pa] ∧
    b = wordsOf 16 ((List.range 64).map fun o => s2.loadByte c.team c.group l false (pa + o)) ∧
    blockBad fn b (s.launchOf c.team).lrec.tags = false ∧ blockMisaligned fn b = none

/-- The bytes that a lane's placed access loads; zeros in a lane whose fault NF suppresses (R181). -/
def loadedAt (s : State) (c : Cur) (ps : List Placed) (size l : Nat) : List Byte :=
  match ps.find? fun p => p.lane == l with | some p => s.loadBytes c.team c.group false p | none => List.replicate size 0

/-- The queries of a closure with FN, operand and result counts (R308). -/
def queries : List (Nat × Nat × Nat × (Mods → RForm → Instr)) := [(0, 6, 8, .csmp), (1, 6, 3, .cevl), (2, 6, 1, .cpdf), (3, 3, 3, .calb)]

/-- The guarded lanes' closure d takes a value; nothing else changes. -/
def SetsC (s t : State) (i : Instr) (c : Cur) (f : RForm) (y : Nat → Nat) : Prop :=
  Computed s t i c (s.guarded c f.g) fun l => putC f.d.toNat (y l)

/-- A traversing instruction: its ray or query in a lane, how many registers it writes, and the result that it has at once, without
reading memory (R328, R339, R341, R343). -/
inductive Traverses (s1 : State) (c : Cur) : Instr → RForm → Nat → (Nat → Query) → (Nat → Option Landing) → Prop
  | trace (m : Mods) (f : RForm) : m.clsBit 0 = false → (s1.rdS c (f.b.toNat + 2)).toNat < 256 →
      (∀ l < 32, stores s1 c f.g l → (s1.pairS c f.b.toNat).toNat % 128 = 0 ∧ canonical (s1.pairS c f.b.toNat) = true) →
      Traverses s1 c (.trace m f) f 6 (s1.newQuery c m f) fun l => atOnce (s1.lane c.team c.group l).helper (s1.newQuery c m f l)
  | tstep (m : Mods) (f : RForm) : Traverses s1 c (.tstep m f) f 6 (fun l => (s1.lane c.team c.group l).query) fun l =>
      if (s1.lane c.team c.group l).query.stepping then none
      else some { words := missWords false, query := (s1.lane c.team c.group l).query }
  | hitget (m : Mods) (f : RForm) : Traverses s1 c (.hitget m f) f (hitgetCount (m.clsField 0 3))
      (fun l => (s1.lane c.team c.group l).query) fun l =>
        let q := (s1.lane c.team c.group l).query
        let sel := m.clsField 0 3
        match q.asked (m.clsBit 3) with
        | none => some { words := List.replicate (hitgetCount sel) 0, query := q }
        | some (_, ws) => if ws = [] ∨ 3 ≤ sel then none
            else some { words := if sel = 0 then [rd ws 6] else if sel = 1 then (ws.drop 7).take 3 else (ws.drop 10).take 3, query := q }

/-- An instruction on a tile may act (R407): the launch has boards, the tile word has no reserved bit, its board is in force and has the
tile. -/
def TileInForce (s : State) (c : Cur) (w : Word) : Prop :=
  (s.launchOf c.team).lrec.boardt ≠ 0 ∧ bits w 28 4 = 0 ∧ ((s.useBoards (s.keyOf c.team)).2 (bits w 24 4)).v = true ∧
    bits w 0 24 < ((s.useBoards (s.keyOf c.team)).2 (bits w 24 4)).ntile

/-- ORDER release of a shepherd instruction has nothing left to wait for (R407, R415). -/
def shpReleased (s : State) (c : Cur) (m : Mods) (dflt : Order) : Prop :=
  ordRel (m.orderD dflt) = true → s.unblocked c (s.domainConds c .ord (m.scopeD .device)).1 (s.domainConds c .ord (m.scopeD .device)).2

/-- From s to t the lanes of the group of an issue have changed in nothing but the predicates of those of `m`, which take `p`. -/
def OnlyPreds (s t : State) (c : Cur) (m : Nat → Prop) (p : Nat → List (Nat × Bool)) : Prop :=
  ∀ l < 32, (m l → (t.lane c.team c.group l).preds = setPreds (s.lane c.team c.group l).preds (p l)) ∧
    (¬ m l → (t.lane c.team c.group l).preds = (s.lane c.team c.group l).preds) ∧
    { (t.lane c.team c.group l).body with preds := 0 } = { (s.lane c.team c.group l).body with preds := 0 }

/-- A message comes in its turn, on a running part, to an endpoint that accepts it, with a header that is in order (R441-R445, R452). -/
def Arrives (s : State) (h : Msg) (type : Nat) (a : Ask) (c : Conn) : Prop :=
  s.conns.find? (fun c => c.id == h.conn) = some c ∧ h.type = type ∧ Msg.fits h = true ∧ h.seq = c.nextIn ∧ c.xfer = none ∧ s.portsUp ≠ 0 ∧
    s.power = .running ∧ h.rsvd = 0 ∧ h.len ≤ 4096 ∧ mayName c.key h.vdev = true ∧ accepts c.key a = true ∧
    (needsVdev c.key a = true → s.standing h.vdev = true)

/-- No byte of an overflow area of a context lies at a reserved physical range (R12; log entry 141). -/
def State.areaOpen (s : State) (v : Nat) (base : VAddr) (size : Nat) : Prop := ∀ o n, o + n ≤ size → s.barred v (base + BitVec.ofNat 64 o) n = false

/-- A MANAGE message arrives, with the word of its sub-operation and n bytes of operands (R444; log entry 108). -/
def Manages (s : State) (h : Msg) (a : Ask) (c : Conn) (n : Nat) : Prop := Arrives s h 9 a c ∧ h.len = 4 + n

/-- The state in which a message's turn has passed (R445). -/
def State.passed (s : State) (h : Msg) : State := s.modConn h.conn Conn.pass

/-- Event row i answers message h of a type from the state t that its effect leaves, with a STATUS and a body (R442-R444). -/
def Answers (i : Instr) (s : State) (h : Msg) (type : Nat) (t : State) (st : Nat) (body : List Byte) : Prop :=
  exec i s = .next (t.reply h.conn h.vdev type h.corr st body)

/-- What an engine writes for a team reaches its commons point at once: its launch is not deterministic (R376). -/
def State.storesAtOnce (s : State) (tm : Nat) : Prop :=
  ∀ l, s.launch? (match s.team? tm with | some t => t.launch | none => 0) = some l → l.lrec.det = false

/-- Line x is read and written at its commons point as it stands: it lies in no format region's window (R371, R374). -/
def plainLine (s : State) (x : Nat) : Prop := s.regionOf x = none ∧ s.packedOver x = []

/-- The halfwords at a code address of a virtual device, each on a page that may be executed, are hs (R29, R45). -/
def State.codeAt (s : State) (v : Nat) (pc : Code) (hs : List Half) : Prop :=
  ∀ k, (h : k < hs.length) → s.fetchHalf v (BitVec.signExtend 64 (pc + BitVec.ofNat 56 (2 * k))) = .ok (some hs[k])

/-- The issue that slot `slot` of a core makes: the splinter c of a granted run, none of whose lanes owes a fault (R99, R222). -/
def Issues (s : State) (core slot : Nat) (c : Cur) : Prop :=
  ∃ gr, rd (s.core core).slots slot = some gr ∧
    let g := s.group gr.team gr.group
    let act := g.splinter gr.slice
    let ln := rd g.lanes (lowest act)
    c = { core := core, slot := slot, team := gr.team, group := gr.group, act := act, pc := ln.pc, len := 0, rep := ln.repi } ∧
    act ≠ 0 ∧ ∀ l < 32, inMask act l = true → (rd g.lanes l).denied = false ∧ (rd g.lanes l).owesDiv = false

/-- What a step makes of an outcome of exec: the state goes on by `f`, a stop stays what it is. -/
def after (r : Res) (f : State → State) : Res :=
  match r with | .next t => .next (f t) | .fault e => .fault e | .refused e => .refused e

end Statements

end Sys2Proof.Machine
end

