-- ==== Sys2Proof/Certificates/Slice0/Obligations.lean ====
section
/-!
DEFINITION. The statements about this model that the provers are to prove.
-/
open Sys2Proof Sys2Proof.Machine

section Integers

/-- IADD to IMAX, SHL to CLZ, IMUL to IMAD, LEA to INEG, MOV, INOT and EXT complete, write vD in every guarded lane with what
their entry gives, sub-element by sub-element, and change nothing else. The 16-bit forms do so in every lane of the splinter (their
guard is p0), with A the register D and B the register S; IADDI adds S as a signed 5-bit value, MOV copies S. That SHRA of an unsigned
(N) type fills with zeros is the model's choice (log entry 84, DEDUCED). -/
def Obligations.VectorIntegers : Prop :=
  (∀ p ∈ vectorInts, ∀ (m : Mods) (f : RForm), m.ty ∈ intTys →
    ∃ val, SetsV (p.2 m f) f.g (fun c => (f.at m c.rep).d.toNat) val ∧
      ∀ s c l, IntResult p.1 m f.b.toNat (vreg s c l (f.at m c.rep).a) (vreg s c l (f.at m c.rep).b) (vreg s c l (f.at m c.rep).d)
        (val s c l)) ∧
  (∀ p ∈ halfInts, ∀ f : HForm, ∃ val, SetsV (p.2 f) 0 (fun _ => f.d.toNat) val ∧
    ∀ s c l, IntResult p.1 {} 0 (s.rdV c.team c.group l f.d.toNat) (s.rdV c.team c.group l f.s.toNat)
      (s.rdV c.team c.group l f.d.toNat) (val s c l)) ∧
  (∀ f : HForm, SetsV (.movW16 f) 0 (fun _ => f.d.toNat) fun s c l => s.rdV c.team c.group l f.s.toNat) ∧
  (∀ f : HForm, SetsV (.iaddiW16 f) 0 (fun _ => f.d.toNat) fun s c l =>
    s.rdV c.team c.group l f.d.toNat + BitVec.signExtend 32 f.s)

/-- IADDI and MOVI complete and write vD with the fitted sum with, or the fitted, signed immediate of 9 bits, or of 30 with K;
ISEL copies vA or vB by the selecting predicate; nothing else changes. -/
def Obligations.ImmediatesAndSelect : Prop :=
  (∀ (m : Mods) (f : IForm), m.ty ∈ intTys →
    (∃ val, SetsV (.iaddi m f) f.g (fun c => (f.at m c.rep).d.toNat) val ∧ ∀ s c l, ∀ k < m.ty.count,
      Fits m.ty m.sat (m.ty.int (sub m.ty (vreg s c l (f.at m c.rep).a) k) +
        (match m.k with | some k => (k ++ f.imm : BitVec 30).toInt | none => f.imm.toInt)) (m.ty.int (sub m.ty (val s c l) k))) ∧
    (∃ val, SetsV (.movi m f) f.g (fun c => (f.at m c.rep).d.toNat) val ∧ ∀ s c l, ∀ k < m.ty.count,
      Fits m.ty m.sat (match m.k with | some k => (k ++ f.imm : BitVec 30).toInt | none => f.imm.toInt)
        (m.ty.int (sub m.ty (val s c l) k)))) ∧
  (∀ (m : Mods) (f : RForm), SetsV (.isel m f) f.g (fun c => (f.at m c.rep).d.toNat) fun s c l =>
    if (s.lane c.team c.group l).pred (m.clsField 0 3) then vreg s c l (f.at m c.rep).a else vreg s c l (f.at m c.rep).b)

/-- ISET sets its predicates by a condition that must hold in every sub-element; PLOP by bit a + 2b of its truth table; IADDC adds
with the carry in of the named predicate (0 for p0), writes the carry out to it, and the low word to vD. Each completes and
changes nothing else. That a predicate named in both parts of a destination takes one value, the same in every lane, which is free, is the model's
choice (log entry 8, DEDUCED). -/
def Obligations.IntegerPredicates : Prop :=
  (∀ (m : Mods) (f : RForm), m.ty ∈ intTys → m.clsField 0 3 ≤ 5 →
    ∃ bit, SetsP (.iset m f) f.g (fun c => (f.at m c.rep).d) bit ∧ ∀ s c l, (bit s c l = true ↔ ∀ k < m.ty.count,
      holdsInt (m.clsField 0 3) (m.ty.int (sub m.ty (vreg s c l (f.at m c.rep).a) k))
        (m.ty.int (sub m.ty (vreg s c l (f.at m c.rep).b) k)))) ∧
  (∀ (m : Mods) (f : RForm), SetsP (.plop m f) f.g (fun c => (f.at m c.rep).d) fun s c l =>
    m.cls.getLsbD (((s.lane c.team c.group l).pred (f.at m c.rep).a.toNat).toNat +
      2 * ((s.lane c.team c.group l).pred (f.at m c.rep).b.toNat).toNat)) ∧
  (∀ (m : Mods) (f : RForm), Completes (.iaddc m f) fun s c t => ∃ sum : Nat → Word, ∃ out : Nat → Bool,
    Computed s t (.iaddc m f) c (s.guarded c f.g)
      (fun l => { v := [((f.at m c.rep).d.toNat, sum l)], p := [(m.clsField 0 3, out l)] }) ∧
    ∀ l, (sum l).toNat + 2 ^ 32 * (out l).toNat = (vreg s c l (f.at m c.rep).a).toNat + (vreg s c l (f.at m c.rep).b).toNat +
      (if m.clsField 0 3 ≠ 0 ∧ (s.lane c.team c.group l).pred (m.clsField 0 3) = true then 1 else 0))

/-- The uniform forms complete and do to the path's copy of the s-registers, once, what the vector forms do to a lane: every lane of
the splinter holds the result; a splinter of helper lanes only has no effect. IADDC.U takes its carry from the lowest active
lane. Two clauses are the model's choice: SHRA of an unsigned (N) type fills with zeros (log entry 84), and a predicate that ISET.U names in both
parts takes one value, the same in every lane, which is free (log entry 8, DEDUCED). -/
def Obligations.UniformIntegers : Prop :=
  (∀ p ∈ uniformInts, ∀ (m : Mods) (f : RForm), m.ty ∈ intTys →
    ∃ val, SetsS (p.2 m f) (fun c => (f.at m c.rep).d.toNat) val ∧
      ∀ s c, IntResult p.1 m f.b.toNat (s.rdS c (f.at m c.rep).a.toNat) (s.rdS c (f.at m c.rep).b.toNat)
        (s.rdS c (f.at m c.rep).d.toNat) (val s c)) ∧
  (∀ (m : Mods) (f : IForm), m.ty ∈ intTys →
    (∃ val, SetsS (.iaddiU m f) (fun c => (f.at m c.rep).d.toNat) val ∧ ∀ s c, ∀ k < m.ty.count,
      Fits m.ty m.sat (m.ty.int (sub m.ty (s.rdS c (f.at m c.rep).a.toNat) k) +
        (match m.k with | some k => (k ++ f.imm : BitVec 30).toInt | none => f.imm.toInt)) (m.ty.int (sub m.ty (val s c) k))) ∧
    (∃ val, SetsS (.moviU m f) (fun c => (f.at m c.rep).d.toNat) val ∧ ∀ s c, ∀ k < m.ty.count,
      Fits m.ty m.sat (match m.k with | some k => (k ++ f.imm : BitVec 30).toInt | none => f.imm.toInt)
        (m.ty.int (sub m.ty (val s c) k)))) ∧
  (∀ (m : Mods) (f : RForm), Completes (.iaddcU m f) fun s c t => ∃ sum out,
    Computed s t (.iaddcU m f) c (if s.onlyHelpers c then 0 else c.act)
      (fun _ => { s := [((f.at m c.rep).d.toNat, sum)], p := [(m.clsField 0 3, out)] }) ∧
    sum.toNat + 2 ^ 32 * out.toNat = (s.rdS c (f.at m c.rep).a.toNat).toNat + (s.rdS c (f.at m c.rep).b.toNat).toNat +
      (if m.clsField 0 3 ≠ 0 ∧ (s.lane c.team c.group (lowest c.act)).pred (m.clsField 0 3) = true then 1 else 0)) ∧
  (∀ (m : Mods) (f : RForm), m.ty ∈ intTys → m.clsField 0 3 ≤ 5 → Completes (.isetU m f) fun s c t => ∃ free bit,
    Computed s t (.isetU m f) c (if s.onlyHelpers c then 0 else c.act) (fun _ =>
      { p := if (f.at m c.rep).d.toNat % 8 = (f.at m c.rep).d.toNat / 8 then [((f.at m c.rep).d.toNat % 8, free)]
             else [((f.at m c.rep).d.toNat % 8, bit), ((f.at m c.rep).d.toNat / 8, !bit)] }) ∧
    (bit = true ↔ ∀ k < m.ty.count, holdsInt (m.clsField 0 3) (m.ty.int (sub m.ty (s.rdS c (f.at m c.rep).a.toNat) k))
      (m.ty.int (sub m.ty (s.rdS c (f.at m c.rep).b.toNat) k))))

end Integers

section Control

/-- Settling after an instruction changes only what `Did` says: `advance` moves the splinter to the next instruction or the next
repeat, `jumpTo` each lane to its target, and neither touches memory, registers, special registers or any other state.
A lane whose movement takes it to its meeting address becomes held there, one that leaves others behind does not; a held set is
released once every lane that has not exited and names the address is held there, and a lane that is held elsewhere stays
held.
Settling merges: the live lanes of one path take the copy of the uniform registers that its lowest lane holds; where the copies differed,
xsdiv is set and, in a STRICT launch, the merged path owes a divergent-uniform fault; where they agree, nothing changes. -/
def Obligations.MovingAndMeeting : Prop :=
  (∀ (s : State) (i : Instr) (c : Cur), s.team? c.team ≠ none →
    Computed s (s.advance i c) i c 0 (fun _ => {}) ∧
    ∀ (tgt : Nat → Code) (div : Bool), Did s (s.jumpTo c tgt div) c 0 (fun _ => {}) (fun l => some (tgt l)) (if div then .diverged else .done)) ∧
  (∀ (g : Group) (act : BitVec 32) (strict : Bool) (l : Nat), l < 32 →
    (∀ a, (rd g.lanes l).exited = false → ((rd g.lanes l).goto a).held = decide ((rd g.lanes l).meet = some a ∧ (rd g.lanes l).pc ≠ a)) ∧
    ((rd g.lanes l).held = true →
      ((rd (g.settle act strict).lanes l).held = false ↔ ∀ k < 32, (rd g.lanes k).present = true → (rd g.lanes k).exited = false →
        (rd g.lanes k).meet = some (rd g.lanes l).pc → (rd g.lanes k).held = true)) ∧
    ((rd g.lanes l).held = false → (rd (g.settle act strict).lanes l).held = false)) ∧
  (∀ (g : Group) (act : BitVec 32) (strict : Bool),
    (∃ l < 32, (rd g.lanes l).held = true ∨ (rd g.lanes l).present = true ∧ (rd g.lanes l).exited = false ∧ inMask act l = false) →
    (g.settle act strict).lanes = (g.release.merge strict).lanes ∧ (g.settle act strict).sdiv = (g.release.merge strict).sdiv) ∧
  (∀ (g : Group) (strict : Bool),
    let low (l : Nat) : Nat := lowest (g.path l)
    let apart (l : Nat) : Prop := ∃ k < 32, inMask (g.path l) k = true ∧ (rd g.lanes k).sDiffers (rd g.lanes (low l)) = true
    (∀ l < 32, (rd g.lanes l).live = true → apart l → (g.merge strict).sdiv = true ∧ rd (g.merge strict).lanes l =
      { rd g.lanes l with s := (rd g.lanes (low l)).s, owesDiv := (rd g.lanes l).owesDiv || strict }) ∧
    (∀ l < 32, ((rd g.lanes l).live = false ∨ ¬ apart l) → rd (g.merge strict).lanes l = rd g.lanes l) ∧
    ((∀ l < 32, (rd g.lanes l).live = true → ¬ apart l) → g.merge strict = g))

/-- BRA, CALL, BRX, CALLX and RET complete: the lanes whose guard is true go to the target, the others to the next instruction; CALL
writes v7 and CALLX vD with the code value of the next instruction, after vA has been read; the run ends as divergent exactly when
the guard differs among the active lanes or the targets differ. Nothing else changes. That a RET whose lanes hold unequal targets diverges,
as BRX and CALLX do, is the model's choice (log entry 85). -/
def Obligations.BranchesAndCalls : Prop :=
  (∀ (m : Mods) (f : BForm), Completes (.bra m f) fun s c t =>
    Did s t c 0 (fun _ => {})
      (fun l => some (if inMask (s.guarded c f.g) l then
        c.pc + (match m.k with | some k => BitVec.signExtend 56 (k ++ f.off : BitVec 42) | none => BitVec.signExtend 56 f.off) * 2
        else c.next))
      (if s.guarded c f.g = 0 ∨ s.guarded c f.g = c.act then .done else .diverged)) ∧
  (∀ (m : Mods) (f : BForm), Completes (.call m f) fun s c t => ∃ link, codeValueOf (s.codeBase c.team) c.next link ∧
    Did s t c (s.guarded c f.g) (fun _ => { v := [(7, link)] })
      (fun l => some (if inMask (s.guarded c f.g) l then
        c.pc + (match m.k with | some k => BitVec.signExtend 56 (k ++ f.off : BitVec 42) | none => BitVec.signExtend 56 f.off) * 2
        else c.next))
      (if s.guarded c f.g = 0 ∨ s.guarded c f.g = c.act then .done else .diverged)) ∧
  (∀ (k : Mods → RForm → Instr) (m : Mods) (f : RForm), k = .brx ∨ k = .ret → Completes (k m f) fun s c t => ∃ o,
    Did s t c 0 (fun _ => {})
      (fun l => some (if inMask (s.guarded c f.g) l then s.codeBase c.team + BitVec.signExtend 56 (vreg s c l f.a) * 2 else c.next)) o ∧
    (o = .done ∨ o = .diverged) ∧ (o = .diverged ↔ (s.guarded c f.g ≠ 0 ∧ s.guarded c f.g ≠ c.act) ∨
      ∃ l k, inMask (s.guarded c f.g) l = true ∧ inMask (s.guarded c f.g) k = true ∧
        s.codeBase c.team + BitVec.signExtend 56 (vreg s c l f.a) * 2 ≠ s.codeBase c.team + BitVec.signExtend 56 (vreg s c k f.a) * 2)) ∧
  (∀ (m : Mods) (f : RForm), Completes (.callx m f) fun s c t => ∃ link o, codeValueOf (s.codeBase c.team) c.next link ∧
    Did s t c (s.guarded c f.g) (fun _ => { v := [(f.d.toNat, link)] })
      (fun l => some (if inMask (s.guarded c f.g) l then s.codeBase c.team + BitVec.signExtend 56 (vreg s c l f.a) * 2 else c.next)) o ∧
    (o = .done ∨ o = .diverged) ∧ (o = .diverged ↔ (s.guarded c f.g ≠ 0 ∧ s.guarded c f.g ≠ c.act) ∨
      ∃ l k, inMask (s.guarded c f.g) l = true ∧ inMask (s.guarded c f.g) k = true ∧
        s.codeBase c.team + BitVec.signExtend 56 (vreg s c l f.a) * 2 ≠ s.codeBase c.team + BitVec.signExtend 56 (vreg s c k f.a) * 2))

/-- EXIT marks the lanes whose guard is true as exited, and the group has ended once every present lane has; YIELD marks the group so
that other ready groups come first; NOP has no effect. Each completes and the lanes that go on stand at the next instruction.
MEET sets the meeting address of its guarded lanes and saves the old one in vD, as a halfword offset from the new, 0x8000_0000
for none; MEETR restores a meeting address from such a value. VOTE, once its whole path is in the splinter, writes the ballot of
the active lanes whose guard and pA are true to every guarded lane. Nothing else changes. -/
def Obligations.ExitsMeetsAndVotes : Prop :=
  (∀ (m : Mods) (f : RForm), m.rep = none → Completes (.exit m f) fun s c t =>
    Computed s t (.exit m f) c (s.guarded c f.g) (fun _ => { other := fun l => { l with exited := true, wait := none } }) ∧
    ((t.group c.team c.group).ended = true ↔
      ∀ l < 32, (t.lane c.team c.group l).present = false ∨ (t.lane c.team c.group l).exited = true)) ∧
  (∀ (m : Mods) (f : RForm), Completes (.yield m f) fun s c t =>
    t = (if s.guarded c f.g = 0 then s else s.modGroup c.team c.group fun g => { g with yielded := true }).advance (.yield m f) c) ∧
  (∀ (m : Mods) (f : RForm), Completes (.nop m f) fun s c t => Computed s t (.nop m f) c 0 fun _ => {}) ∧
  (∀ (m : Mods) (f : RForm), Completes (.meet m f) fun s c t => ∃ a, ∃ old : Nat → Word,
    a = c.pc + (match m.k with | some k => (k ++ f.b ++ f.a : BitVec 33).signExtend 56 | none => (f.b ++ f.a : BitVec 12).signExtend 56) * 2 ∧
    (∀ l, match (s.lane c.team c.group l).meet with | none => old l = 0x80000000 | some b => codeValueOf a b (old l)) ∧
    Computed s t (.meet m f) c (s.guarded c f.g) fun l =>
      { v := [(f.d.toNat, old l)], other := fun ln => { ln with meet := some a } }) ∧
  (∀ (m : Mods) (f : RForm), Completes (.meetr m f) fun s c t => Computed s t (.meetr m f) c (s.guarded c f.g) fun l =>
    let v := vreg s c l f.a
    { other := fun ln => { ln with meet := if v = 0x80000000 then none else ln.meet.map fun a => a + v.signExtend 56 * 2 } }) ∧
  (∀ (m : Mods) (f : RForm) s c s1, Ready s (.vote m f) c s1 → (∀ l < 32, inMask c.act l = true → (s1.group c.team c.group).path l = c.act) →
    s1.unblocked c [] [] → ∃ t, exec (.vote m f) s = .next t ∧ ∃ ballot : Word,
      (∀ l < 32, ballot.getLsbD l = (inMask (s1.guarded c f.g) l && (s1.lane c.team c.group l).pred f.a.toNat)) ∧
      Computed s1 t (.vote m f) c (s1.guarded c f.g) fun _ => { v := [(f.d.toNat, ballot)] })

/-- SHFL completes: every guarded lane takes vA of its source lane, of its own where the source is not active in the splinter; the
source's guard is not consulted. -/
def Obligations.Shuffle : Prop :=
  ∀ (m : Mods) (f : RForm), m.clsField 2 3 ≤ 5 → SetsV (.shfl m f) f.g (fun _ => f.d.toNat) fun s c l =>
    let z := match m.clsField 2 3 with | 0 => 32 | 1 => 2 | 2 => 4 | 3 => 8 | 4 => 16 | _ => 32
    let b := match m.k with | some k => k.toNat % 32 | none => (vreg s c l f.b).toNat
    let base := l - l % z
    let src := match m.clsField 0 2 with
      | 0 => base + b % z
      | 1 => if b ≤ l - base then l - b else l
      | 2 => if l + b < base + z then l + b else l
      | _ => base + ((l - base) ^^^ (b % z))
    if inMask c.act src then vreg s c src f.a else vreg s c l f.a

/-- SRD completes: vD of every guarded lane takes the special register's value at issue, and with .U a uniform register of the path's
copy. A read of xcycle.lo reads the core's counter, which has gone on by a free amount (log entry 3), and latches its high word for
the group; that it does so with its guard true in no lane too is the model's choice (log entry 86).
SWR completes. With .U the path's copy of uniform register sD takes vA of its lowest guarded lane. Otherwise each guarded lane's vA
goes to special register D: to the lane for xmeet, xfpctl, xfpstat, xmmode, xmstat and xrngpos, and from the lowest guarded lane to the
group or team for the rest; a guarded lane whose value is not legal for its register takes an illegal-instruction fault and nothing is
written. -/
def Obligations.SpecialRegisters : Prop :=
  (∀ (m : Mods) (f : RForm), m.clsBit 0 = true → SetsV (.srd m f) f.g (fun _ => f.d.toNat) fun s c _ => s.rdS c f.a.toNat) ∧
  (∀ (m : Mods) (f : RForm), m.clsBit 0 = false → f.a.toNat ≠ 20 →
    SetsV (.srd m f) f.g (fun _ => f.d.toNat) fun s c l => s.special c l f.a.toNat) ∧
  (∀ (m : Mods) (f : RForm), m.clsBit 0 = false → f.a.toNat = 20 → Completes (.srd m f) fun s c t => ∃ n : BitVec 64,
    Computed ((s.modCore c.core fun k => { k with cycle := n }).modGroup c.team c.group fun g => { g with cycleHi := n.extractLsb' 32 32 })
      t (.srd m f) c (s.guarded c f.g) fun _ => { v := [(f.d.toNat, n.extractLsb' 0 32)] }) ∧
  (∀ (s : State) (c : Cur) (l : Nat) (t : Team), s.team? c.team = some t → l < 32 →
    let ln := s.lane c.team c.group l
    let g := s.group c.team c.group
    let sp := s.special c l
    sp 0 = BitVec.ofNat 32 l ∧ sp 1 = BitVec.ofNat 32 (l / 4) ∧ sp 2 = BitVec.ofNat 32 c.group ∧
    (∀ x y z, t.origin = .grid x y z → sp 5 = BitVec.ofNat 32 x ∧ sp 6 = BitVec.ofNat 32 y ∧ sp 7 = BitVec.ofNat 32 z ∧
      sp 3 = BitVec.ofNat 32 (x + (s.launchOf c.team).lrec.gx * (y + (s.launchOf c.team).lrec.gy * z))) ∧
    ((∀ x y z, t.origin ≠ .grid x y z) → sp 3 = 0xFFFFFFFF ∧ sp 5 = 0xFFFFFFFF ∧ sp 6 = 0xFFFFFFFF ∧ sp 7 = 0xFFFFFFFF) ∧
    sp 4 = (if g.consumer then 1 else 0) ∧ sp 8 = BitVec.ofNat 32 c.core ∧ sp 9 = BitVec.ofNat 32 (c.core / 4) ∧
    sp 10 = BitVec.ofNat 32 (c.core / 160) ∧ sp 11 = BitVec.ofNat 32 deviceNo ∧
    (∀ k < 3, sp (46 + k) = BitVec.ofNat 32 g.sq.length) ∧
    (∀ k < 3, ∃ ids : List Nat, ids.Nodup ∧ sp (49 + k) = BitVec.ofNat 32 ids.length ∧ ∀ n, n ∈ ids ↔ (∃ e ∈ g.sq, e.id = n) ∨
      ∃ k ∈ s.cores, ∃ x ∈ k.cv, ∃ w ∈ x.pend, w.vis = none ∧ w.team = c.team ∧ w.group = c.group ∧ w.id = n) ∧
    (match ln.meet with | none => sp 12 = 0x80000000 | some a => codeValueOf c.pc a (sp 12)) ∧ sp 13 = c.act ∧
    sp 14 = ln.fpctl ∧ sp 15 = ln.fpstat ∧ sp 16 = ln.mmode ∧ sp 17 = ln.mstat ∧ sp 18 = t.tags.extractLsb' 0 32 ∧
    sp 52 = t.tags.extractLsb' 32 32 ∧ sp 19 = BitVec.ofNat 32 c.rep ∧ sp 21 = g.cycleHi ∧ sp 22 = (if g.sdiv then 1 else 0) ∧
    sp 23 = (if ln.helper then 1 else 0) ∧ (∀ k < 8, sp (24 + k) = rd g.rngKey k) ∧ sp 32 = ln.rngPos.extractLsb' 0 32 ∧
    sp 33 = ln.rngPos.extractLsb' 32 32 ∧ sp 34 = g.rngStream.extractLsb' 0 32 ∧ sp 35 = g.rngStream.extractLsb' 32 32 ∧
    sp 36 = t.musterPc.extractLsb' 0 32 ∧ sp 37 = t.musterPc.extractLsb' 32 32 ∧ sp 38 = t.budget ∧ sp 39 = g.frec.w0 ∧
    sp 40 = g.frec.w1 ∧ sp 41 = g.frec.w2 ∧ sp 42 = g.frec.w3 ∧ sp 43 = g.frec.va.extractLsb' 0 32 ∧
    sp 44 = g.frec.va.extractLsb' 32 32 ∧ sp 45 = BitVec.ofNat 32 g.sq.length) ∧
  (let legal (n : Nat) (v : Word) : Prop := match n with
    | 14 => bits v 1 3 ≤ 5 ∧ v.toNat < 16
    | 15 | 17 => v.toNat < 64
    | 16 => bits v 0 2 ≠ 3 ∧ v.toNat < 8
    | _ => True
  (∀ (m : Mods) (f : RForm), m.clsBit 0 = true → Completes (.swr m f) fun s c t =>
    Computed s t (.swr m f) c (if s.guarded c f.g = 0 then 0 else c.act) fun _ =>
      { s := [(f.d.toNat, vreg s c (lowest (s.guarded c f.g)) f.a)] }) ∧
  (∀ (m : Mods) (f : RForm) s c s1, m.clsBit 0 = false → Ready s (.swr m f) c s1 →
    (∃ l < 32, inMask (s1.guarded c f.g) l = true ∧ ¬ legal f.d.toNat (vreg s1 c l f.a)) →
    ∃ mask, exec (.swr m f) s = .next (s.takeFault c (0x04, 5) { cls := 1, mask := mask }) ∧
      ∀ l < 32, (inMask mask l = true ↔ inMask (s1.guarded c f.g) l = true ∧ ¬ legal f.d.toNat (vreg s1 c l f.a))) ∧
  (∀ (m : Mods) (f : RForm) s c s1, m.clsBit 0 = false → Ready s (.swr m f) c s1 →
    (∀ l < 32, inMask (s1.guarded c f.g) l = true → legal f.d.toNat (vreg s1 c l f.a)) →
    (f.d.toNat ∈ [12, 14, 15, 16, 17, 32, 33] → ∃ t, exec (.swr m f) s = .next t ∧
      Computed s1 t (.swr m f) c (s1.guarded c f.g) fun l => { other := fun ln =>
        let v := vreg s1 c l f.a
        match f.d.toNat with
        | 12 => { ln with meet := if v = 0x80000000 then none else some (c.pc + BitVec.signExtend 56 v * 2) }
        | 14 => { ln with fpctl := v }
        | 15 => { ln with fpstat := v }
        | 16 => { ln with mmode := v }
        | 17 => { ln with mstat := v }
        | 32 => { ln with rngPos := (ln.rngPos.extractLsb' 32 32 ++ v : BitVec 64) }
        | _ => { ln with rngPos := (v ++ ln.rngPos.extractLsb' 0 32 : BitVec 64) } }) ∧
    (f.d.toNat ∉ [12, 14, 15, 16, 17, 32, 33] → s1.guarded c f.g = 0 → ∃ t, exec (.swr m f) s = .next t ∧
      Computed s1 t (.swr m f) c 0 fun _ => {}) ∧
    (s1.guarded c f.g ≠ 0 → let v := vreg s1 c (lowest (s1.guarded c f.g)) f.a
      (f.d.toNat ∈ [22, 24, 25, 26, 27, 28, 29, 30, 31, 34, 35] →
        exec (.swr m f) s = .next ((s1.modGroup c.team c.group fun g => match f.d.toNat with
          | 22 => { g with sdiv := v.getLsbD 0 }
          | 34 => { g with rngStream := (g.rngStream.extractLsb' 32 32 ++ v : BitVec 64) }
          | 35 => { g with rngStream := (v ++ g.rngStream.extractLsb' 0 32 : BitVec 64) }
          | n => { g with rngKey := wr g.rngKey (n - 24) v }).advance (.swr m f) c)) ∧
      (f.d.toNat ∈ [36, 37, 38] →
        exec (.swr m f) s = .next ((s1.modTeam c.team fun t => match f.d.toNat with
          | 36 => { t with musterPc := (t.musterPc.extractLsb' 32 32 ++ v : BitVec 64) }
          | 37 => { t with musterPc := (v ++ t.musterPc.extractLsb' 0 32 : BitVec 64) }
          | _ => { t with budget := v }).advance (.swr m f) c)))))

end Control

section Faults

/-- The fields of a fault record: class, MAJ and FN as decoded, repeat, kind, lane mask, address of the instruction, INFO and the
data address. -/
def Obligations.FaultRecordFields : Prop :=
  ∀ (cls maj fn rep kind info : Nat) (mask : BitVec 32) (pc : Code) (va : BitVec 64),
    cls < 256 → maj < 64 → fn < 8 → rep < 64 → kind < 16 → info < 256 →
    let r := mkRec cls maj fn rep kind info mask pc va
    bits r.w0 0 8 = cls ∧ bits r.w0 8 6 = maj ∧ bits r.w0 14 3 = fn ∧ bits r.w0 17 6 = rep ∧ bits r.w0 23 4 = kind ∧
    bits r.w0 27 5 = 0 ∧ r.w1 = mask ∧ r.w2 = pc.extractLsb' 0 32 ∧ r.w3.extractLsb' 0 24 = pc.extractLsb' 32 24 ∧
    bits r.w3 24 8 = info ∧ r.va = va ∧ r.pc = pc

/-- A fault that is handed to the group, taken outside trap state and outside a muster handler where the launch names a trap entry: the
record is written, trap state is set, the lanes of MASK stand at the trap entry with their MEET, registers, predicates and
uniform copies unchanged, every other lane that has not exited is held, a new run is counted, and nothing else in the machine has
changed: the store queue, memory and every other group stand. -/
def Obligations.FaultEntersHandler : Prop :=
  ∀ (s : State) (c : Cur) (code : Nat × Nat) (f : FaultInfo), s.team? c.team ≠ none → f.cls ≠ 3 → f.cls ≠ 9 →
    (s.group c.team c.group).trap = none → (∀ h, (s.group c.team c.group).handler = some h → h.running = false) →
    (s.launchOf c.team).lrec.trape ≠ 0x80000000 →
    let t := s.takeFault c code f
    let g := s.group c.team c.group
    let g' := t.group c.team c.group
    let k := f.code.getD code
    g'.frec = mkRec f.cls k.1 k.2 c.rep f.kind f.info f.mask c.pc f.va ∧
    g'.trap = some { mask := f.mask, act := c.act, next := c.next } ∧ g'.runPos = 0 ∧
    (∀ l < 32, rd g'.lanes l =
      if inMask f.mask l then
        { rd g.lanes l with
          pc := s.codeBase c.team + BitVec.signExtend 56 (s.launchOf c.team).lrec.trape * 2, repi := 0, wait := none, twinWait := false }
      else { rd g.lanes l with trapHeld := (rd g.lanes l).present && !(rd g.lanes l).exited }) ∧
    g' = { g with frec := g'.frec, trap := g'.trap, runPos := 0, lanes := g'.lanes, pres := g'.pres } ∧
    t = { s with teams := t.teams, cur := some { c with out := .faulted } } ∧
    (∀ tm, tm ≠ c.team → t.team? tm = s.team? tm) ∧
    (∀ n, n ≠ c.group → t.group c.team n = s.group c.team n) ∧
    (t.team? c.team).map Team.body = (s.team? c.team).map Team.body ∧
    (t.team? c.team).map Team.twins = (s.team? c.team).map Team.twins

/-- Where the launch names no trap entry the shepherd ends the team: no lane of it issues again, its store queues stand, the record is
noted for the event recorder and kept as the launch's error unless an earlier one is kept, and memory and every other team stand.
A fault taken in trap state is a double fault: the team ends as where no entry is named, and the record that stood and the new one
are both noted for the recorder. -/
def Obligations.FaultsThatEndTheTeam : Prop :=
  (∀ (s : State) (c : Cur) (code : Nat × Nat) (f : FaultInfo) (tm : Team), s.team? c.team = some tm → f.cls ≠ 3 → f.cls ≠ 9 →
    (s.group c.team c.group).trap = none → (∀ h, (s.group c.team c.group).handler = some h → h.running = false) →
    (s.launchOf c.team).lrec.trape = 0x80000000 →
    let t := s.takeFault c code f
    let k := f.code.getD code
    let r := mkRec f.cls k.1 k.2 c.rep f.kind f.info f.mask c.pc f.va
    (∀ n < tm.groups.length, (t.group c.team n).ended = true ∧ (t.group c.team n).sq = (s.group c.team n).sq ∧
      ∀ l < 32, (t.lane c.team n l).exited = true) ∧
    (∀ key l, key = tm.launch → s.launch? key = some l → (t.launch? key).map Launch.errRec = some (some (l.errRec.getD r))) ∧
    (∀ key, key ≠ tm.launch → t.launch? key = s.launch? key) ∧
    (∃ e ∈ t.noted, e.cls = 1 ∧ e.data = [r.w0, r.w1, r.w2, r.w3, r.va.extractLsb' 0 32, r.va.extractLsb' 32 32]) ∧
    (∀ k ∈ t.cores, ∀ gr, some gr ∈ k.slots → gr.team ≠ c.team) ∧ t.mem = s.mem ∧ t.entries = s.entries ∧
    (∀ n, n ≠ c.team → t.team? n = s.team? n)) ∧
  (∀ (s : State) (c : Cur) (code : Nat × Nat) (f : FaultInfo) (tm : Team), s.team? c.team = some tm →
    (s.group c.team c.group).trap ≠ none → (∀ h, (s.group c.team c.group).handler = some h → h.running = false) →
    let t := s.takeFault c code f
    let k := f.code.getD code
    let r := mkRec f.cls k.1 k.2 c.rep f.kind f.info f.mask c.pc f.va
    let words (r : FaultRec) : List Word := [r.w0, r.w1, r.w2, r.w3, r.va.extractLsb' 0 32, r.va.extractLsb' 32 32]
    (∀ n < tm.groups.length, (t.group c.team n).ended = true) ∧
    (∃ e ∈ t.noted, e.cls = 1 ∧ e.data = words r) ∧ (∃ e ∈ t.noted, e.cls = 1 ∧ e.data = words (s.group c.team c.group).frec) ∧
    t.mem = s.mem ∧ (∀ n, n ≠ c.team → t.team? n = s.team? n))

/-- A translation or row-progress fault parks: the record is written, a fault-queue entry holds it with the next number, the team is to
leave until that entry is resolved, the lanes of the path wait at the instruction, those of MASK keep what a denied replay would record, and
no register and no byte has changed. -/
def Obligations.ParkingFaultQueues : Prop :=
  ∀ (s : State) (c : Cur) (code : Nat × Nat) (f : FaultInfo) (tm : Team) (d : Vdev), s.team? c.team = some tm →
    s.vdev? tm.vdev = some d → (f.cls = 3 ∨ f.cls = 9) → (s.group c.team c.group).trap = none →
    (∀ h, (s.group c.team c.group).handler = some h → h.running = false) →
    let t := s.takeFault c code f
    let k := f.code.getD code
    let r := mkRec f.cls k.1 k.2 c.rep f.kind f.info f.mask c.pc f.va
    (t.group c.team c.group).frec = r ∧
    (t.vdev? tm.vdev).map (fun d' => (d'.faultq, d'.fqNum)) =
      some (d.faultq ++ [{ num := d.fqNum, team := c.team, group := c.group, frec := r, open_ := true }], d.fqNum + 1) ∧
    (t.team? c.team).map (fun t' => (t'.leaving, t'.wakeEntries)) = some (.park, tm.wakeEntries ++ [d.fqNum]) ∧
    (∀ l < 32, ∃ w o, rd (t.group c.team c.group).lanes l = { rd (s.group c.team c.group).lanes l with wait := w, owed := o } ∧
      (inMask c.act l = true → w ≠ none ∧ (if inMask f.mask l then o.map Owed.entry = some d.fqNum else o = none))) ∧
    t.mem = s.mem ∧ (∀ n, n ≠ c.team → t.team? n = s.team? n) ∧ (∀ n, n ≠ c.group → t.group c.team n = s.group c.team n)

/-- TRAP enters the handler with class 16 and its number for the lanes whose guard is true, and has no effect without one; BKPT outside
trap state stops the group for an attached debugger, to which a message reports it (its form is the model's, log entry 93), its lanes at the
next instruction, and is a fault of class 17 without one and in trap state; MDONE in a running muster handler ends it, the frame's twin
bits return, and the resume descriptor is left, and it is illegal outside one or with a reserved bit set, but has no effect in a splinter
of helper lanes only; INVD waits
as a FENCE at DEVICE scope does and then discards its class, and is a protection fault for class FMT.
TRET is illegal outside trap state. In it, it clears trap state, releases the held lanes and starts a new run: after a trap or a
break the lanes of MASK stand at the next instruction; after any other fault they stand at the faulting instruction at its repeat,
or with .SKIP the lanes of the faulting path stand at the next instruction. The record and every register stand. -/
def Obligations.SystemInstructionsAndReturn : Prop :=
  (∀ (m : Mods) (f : RForm) s c s1, Ready s (.trap m f) c s1 →
    (s1.guarded c f.g = 0 → ∃ t, exec (.trap m f) s = .next t ∧ Computed s1 t (.trap m f) c 0 fun _ => {}) ∧
    (s1.guarded c f.g ≠ 0 → exec (.trap m f) s = .next (s.takeFault c (0x03, 3) { cls := 16, mask := s1.guarded c f.g, info := f.a.toNat }))) ∧
  (∀ (m : Mods) (f : RForm) s c s1, Ready s (.bkpt m f) c s1 →
    ((∃ d, s1.vdev? (s1.vdevOf c.team) = some d ∧ d.debugger = true) → (s1.group c.team c.group).trap = none → exec (.bkpt m f) s =
      .next (((s1.modGroup c.team c.group fun g => { g with broken := true }).postOut (s1.vdevOf c.team) 0x09
        (leBytes 4 c.team ++ leBytes 4 c.group ++ leBytes 8 c.pc.toNat)).advance (.bkpt m f) c)) ∧
    ((∀ d, s1.vdev? (s1.vdevOf c.team) = some d → d.debugger = false) ∨ (s1.group c.team c.group).trap ≠ none → exec (.bkpt m f) s =
      .next (s.takeFault c (0x03, 4) { cls := 17, mask := c.act }))) ∧
  (∀ (m : Mods) (f : RForm) s c s1, Ready s (.mdone m f) c s1 →
    (s1.onlyHelpers c = true → ∃ t, exec (.mdone m f) s = .next t ∧ Computed s1 t (.mdone m f) c 0 fun _ => {}) ∧
    (∀ h, s1.onlyHelpers c = false → (s1.group c.team c.group).handler = some h → h.running = true → bits (s1.rdS c f.a.toNat) 4 28 = 0 →
      exec (.mdone m f) s = .next { (((s1.modGroup c.team c.group fun g =>
        { g.endHandler with desc := some (s1.rdS c f.a.toNat, s1.rdS c (f.a.toNat + 1)) }).modTeam c.team
          (Team.unframeTwins c.group)).settle c) with cur := some { c with out := .ended } }) ∧
    (s1.onlyHelpers c = false →
      (∀ h, (s1.group c.team c.group).handler = some h → h.running = false ∨ bits (s1.rdS c f.a.toNat) 4 28 ≠ 0) →
      exec (.mdone m f) s = .next (s.takeFault c (0x03, 6) { cls := 1, mask := c.act }))) ∧
  (∀ (m : Mods) (f : RForm) s c s1, Ready s (.invd m f) c s1 →
    (m.clsField 0 3 = 3 → exec (.invd m f) s = .next (s.takeFault c (0x03, 7) { cls := 4, mask := c.act })) ∧
    (m.clsField 0 3 ≠ 3 → s1.unblocked c (s1.fenceConds c .device).1 (s1.fenceConds c .device).2 →
      exec (.invd m f) s = .next (((s1.fenceRefresh c .device).discard c (m.clsField 0 3)).advance (.invd m f) c))) ∧
  (∀ (m : Mods) (f : RForm) s c s1, Ready s (.tret m f) c s1 →
    ((s1.group c.team c.group).trap = none → exec (.tret m f) s = .next (s.takeFault c (0x03, 5) { cls := 1, mask := c.act })) ∧
    (∀ st, (s1.group c.team c.group).trap = some st → ∃ ret : Group → Group, exec (.tret m f) s =
        .next { (((s1.recall c.team c.group st.mask).modGroup c.team c.group ret).settle c) with cur := some { c with out := .ended } } ∧
      ∀ g : Group, ret g = { g with trap := none, runPos := 0, lanes := (ret g).lanes } ∧
       ∀ l < 32,
        let ln := { rd g.lanes l with
          trapHeld := false
          held := (rd g.lanes l).held && !inMask st.mask l, flying := (rd g.lanes l).flying && !inMask st.mask l }
        rd (ret g).lanes l =
          if bits g.frec.w0 0 8 = 16 ∨ bits g.frec.w0 0 8 = 17 then (if inMask st.mask l then ln.goto st.next else ln)
          else if m.clsBit 0 then (if inMask st.mask l ∨ inMask st.act l then ln.goto st.next else ln)
          else if inMask st.mask l then { ln with pc := g.frec.pc, repi := bits g.frec.w0 17 6, wait := none } else ln))

end Faults

section Floats

/-- The arithmetic, conversion, packing, dot-product and function instructions complete and write vD (SINCOS also vD+1) of every
guarded lane with the word of their entry, computed with the lane's mode, flush and generator position; the flags they set are
added to xfpstat, and nothing else changes. -/
def Obligations.FloatsComplete : Prop :=
  (∀ p ∈ floatOps, ∀ (m : Mods) (f : RForm), SetsFp (p.2 m f) f.g (fun c => (f.at m c.rep).d.toNat) fun s c l =>
    p.1.word (s.fpEnv c m l) m.ty (vreg s c l (f.at m c.rep).a) (vreg s c l (f.at m c.rep).b) (vreg s c l (f.at m c.rep).d)
      { pos := posOf s c l }) ∧
  (∀ p ∈ halfFloats, ∀ f : HForm, SetsFp (p.2 f) 0 (fun _ => f.d.toNat) fun s c l =>
    p.1.word (s.fpEnv c {} l) .w32 (s.rdV c.team c.group l f.d.toNat) (s.rdV c.team c.group l f.s.toNat)
      (s.rdV c.team c.group l f.d.toNat) { pos := posOf s c l }) ∧
  (∀ p ∈ [(cvtRound, Instr.cvt), (cvtToInt, Instr.cvti), (cvtFromInt, Instr.cvtf)], ∀ (m : Mods) (f : RForm),
    SetsFp (p.2 m f) f.g (fun c => (f.at m c.rep).d.toNat) fun s c l =>
      cvtWord p.1 (s.fpEnv c m l) m.ty (cvtSrc (m.clsField 1 4)) (f.at m c.rep).b.toNat (vreg s c l (f.at m c.rep).a)
        (vreg s c l (f.at m c.rep).d) { pos := posOf s c l }) ∧
  (∀ p ∈ [(Ty.f16, Instr.dot2), (Ty.e4m3, Instr.dot4), (Ty.e2m1, Instr.dot8)], ∀ (m : Mods) (f : RForm),
    SetsFp (p.2 m f) f.g (fun c => (f.at m c.rep).d.toNat) fun s c l =>
      dotWord (s.fpEnv c m l) (m.ty p.1) (vreg s c l (f.at m c.rep).a) (vreg s c l (f.at m c.rep).b)
        (vreg s c l (f.at m c.rep).d) { pos := posOf s c l }) ∧
  (∀ p ∈ floatFns, ∀ (m : Mods) (f : RForm), SetsFp (p.2 m f) f.g (fun c => (f.at m c.rep).d.toNat) fun s c l =>
    let v := s.fpEnv c m l
    let r := p.1 v (v.read .w32 (vreg s c l (f.at m c.rep).a) 0)
    let w := v.round (fmtOf .w32) { pos := posOf s c l, flags := r.2 } r.1
    (BitVec.ofNat 32 w.1, w.2)) ∧
  (∀ (m : Mods) (f : RForm), SetsV (.rcpa m f) f.g (fun c => (f.at m c.rep).d.toNat) fun s c l =>
    BitVec.ofNat 32 (rcpaWord (vreg s c l (f.at m c.rep).a).toNat)) ∧
  (∀ (m : Mods) (f : RForm) s c s1, Ready s (.sincos m f) c s1 → (f.at m c.rep).d.toNat + 2 ≤ 64 →
    ∃ t, exec (.sincos m f) s = .next t ∧ Computed s1 t (.sincos m f) c (s1.guarded c f.g) fun l =>
      let v := s1.fpEnv c m l
      let w := sincosWords v (v.read .w32 (vreg s1 c l (f.at m c.rep).a) 0) { pos := posOf s1 c l }
      { v := [((f.at m c.rep).d.toNat, BitVec.ofNat 32 w.1.1), ((f.at m c.rep).d.toNat + 1, BitVec.ofNat 32 w.1.2)]
        other := fun ln => { ln with rngPos := w.2.pos, fpstat := ln.fpstat ||| w.2.flags } })

/-- PACK puts the low bits of vA into sub-element q of vD and leaves the others; UNPK writes sub-element q of vA, zero-extended; FSET
sets its predicates by a condition that must hold in every sub-element, of which only NE and UN hold on a NaN. They set no flag. That a predicate
named in both parts of a destination takes one value, the same in every lane, which is free, is the model's choice (log entry 8, DEDUCED). -/
def Obligations.PackUnpackCompare : Prop :=
  (∀ (m : Mods) (f : RForm), ∃ val, SetsV (.pack m f) f.g (fun c => (f.at m c.rep).d.toNat) val ∧
    ∀ s c l, (f.at m c.rep).b.toNat < m.ty.count → ∀ k < m.ty.count, sub m.ty (val s c l) k =
      if k = (f.at m c.rep).b.toNat then (vreg s c l (f.at m c.rep).a).toNat % 2 ^ m.ty.width else sub m.ty (vreg s c l (f.at m c.rep).d) k) ∧
  (∀ (m : Mods) (f : RForm), SetsV (.unpk m f) f.g (fun c => (f.at m c.rep).d.toNat) fun s c l =>
    BitVec.ofNat 32 (sub m.ty (vreg s c l (f.at m c.rep).a) (f.at m c.rep).b.toNat)) ∧
  (∀ (m : Mods) (f : RForm), m.ty ∈ fpTys → m.clsField 1 3 ≤ 7 → ∃ bit, SetsP (.fset m f) f.g (fun c => (f.at m c.rep).d) bit ∧
    ∀ s c l, (bit s c l = true ↔ ∀ k < m.ty.count,
      let a := (s.fpEnv c m l).read m.ty (vreg s c l (f.at m c.rep).a) k
      let b := (s.fpEnv c m l).read m.ty (vreg s c l (f.at m c.rep).b) k
      if a = .nan ∨ b = .nan then m.clsField 1 3 = 1 ∨ m.clsField 1 3 = 6
      else match m.clsField 1 3 with
        | 0 => a.eqv b = true | 1 => a.eqv b = false | 2 => a.lt b = true | 3 => a.lt b = true ∨ a.eqv b = true | 4 => b.lt a = true
        | 5 => b.lt a = true ∨ b.eqv a = true | 6 => False | _ => True))

/-- Rounding an exact value that a format holds gives its encoding and no flag, in every mode and whatever word is drawn.
The special cases of the arithmetic: a NaN operand of a sum, product or FMA gives the canonical NaN, and so does an infinity minus
itself or 0 times an infinity, with IV; FMIN and FMAX take the other input where one is NaN, order -0 below +0 and set no flag;
FCLASS sets exactly one of nine bits; a word is drawn only under RS. -/
def Obligations.RoundingAndSpecialCases : Prop :=
  (∀ (t : Ty) (mode : Rnd) (sat : Bool) (w : Word) (x : Nat) (s : Bool) (n d : Nat), t ∈ floatTys →
    x < 2 ^ ((fmtOf t).e + (fmtOf t).f + 1) → widen (fmtOf t) x = .fin s n d → roundTo (fmtOf t) mode sat false w (.fin s n d) = (x, 0)) ∧
  (∀ (v : FpEnv) (t : Ty) (a b d : Word) (j : Nat) (e : Eff), t ∈ fpTys →
    let F := fmtOf t
    let x := v.read t a j
    let y := v.read t b j
    (∀ o : FpOp, o = .plus ∨ o = .minus ∨ o = .times ∨ o = .fma → (x = .nan ∨ y = .nan) → (o.elem v t a b d j e).1 = F.canon) ∧
    (∀ s, x = .inf s → y = .inf (!s) → (FpOp.plus.elem v t a b d j e).1 = F.canon ∧
      (FpOp.plus.elem v t a b d j e).2.flags &&& flagIV = flagIV) ∧
    (∀ s q r, x = .inf s → y = .fin q 0 r → (FpOp.times.elem v t a b d j e).1 = F.canon ∧
      (FpOp.times.elem v t a b d j e).2.flags &&& flagIV = flagIV) ∧
    (∀ o : FpOp, o = .least ∨ o = .most → (o.elem v t a b d j e).2.flags = e.flags ∧
      (y = .nan → x ≠ .nan → (o.elem v t a b d j e).1 = flushIn v.ftz t (sub t a j)) ∧
      (x = .nan → y ≠ .nan → (o.elem v t a b d j e).1 = flushIn v.ftz t (sub t b j)) ∧
      (x = .nan → y = .nan → (o.elem v t a b d j e).1 = F.canon)) ∧
    (∀ r q, x = .fin true 0 r → y = .fin false 0 q →
      (FpOp.least.elem v t a b d j e).1 = flushIn v.ftz t (sub t a j) ∧ (FpOp.most.elem v t a b d j e).1 = flushIn v.ftz t (sub t b j)) ∧
    (∃ k < 9, (FpOp.fclass.elem v t a b d j e).1 = 2 ^ k) ∧
    (∀ o : FpOp, v.mode ≠ .rs → (o.elem v t a b d j e).2.pos = e.pos))

/-- The generator instructions complete: RNGKEY takes eight uniform registers as the group's key, RNGPOS sets each guarded lane's
position, with the upper lanes' offset unless it is .ABS, or the group's stream, RNG, RNGF and RNGN write vD from the words that the
lane draws, of which RNG and RNGF draw one for each element, and nothing else changes. That RNGKEY writes the key in a splinter of helper
lanes only too is the model's choice (log entry 23). -/
def Obligations.GeneratorsComplete : Prop :=
  (∀ (m : Mods) (f : RForm), Completes (.rngkey m f) fun s c t =>
    t = (s.modGroup c.team c.group fun g => { g with rngKey := (List.range 8).map fun k => s.rdS c ((f.at m c.rep).a.toNat + k) }).advance
      (.rngkey m f) c) ∧
  (∀ (m : Mods) (f : RForm), m.clsBit 1 = false → Completes (.rngpos m f) fun s c t =>
    Computed s t (.rngpos m f) c (s.guarded c f.g) fun l => { other := fun ln =>
      { ln with rngPos := (vreg s c l (f.at m c.rep).b ++ vreg s c l (f.at m c.rep).a : BitVec 64) +
          (if m.clsBit 0 = false ∧ 16 ≤ l then BitVec.ofNat 64 (l / 16 * 2 ^ 40) else 0) } }) ∧
  (∀ (m : Mods) (f : RForm), m.clsBit 1 = true → Completes (.rngpos m f) fun s c t =>
    t = (if s.guarded c f.g = 0 then s else s.modGroup c.team c.group fun g => { g with rngStream :=
      (vreg s c (lowest (s.guarded c f.g)) (f.at m c.rep).b ++ vreg s c (lowest (s.guarded c f.g)) (f.at m c.rep).a : BitVec 64) }).advance
        (.rngpos m f) c) ∧
  (∀ (m : Mods) (f : RForm), Completes (.rng m f) fun s c t =>
    Computed s t (.rng m f) c (s.guarded c f.g) fun l =>
      { v := [((f.at m c.rep).d.toNat, rd (chachaBlock (s.group c.team c.group).rngKey (posOf s c l) (s.group c.team c.group).rngStream) (l % 16))]
        other := fun ln => { ln with rngPos := posOf s c l + 1 } }) ∧
  (∀ (m : Mods) (f : RForm), Completes (.rngf m f) fun s c t => ∃ w : Nat → Word,
    (Computed s t (.rngf m f) c (s.guarded c f.g) fun l =>
      { v := [((f.at m c.rep).d.toNat, w l)], other := fun ln => { ln with rngPos := posOf s c l + BitVec.ofNat 64 m.ty.count } }) ∧
    ∀ l, ∀ k < m.ty.count, ∃ q : Word, q = rd (chachaBlock (s.group c.team c.group).rngKey (posOf s c l + BitVec.ofNat 64 k)
        (s.group c.team c.group).rngStream) (l % 16) ∧
      (m.ty ∈ fpTys → (let b := if m.ty = .f16 then 11 else if m.ty = .bf16 then 8 else 24
        (widen (fmtOf m.ty) (sub m.ty (w l) k)).eqv (.fin false (q.toNat / 2 ^ (32 - b)) (2 ^ b)) = true))) ∧
  (∀ (m : Mods) (f : RForm), Completes (.rngn m f) fun s c t => ∃ (w : Nat → Word) (pos : Nat → BitVec 64),
    (Computed s t (.rngn m f) c (s.guarded c f.g) fun l =>
      { v := [((f.at m c.rep).d.toNat, w l)], other := fun ln => { ln with rngPos := pos l } }) ∧
    ∀ l, pos l = posOf s c l + (if (fpModeOf {} (s.lane c.team c.group l).fpctl).1 = .rs then 3 else 2) ∧
      ((fpModeOf {} (s.lane c.team c.group l).fpctl).1 ≠ .rs → w l = BitVec.ofNat 32
        (roundTo (fmtOf .w32) (fpModeOf {} (s.lane c.team c.group l).fpctl).1 false false 0
          (rngnVal (s.gen c l) { pos := posOf s c l }).1).1))

end Floats

section Moments

/-- MADD, MSUB, MMUL, MSCL, MSAMP, MRELU and MEXP complete where no guarded lane reads a variance that it may not: each guarded lane's
mD takes the mean and the variance of its rule, the exact mean rounded first and then the exact variance, which is never written below zero
(for MEXP an infinite mean follows the steps of R169: the model's choice, log entry 112), its flags go to xmstat and never to xfpstat, it draws two words under RS, and
nothing else changes; where a guarded lane does read one, they take a negative-variance fault that names exactly those lanes, before
any effect (which lanes those are where CLAMP comes lane by lane from xmmode is the model's choice, log entry 114). MSAMP with n = 0 neither reads nor tests mD and writes the variance +0. MCOL completes and faults likewise; it writes vD,
with selector 0 the mean and with selector 1 a variance not below zero. MMOV copies a moment bit for bit; MSPL writes the mean and the
variance to a pair of registers; MSPL.J joins a pair, faults on a negative variance or, under .C, makes it +0 and sets CL; MMODE sets
xmmode and clears xmstat where it is asked to. Each completes and changes nothing else. -/
def Obligations.MomentInstructionsComplete : Prop :=
  MomentCompletes .madd readsAB (valueMadd false) ∧ MomentCompletes .msub readsAB (valueMadd true) ∧
  MomentCompletes .mmul readsAB valueMmul ∧ MomentCompletes .mscl readsA valueMscl ∧ MomentCompletes .mrelu readsA valueMrelu ∧
  MomentCompletes .mexp readsA valueMexp ∧ MomentCompletes .msamp readsSample valueMsamp ∧
  (∀ (m : Mods) (f : RForm) s c s1 t, Ready s (.msamp m f) c s1 → exec (.msamp m f) s = .next t →
    (∀ l < 32, inMask (s1.guarded c f.g) l = true → ∀ x ∈ readsSample s1 c (f.at m c.rep) l, ¬ badVariance s1 c m l x) →
    ∀ l < 32, inMask (s1.guarded c f.g) l = true → vreg s1 c l (f.at m c.rep).b = 0 →
      (rd (t.lane c.team c.group l).m (f.at m c.rep).d.toNat).var = 0) ∧
  (∀ (m : Mods) (f : RForm) s c s1, Ready s (.mcol m f) c s1 →
    (∀ l < 32, inMask (s1.guarded c f.g) l = true → ¬ badVariance s1 c m l (mreg s1 c l (f.at m c.rep).a)) →
    ∃ t, exec (.mcol m f) s = .next t ∧ ∃ (w : Nat → Word) (pos : Nat → BitVec 64) (flags : Nat → Word),
      (Computed s1 t (.mcol m f) c (s1.guarded c f.g) fun l => { v := [((f.at m c.rep).d.toNat, w l)], other := fun ln =>
        { ln with rngPos := pos l, mstat := ln.mstat ||| flags l } }) ∧
      ∀ l, (m.x = none ∨ m.clsField 2 3 = 0 → (w l).toNat =
          flushIn (fpModeOf m (s1.lane c.team c.group l).fpctl).2 .w32 (mreg s1 c l (f.at m c.rep).a).mean.toNat) ∧
        (m.x ≠ none → m.clsField 2 3 = 1 → isNegVar (f32 (w l).toNat) = false)) ∧
  (∀ (m : Mods) (f : RForm), BadVarianceFaults (.mcol m f) m f readsA) ∧
  (∀ (m : Mods) (f : RForm), Completes (.mmov m f) fun s c t => Computed s t (.mmov m f) c (s.guarded c f.g) fun l =>
    { other := fun ln => { ln with m := wr ln.m (f.at m c.rep).d.toNat (mreg s c l (f.at m c.rep).a) } }) ∧
  (∀ (m : Mods) (f : RForm) s c s1, m.clsBit 0 = false → Ready s (.mspl m f) c s1 → (f.at m c.rep).d.toNat + 2 ≤ 64 →
    ∃ t, exec (.mspl m f) s = .next t ∧ Computed s1 t (.mspl m f) c (s1.guarded c f.g) fun l =>
      { v := [((f.at m c.rep).d.toNat, (mreg s1 c l (f.at m c.rep).a).mean), ((f.at m c.rep).d.toNat + 1, (mreg s1 c l (f.at m c.rep).a).var)] }) ∧
  (∀ (m : Mods) (f : RForm) s c s1, m.clsBit 0 = true → Ready s (.mspl m f) c s1 →
    let neg (l : Nat) : Bool := isNegVar (f32 (vreg s1 c l (f.at m c.rep).b).toNat)
    ((∀ l < 32, inMask (s1.guarded c f.g) l = true → neg l = true → m.clsBit 1 = true) →
      ∃ t, exec (.mspl m f) s = .next t ∧ Computed s1 t (.mspl m f) c (s1.guarded c f.g) fun l => { other := fun ln =>
        { ln with
          m := wr ln.m (f.at m c.rep).d.toNat
            { mean := vreg s1 c l (f.at m c.rep).a, var := if neg l then 0 else vreg s1 c l (f.at m c.rep).b }
          mstat := if neg l then ln.mstat ||| 16 else ln.mstat } }) ∧
    (m.clsBit 1 = false → (∃ l < 32, inMask (s1.guarded c f.g) l = true ∧ neg l = true) →
      ∃ mask, exec (.mspl m f) s = .next (s.takeFault c (0x1B, 1) { cls := 8, mask := mask }) ∧
        ∀ l < 32, (inMask mask l = true ↔ inMask (s1.guarded c f.g) l = true ∧ neg l = true))) ∧
  (∀ (m : Mods) (f : RForm), Completes (.mmode m f) fun s c t => Computed s t (.mmode m f) c (s.guarded c f.g) fun _ =>
    { other := fun ln => { ln with mmode := BitVec.setWidth 32 (f.at m c.rep).b, mstat := if m.clsBit 0 then 0 else ln.mstat } })

end Moments

section Memory

/-- Where every guarded lane's address is aligned, mapped and readable, no line of it is owned by an engine entry, and the view can give
it, LD completes: vD of each guarded lane takes the bytes of its own address, as the group's store queue, the view, the phase image
and the commons give them, sub-words extended to the whole register; MLD takes eight bytes as a mean and a variance, testing the
variance; PREF has no effect. -/
def Obligations.LoadsComplete : Prop :=
  (∀ (m : Mods) (f : RForm) s c s1 (pa : Nat → Nat), isSize m → Ready s (.ld m f) c s1 → s1.unblocked c [] [] →
    let size := sizeBytes (m.clsField 0 3)
    let deep := ordAcq (m.orderD .plain) && scopeWide (m.scopeD .group)
    let g := s1.guarded c f.g
    (∀ l < 32, inMask g l = true → Reaches s1 c .read size (s1.address c m (f.at m c.rep) size l) (pa l) ∧
      s1.owned (.mem (lineOf (pa l))) = false ∧ (deep = true ∨ viewable s1 c (lineOf (pa l)))) →
    let s2 := s1.loadPrep c.team deep ((lanesOf g).map fun l => lineOf (pa l)).eraseDups
    exec (.ld m f) s = .next (((if deep then s2.dropClean c.core else s2).applyFx c.team c.group g fun l =>
      { v := vWrites (f.at m c.rep).d.toNat (loadedWords size (m.clsBit 3)
        ((List.range size).map fun o => s2.loadByte c.team c.group l deep (pa l + o))) }).advance (.ld m f) c)) ∧
  (∀ (m : Mods) (f : RForm) s c s1 (pa : Nat → Nat), Ready s (.mld m f) c s1 → s1.unblocked c [] [] →
    let deep := ordAcq (m.orderD .plain) && scopeWide (m.scopeD .group)
    let g := s1.guarded c f.g
    (∀ l < 32, inMask g l = true → Reaches s1 c .read 8 (s1.address c m (f.at m c.rep) 8 l) (pa l) ∧
      s1.owned (.mem (lineOf (pa l))) = false ∧ (deep = true ∨ viewable s1 c (lineOf (pa l)))) →
    let s2 := s1.loadPrep c.team deep ((lanesOf g).map fun l => lineOf (pa l)).eraseDups
    let word (l k : Nat) : Word := rd (wordsOf 2 ((List.range 8).map fun o => s2.loadByte c.team c.group l deep (pa l + o))) k
    let neg (l : Nat) : Bool := isNegVar (f32 (word l 1).toNat)
    (∀ l < 32, inMask g l = true → neg l = true →
      (match m.x with | some _ => m.clsBit 3 | none => (s1.lane c.team c.group l).mmode.getLsbD 2) = true) →
    exec (.mld m f) s = .next (((if deep then s2.dropClean c.core else s2).applyFx c.team c.group g fun l => { other := fun ln =>
      { ln with m := wr ln.m (f.at m c.rep).d.toNat { mean := word l 0, var := if neg l then 0 else word l 1 }
                mstat := if neg l then ln.mstat ||| 16 else ln.mstat } }).advance (.mld m f) c)) ∧
  (∀ (m : Mods) (f : RForm), Completes (.pref m f) fun s c t => Computed s t (.pref m f) c 0 fun _ => {})

/-- Where every storing lane's address is aligned, mapped and writable and the queue has room, ST and MST complete: one entry with each
lane's bytes at its own address joins the group's store queue, and no byte of memory has changed yet; with no storing lane they have
no effect.
A load reads the group's own youngest store to a byte, before it is performed, and another address as it stood. -/
def Obligations.StoresCompleteAndAreSeen : Prop :=
  (∀ (m : Mods) (f : RForm) s c s1 (pa : Nat → Nat), isSize m → Ready s (.st m f) c s1 →
    let size := sizeBytes (m.clsField 0 3)
    let ls := (lanesOf (s1.guarded c f.g)).filter fun l => !(s1.lane c.team c.group l).helper
    (∀ l ∈ ls, Reaches s1 c .write size (s1.address c m (f.at m c.rep) size l) (pa l)) →
    (ls ≠ [] → s1.unblocked c [] [] → (s1.group c.team c.group).sq.length < 32 → ∃ t, exec (.st m f) s = .next t ∧
      t = (s1.enqueue c.team c.group false size m (m.orderD .plain) (m.scopeD .group) 0 (ls.map fun l =>
        { lane := l, addr := s1.address c m (f.at m c.rep) size l, phys := pa l
          data := s1.storeBytes c (f.at m c.rep).d.toNat size l, home := s1.homeOf c.team c.group l })).advance (.st m f) c ∧
      ∀ a, Memory.get t.mem a = Memory.get s1.mem a) ∧
    (ls = [] → ∃ t, exec (.st m f) s = .next t ∧ Computed s1 t (.st m f) c 0 fun _ => {})) ∧
  (∀ (m : Mods) (f : RForm) s c s1 (pa : Nat → Nat), Ready s (.mst m f) c s1 →
    let ls := (lanesOf (s1.guarded c f.g)).filter fun l => !(s1.lane c.team c.group l).helper
    (∀ l ∈ ls, Reaches s1 c .write 8 (s1.address c m (f.at m c.rep) 8 l) (pa l)) →
    (ls ≠ [] → s1.unblocked c [] [] → (s1.group c.team c.group).sq.length < 32 → ∃ t, exec (.mst m f) s = .next t ∧
      t = (s1.enqueue c.team c.group false 8 m (m.orderD .plain) (m.scopeD .group) 0 (ls.map fun l =>
        { lane := l, addr := s1.address c m (f.at m c.rep) 8 l, phys := pa l
          data := bytesOf [(mreg s1 c l (f.at m c.rep).d).mean, (mreg s1 c l (f.at m c.rep).d).var]
          home := s1.homeOf c.team c.group l })).advance (.mst m f) c ∧
      ∀ a, Memory.get t.mem a = Memory.get s1.mem a) ∧
    (ls = [] → ∃ t, exec (.mst m f) s = .next t ∧ Computed s1 t (.mst m f) c 0 fun _ => {})) ∧
  (∀ (s : State) (tm g lane size link : Nat) (m : Mods) (o : Order) (sc : Scope) (deep : Bool) (slot : SqSlot) (a : Nat),
    s.team? tm ≠ none →
    let t := s.enqueue tm g false size m o sc link [slot]
    (slot.phys ≤ a → a < slot.phys + slot.data.length →
      (link ≤ 1 ∨ ∀ e ∈ (s.group tm g).sq, ∀ q ∈ e.slots, q.lane ≤ slot.lane) → t.loadByte tm g lane deep a = rd slot.data (a - slot.phys)) ∧
    (a < slot.phys ∨ slot.phys + slot.data.length ≤ a → t.loadByte tm g lane deep a = s.loadByte tm g lane deep a) ∧
    (∀ x, Memory.get t.mem x = Memory.get s.mem x))

/-- Scratchpad loads and stores complete where every offset is aligned and inside the carve-out: LDS takes each byte from the group's own
youngest scratchpad store or from the scratchpad, STS queues each lane's bytes at its own offset. -/
def Obligations.ScratchpadComplete : Prop :=
  (∀ (m : Mods) (f : RForm) s c s1, isSize m → Ready s (.lds m f) c s1 → s1.unblocked c [] [] →
    let size := sizeBytes (m.clsField 0 3)
    let off (l : Nat) : Int := ((vreg s1 c l (f.at m c.rep).a).toNat : Int) + elemOff m (f.at m c.rep).b * size
    (f.at m c.rep).d.toNat + (size + 3) / 4 ≤ 64 →
    (∀ l < 32, inMask (s1.guarded c f.g) l = true → off l % size = 0 ∧ 0 ≤ off l ∧ off l < s1.carve c.team ∧
      ∀ k ∈ spKeys c.team (off l).toNat size, s1.owned k = false) →
    ∃ t, exec (.lds m f) s = .next t ∧ Computed s1 t (.lds m f) c (s1.guarded c f.g) fun l =>
      { v := vWrites (f.at m c.rep).d.toNat (loadedWords size (m.clsBit 3) ((List.range size).map fun o =>
        (sqByte (s1.group c.team c.group).sq true ((off l).toNat + o)).getD (s1.spByte c.team ((off l).toNat + o)))) }) ∧
  (∀ (m : Mods) (f : RForm) s c s1, isSize m → Ready s (.sts m f) c s1 →
    let size := sizeBytes (m.clsField 0 3)
    let off (l : Nat) : Int := ((vreg s1 c l (f.at m c.rep).a).toNat : Int) + elemOff m (f.at m c.rep).b * size
    let ls := (lanesOf (s1.guarded c f.g)).filter fun l => !(s1.lane c.team c.group l).helper
    (∀ l ∈ ls, off l % size = 0 ∧ 0 ≤ off l ∧ off l < s1.carve c.team) →
    (ls ≠ [] → s1.unblocked c [] [] → (s1.group c.team c.group).sq.length < 32 → ∃ t, exec (.sts m f) s = .next t ∧
      t = (s1.enqueue c.team c.group true size m .plain .group 0 (ls.map fun l =>
        { lane := l, addr := BitVec.ofInt 64 (off l), phys := (off l).toNat
          data := s1.storeBytes c (f.at m c.rep).d.toNat size l })).advance (.sts m f) c ∧
      (∀ a, Memory.get t.mem a = Memory.get s1.mem a) ∧ (∀ tm a, t.spByte tm a = s1.spByte tm a)) ∧
    (ls = [] → ∃ t, exec (.sts m f) s = .next t ∧ Computed s1 t (.sts m f) c 0 fun _ => {}))

/-- Translation: an address that is not canonical is a protection fault, a page without a valid mapping a translation fault, and a mapped
page is reached at its physical page and the same offset when its permissions allow the access; a fetch needs the execute map and
no permission. A reserved range of the physical map, the on-chip window, a page of another partition and one of a context pool are protection
faults.
A misaligned address in any acting lane of LD or ST is a misalignment fault, before every other test of the access: its mask holds
exactly the misaligned lanes, its address is that of the lowest of them, and KIND tells a read from a write.
The on-chip window holds each core's register file, closure store, scratchpad and twin windows and each cluster's 32 tiles at their
places, and every other address is reserved. That any virtual device may reach a page of which the ownership table knows no owner is the
model's choice (log entry 29). Every line has one of the 256 slices for its home, an HBM4E line one of the die whose
stack holds it, 4 KiB granule n lying in stack n mod 12 (that die d has slices 64d to 64d + 63 is the model's reading, log entry 82). -/
def Obligations.AddressesAndTheirFaults : Prop :=
  (∀ (s : State) (v : Nat) (va : VAddr) (a : Access),
    (va ≠ BitVec.signExtend 64 (va.extractLsb' 0 56) → s.translate v va a = .error 4) ∧
    (va = BitVec.signExtend 64 (va.extractLsb' 0 56) →
      (s.vdev? v = none → s.translate v va a = .error 3) ∧
      (∀ d, s.vdev? v = some d → d.page? (pageOf va) = none → s.translate v va a = .error 3) ∧
      (∀ d pp p, s.vdev? v = some d → d.page? (pageOf va) = some (pp, p) →
        let pa := pp * 65536 + va.toNat % 65536
        ((physKind pa = .reserved ∨ physKind pa = .window) → s.translate v va a = .error 4) ∧
        ((∃ o, s.pageOwner pp = some o ∧ o ≠ .part d.cfg.part) ∨ s.poolPage pp = true → s.translate v va a = .error 4) ∧
        ((physKind pa = .hbm ∨ physKind pa = .lpddr) → s.pageOwner pp = none ∨ s.pageOwner pp = some (.part d.cfg.part) → s.poolPage pp = false →
          s.translate v va a = if (match a with
            | .read => p.r | .write => p.w | .rmw => p.r && p.w | .fetch => d.exec.contains pp) then .ok pa else .error 4)))) ∧
  (∀ (m : Mods) (f : RForm) (s : State) (c : Cur) (s1 : State),
    let size := sizeBytes (m.clsField 0 3)
    let va (l : Nat) : VAddr := s1.address c m (f.at m c.rep) size l
    (Ready s (.ld m f) c s1 → (∃ l < 32, inMask (s1.guarded c f.g) l = true ∧ (va l).toNat % size ≠ 0) →
      ∃ mask, (∀ l < 32, inMask mask l = true ↔ inMask (s1.guarded c f.g) l = true ∧ (va l).toNat % size ≠ 0) ∧
        exec (.ld m f) s = .next (s.takeFault c (0x16, 0) { cls := 6, mask := mask, kind := 1, va := va (lowest mask) })) ∧
    (Ready s (.st m f) c s1 → (∃ l < 32, stores s1 c f.g l ∧ (va l).toNat % size ≠ 0) →
      ∃ mask, (∀ l < 32, inMask mask l = true ↔ stores s1 c f.g l ∧ (va l).toNat % size ≠ 0) ∧
        exec (.st m f) s = .next (s.takeFault c (0x16, 1) { cls := 6, mask := mask, kind := 2, va := va (lowest mask) }))) ∧
  (∀ k o : Nat, k < 640 → let b := winBase + k * 0x1000000
    (o < 0x80000 → winPart (b + o) = some (.regs k o)) ∧ (o < 0x30000 → winPart (b + 0x100000 + o) = some (.closures k o)) ∧
    (o < 0x80000 → winPart (b + 0x200000 + o) = some (.scratch k o)) ∧ (o < 0x10000 → winPart (b + 0x300000 + o) = some (.twins k o))) ∧
  (∀ j t o : Nat, j < 160 → t < 32 → o < 65536 → winPart (winBase + 0x400000000 + j * 0x400000 + t * 65536 + o) = some (.tile j t o)) ∧
  (∀ a : Nat, winPart a ≠ none → (∃ j < 160, winBase + 0x400000000 + j * 0x400000 ≤ a ∧ a < winBase + 0x400000000 + j * 0x400000 + 0x200000) ∨
    ∃ k < 640, ∃ p ∈ [(0, 0x80000), (0x100000, 0x30000), (0x200000, 0x80000), (0x300000, 0x10000)],
      winBase + k * 0x1000000 + p.1 ≤ a ∧ a < winBase + k * 0x1000000 + p.1 + p.2) ∧
  (∀ x : Nat, homeSlice x < 256 ∧ (128 * x < 0xC000000000 → homeSlice x / 64 = 128 * x / 4096 % 12 / 3))

/-- What an atomic computes from the old value and its operand: the sum modulo its width, the smaller or larger as signed or unsigned
numbers, the bitwise results, the operand, and for a compare-and-swap the operand where the old value is the compared one.
One lane's step of an atomic outside deterministic launches and format regions: it answers the old value of its bytes, which become
the operation's result in the same step, and no other byte changes. -/
def Obligations.AtomicSteps : Prop :=
  (∀ size old b : Nat, (size = 4 ∨ size = 8) → old < 2 ^ (8 * size) → b < 2 ^ (8 * size) →
    let int (x : Nat) : Int := if x < 2 ^ (8 * size - 1) then x else (x : Int) - 2 ^ (8 * size)
    (∀ s, (AtomOp.add s).apply size old b < 2 ^ (8 * size) ∧ (2 ^ (8 * size) : Int) ∣ (AtomOp.add s).apply size old b - (old + b)) ∧
    int ((AtomOp.min true).apply size old b) = min (int old) (int b) ∧ int ((AtomOp.max true).apply size old b) = max (int old) (int b) ∧
    (AtomOp.min false).apply size old b = min old b ∧ (AtomOp.max false).apply size old b = max old b ∧
    AtomOp.and.apply size old b = old &&& b ∧ AtomOp.or.apply size old b = old ||| b ∧ AtomOp.xor.apply size old b = old ^^^ b ∧
    AtomOp.xchg.apply size old b = b ∧ (∀ k, (AtomOp.cas k).apply size old b = if old = k then b else old)) ∧
  (∀ (s : State) (tm g lane pa size : Nat) (o : AtomOp) (b : Nat), (s.launchOf tm).lrec.det = false →
    s.regionOf (lineOf pa) = none → s.packedOver (lineOf pa) = [] → s.Inv →
    let r := s.atomStep tm g lane pa size o b
    r.2 = leNat (Memory.read s.mem pa size) ∧
    (∀ a, Memory.get r.1.mem a = if pa ≤ a ∧ a < pa + size then rd (leBytes size (o.apply size r.2 b)) (a - pa) else Memory.get s.mem a))

/-- Where the store queue is empty, every acting lane's address is aligned and permits reading and writing, no such line is owned or
holds an unpropagated write in the view, and a release's conditions hold, ATOM, CAS and RED complete: the lanes' steps happen in
increasing lane number, and vD takes the old value; with no acting lane they have no effect. -/
def Obligations.AtomicsComplete : Prop :=
  ∀ (m : Mods) (f : RForm) (s : State) (c : Cur) (s1 : State) (pa : Nat → Nat),
    let ls := (lanesOf (s1.guarded c f.g)).filter fun l => !(s1.lane c.team c.group l).helper
    let can (size : Nat) (o : Order) : Prop := (s1.group c.team c.group).sq = [] ∧
      s1.unblocked c (if ordRel o then releaseConds (m.scopeD .device) ++ s1.fabSnap c.team c.group (m.scopeD .device) else []) [] ∧
      ∀ l ∈ ls, Reaches s1 c .rmw size (s1.pairV c l (f.at m c.rep).a.toNat) (pa l) ∧ s1.owned (.mem (lineOf (pa l))) = false ∧
        ((s1.core (s1.coreOf c.team)).line (lineOf (pa l))).pend = []
    let after (size : Nat) (op : Nat → AtomOp) (b : Nat → Nat) (o : Order) : State × List (Nat × Nat) :=
      let q := atomicSteps s1 c ls pa size op b
      (if ordAcq o then q.1.acquire c.core (m.scopeD .device) else q.1, q.2)
    let old (size : Nat) (q : State × List (Nat × Nat)) : State := q.1.applyFx c.team c.group (maskOf fun l => ls.contains l) fun l =>
      match q.2.find? fun x => x.1 == l with
      | some x => { v := vWrites (f.at m c.rep).d.toNat (wordsOf (size / 4) (leBytes size x.2)) }
      | none => {}
    let vB (l : Nat) : Nat := (vreg s1 c l (f.at m c.rep).b).toNat
    let val (size r l : Nat) : Nat := leNat (s1.storeBytes c r size l)
    let size := if m.clsBit 0 then 8 else 4
    (∀ p ∈ atomics m, Ready s (p.2 m f) c s1 →
      (ls = [] → ∃ t, exec (p.2 m f) s = .next t ∧ Computed s1 t (p.2 m f) c 0 fun _ => {}) ∧
      (ls ≠ [] → can 4 (m.orderD .acqrel) → exec (p.2 m f) s =
        .next ((old 4 (after 4 (fun _ => p.1) vB (m.orderD .acqrel))).advance (p.2 m f) c))) ∧
    (Ready s (.cas m f) c s1 →
      (ls = [] → ∃ t, exec (.cas m f) s = .next t ∧ Computed s1 t (.cas m f) c 0 fun _ => {}) ∧
      (ls ≠ [] → can size (m.orderD .acqrel) → exec (.cas m f) s = .next ((old size (after size
        (fun l => .cas (val size (f.at m c.rep).d.toNat l)) (fun l => val size (f.at m c.rep).b.toNat l) (m.orderD .acqrel))).advance
          (.cas m f) c))) ∧
    (Ready s (.red m f) c s1 →
      (ls = [] → ∃ t, exec (.red m f) s = .next t ∧ Computed s1 t (.red m f) c 0 fun _ => {}) ∧
      (ls ≠ [] → can 4 (m.orderD .plain) → exec (.red m f) s =
        .next ((after 4 (fun _ => redOp m) vB (m.orderD .plain)).1.advance (.red m f) c)))

/-- FENCE and XFENCE complete once what they wait for at their scope and in their first domain is over: the store queue is empty, the
stores that stood when they came have been performed, fabric operations, posted entries or flights have completed; then at DIE and
wider the view's clean lines are dropped. Nothing else changes but the place in the program. Two clauses are the model's choice: only clean
lines are dropped (log entry 19), and XFENCE.ORD or XFENCE.VIS before an engine (domains 1 to 4) waits at every scope until the group's stores,
or the feedback of its traversals, are at their commons points (log entry 106). -/
def Obligations.FencesComplete : Prop :=
  (∀ (m : Mods) (f : RForm) s c s1, Ready s (.fence m f) c s1 →
    (s1.group c.team c.group).sq = [] →
    s1.unblocked c [] ((if scopeWide (m.scopeD .device) then [.storesGone (s1.core c.core).pendIds.eraseDups] else []) ++
      if m.scopeD .device = .system then [.fabricDone (s1.fabIds c.team c.group)] else []) →
    exec (.fence m f) s = .next ((if scopeWide (m.scopeD .device) then s1.dropClean c.core else s1).advance (.fence m f) c)) ∧
  (∀ (m : Mods) (f : RForm) s c s1 d, Ready s (.xfence m f) c s1 → Domain.ofCode f.a.toNat = some d →
    s1.unblocked c (s1.xfenceConds c d f.b.toNat (m.scopeD .device)).1 (s1.xfenceConds c d f.b.toNat (m.scopeD .device)).2 →
    exec (.xfence m f) s = .next ((if f.b = 0 ∧ scopeWide (m.scopeD .device) = true then s1.dropClean c.core else s1).advance (.xfence m f) c)) ∧
  (∀ (s : State) (c : Cur) (d : Domain) (sc : Scope) (b : Nat), (b = 0 ∨ 5 ≤ b) → s.xfenceConds c d b sc = s.domainConds c d sc) ∧
  (∀ (s : State) (c : Cur) (sc : Scope) (b : Nat), 1 ≤ b → b ≤ 4 → (s.xfenceConds c .vis b sc).2.head? = some (.feedbackDone true s.nextId) ∧
    ∃ ids, (s.xfenceConds c .ord b sc).2.head? = some (.storesGone ids) ∧
    ∀ n, n ∈ ids ↔ (∃ e ∈ (s.group c.team c.group).sq, e.id = n) ∨
      ∃ k ∈ s.cores, ∃ x ∈ k.cv, ∃ w ∈ x.pend, w.vis = none ∧ w.team = c.team ∧ w.group = c.group ∧ w.id = n) ∧
  (∀ (s : State) (k : Nat), (∃ cs, s.dropClean k = { s with cores := cs }) ∧
    ∀ x, x ∈ ((s.dropClean k).core k).cv ↔ x ∈ (s.core k).cv ∧ x.pend ≠ [])

end Memory

section HurdlesAndTags

/-- Where a hurdle's offset is a multiple of 16 inside the carve-out, its block is not owned and a release's conditions hold, HINIT, HARV
and HEXP complete: the hurdle is set, or its arrivals or bytes are raised and tested, in one step; HARV's sD takes the phase as it
was; no other byte of the scratchpad or of memory changes. A splinter of helper lanes only has no effect. -/
def Obligations.HurdlesComplete : Prop :=
  ∀ (k : Mods → RForm → Instr) (m : Mods) (f : RForm) s c s1, (k = .hinit ∨ k = .harv ∨ k = .hexp) → Ready s (k m f) c s1 →
    let off := (s1.rdS c f.a.toNat).toNat
    let n := s1.rdS c f.b.toNat
    let o := m.orderD (if k m f = .harv m f then .rel else .plain)
    (s1.onlyHelpers c = true → ∃ t, exec (k m f) s = .next t ∧ Computed s1 t (k m f) c 0 fun _ => {}) ∧
    (∀ tm, s1.onlyHelpers c = false → s1.team? c.team = some tm → off % 16 = 0 → off + 16 ≤ s1.carve c.team → s1.Inv → Memory.wf tm.sp = true →
      (∀ x ∈ spKeys c.team off 16, s1.owned x = false) →
      s1.unblocked c (if ordRel o then .sqEmpty :: releaseConds (m.scopeD .team) ++ s1.fabSnap c.team c.group (m.scopeD .team) else []) [] →
      ∃ t, exec (k m f) s = .next t ∧
        (t.team? c.team).map (fun x => x.hurdle off) = some (if k m f = .hinit m f then { bytes := 0, expa := n.extractLsb' 0 16, arr := 0, ph := false }
          else if k m f = .harv m f then ({ tm.hurdle off with arr := (tm.hurdle off).arr + n.extractLsb' 0 16 } : Hurdle).flip
          else ({ tm.hurdle off with bytes := (tm.hurdle off).bytes + n } : Hurdle).flip) ∧
        (∀ a, a < off ∨ (if k m f = .hinit m f then off + 16 else off + 9) ≤ a → t.spByte c.team a = s1.spByte c.team a) ∧
        (∀ x a, x ≠ c.team → t.spByte x a = s1.spByte x a) ∧ (∀ a, Memory.get t.mem a = Memory.get s1.mem a) ∧
        (k m f = .harv m f → ∀ l < 32, inMask c.act l = true → (∀ j < 32, inMask c.act j = false →
            (s1.lane c.team c.group j).present = false) →
          rd (t.lane c.team c.group l).s f.d.toNat = if (tm.hurdle off).ph then 1 else 0))

/-- HWAIT leaves once the hurdle's phase differs from sB[0], and its block is not owned; TAGW once every masked tag, or with .ANY one, is
set, at once for a zero mask; MWAIT once its tag is set: each where no failure has been recorded for what it waits on (MWAIT leaves those of
copies alone). A wait that is not over stays at the instruction; a mask or a tag that the team has not declared
is illegal. Leaving acquires: for each completion that has been observed at its entry's scope, and with ORDER acquire at the instruction's own;
an acquire at DIE or wider drops the lines of the view that hold no unpropagated write, and changes no other; that lines which hold one stay is
the model's choice (log entry 19).
TAGF answers the lowest masked tag that is set, 64 where none is, and does not wait; TAGC clears the masked set bits and changes no
count. Nothing else changes. -/
def Obligations.WaitsAndTagReadsComplete : Prop :=
  (∀ (m : Mods) (f : RForm) s c s1 tm, Ready s (.hwait m f) c s1 → s1.onlyHelpers c = false → s1.team? c.team = some tm →
    let off := (s1.rdS c f.a.toNat).toNat
    off % 16 = 0 → off + 16 ≤ s1.carve c.team → (∀ e ∈ tm.efaults, e.hits c.group 0 tm.tags (some off) = false) →
    ((∀ x ∈ spKeys c.team off 16, s1.owned x = false) → (tm.hurdle off).ph ≠ (s1.rdS c f.b.toNat).getLsbD 0 → s1.unblocked c [] [] →
      exec (.hwait m f) s = .next ((s1.afterWait c (fun q => q.hurdle == some off && q.flipped) (ordAcq (m.orderD .acq)) (m.scopeD .team)).advance
        (.hwait m f) c)) ∧
    ((tm.hurdle off).ph = (s1.rdS c f.b.toNat).getLsbD 0 → ∃ cs sn, exec (.hwait m f) s =
      .next (s.standBy c cs sn (m.k.map fun k => k.toNat * 64)))) ∧
  (∀ (m : Mods) (f : RForm) s c s1 tm, Ready s (.tagw m f) c s1 → s1.onlyHelpers c = false → s1.team? c.team = some tm →
    let mask := s1.pairS c f.a.toNat
    (2 ^ (s1.launchOf c.team).lrec.tags ≤ mask.toNat → exec (.tagw m f) s = .next (s.takeFault c (0x19, 4) { cls := 1, mask := c.act })) ∧
    (mask.toNat < 2 ^ (s1.launchOf c.team).lrec.tags → (∀ e ∈ tm.efaults, e.hits c.group mask tm.tags none = false) →
      ((mask = 0 ∨ (s1.unblocked c [] [] ∧ if m.clsBit 0 then tm.tags &&& mask ≠ 0 else tm.tags &&& mask = mask)) →
        exec (.tagw m f) s = .next ((s1.afterWait c (fun q => q.tag.any (tm.tags &&& mask).getLsbD) (ordAcq (m.orderD .plain))
          (m.scopeD .device)).advance (.tagw m f) c)) ∧
      (mask ≠ 0 → (if m.clsBit 0 then tm.tags &&& mask = 0 else tm.tags &&& mask ≠ mask) → ∃ cs sn, exec (.tagw m f) s =
        .next (s.standBy c cs sn (m.k.map fun k => k.toNat * 64))))) ∧
  (∀ (m : Mods) (f : RForm) s c s1 tm, Ready s (.mwait m f) c s1 → s1.onlyHelpers c = false → s1.team? c.team = some tm →
    let tag := (s1.rdS c f.a.toNat).toNat
    (64 ≤ tag ∨ (s1.launchOf c.team).lrec.tags ≤ tag → exec (.mwait m f) s = .next (s.takeFault c (0x1D, 4) { cls := 1, mask := c.act })) ∧
    (tag < 64 → tag < (s1.launchOf c.team).lrec.tags →
      (∀ e ∈ tm.efaults, e.maj ≠ 0x1C → e.hits c.group (1#64 <<< tag) tm.tags none = false) →
      (tm.tags.getLsbD tag = true → s1.unblocked c [] [] →
        exec (.mwait m f) s = .next ((s1.afterWait c (fun q => q.tag == some tag) (ordAcq (m.orderD .plain)) (m.scopeD .device)).advance
          (.mwait m f) c)) ∧
      (tm.tags.getLsbD tag = false → ∃ cs sn, exec (.mwait m f) s =
        .next (s.standBy c cs sn (if s1.rdS c f.b.toNat = 0xFFFFFFFF then none else some (s1.rdS c f.b.toNat).toNat))))) ∧
  (∀ (m : Mods) (f : RForm) s c s1 tm, Ready s (.tagf m f) c s1 → s1.onlyHelpers c = false → s1.team? c.team = some tm →
    (s1.pairS c f.a.toNat).toNat < 2 ^ (s1.launchOf c.team).lrec.tags →
    ∃ t n, exec (.tagf m f) s = .next t ∧ (Computed s1 t (.tagf m f) c c.act fun _ => { s := [(f.d.toNat, BitVec.ofNat 32 n)] }) ∧
      (∀ k < n, k < 64 → (tm.tags &&& s1.pairS c f.a.toNat).getLsbD k = false) ∧
      (n < 64 → (tm.tags &&& s1.pairS c f.a.toNat).getLsbD n = true) ∧ n ≤ 64) ∧
  (∀ (m : Mods) (f : RForm) s c s1, Ready s (.tagc m f) c s1 → s1.onlyHelpers c = false →
    (s1.pairS c f.a.toNat).toNat < 2 ^ (s1.launchOf c.team).lrec.tags →
    exec (.tagc m f) s = .next ((s1.modTeam c.team fun t => { t with tags := t.tags &&& ~~~(s1.pairS c f.a.toNat) }).advance (.tagc m f) c)) ∧
  (∀ (k : Mods → RForm → Instr) (m : Mods) (f : RForm) s c s1,
    (k = .hwait ∨ k = .tagw ∨ k = .tagf ∨ k = .tagc ∨ k = .mwait) → Ready s (k m f) c s1 → s1.onlyHelpers c = true →
    ∃ t, exec (k m f) s = .next t ∧ Computed s1 t (k m f) c 0 fun _ => {}) ∧
  (∀ (s : State) (c : Cur) (p : Seen → Bool) (acq : Bool) (sc : Scope) tm, s.team? c.team = some tm →
    let t := s.afterWait c p acq sc
    (∃ cs, t = { s with cores := cs }) ∧ (∀ k, k ≠ c.core → t.core k = s.core k) ∧
    { t.core c.core with cv := [] } = { s.core c.core with cv := [] } ∧
    ∀ x, x ∈ (t.core c.core).cv ↔ x ∈ (s.core c.core).cv ∧
      (((acq = true ∧ scopeWide sc = true) ∨ ∃ q ∈ tm.seen, p q = true ∧ scopeWide q.scope = true) → x.pend ≠ []))

/-- A tag reads set only when every entry posted on it has completed: a Post clears its bit and counts up, a Complete counts down and
sets the bit at 0; other tags stand.
A hurdle's test after an update: with no bytes outstanding and enough arrivals its phase turns and the expected arrivals are taken
off. -/
def Obligations.TagAndHurdleCounts : Prop :=
  (∀ (t : Team) (tag : Nat) (sc : Scope), tag < 64 →
    rd (t.tagPost tag).counts tag = rd t.counts tag + 1 ∧ (t.tagPost tag).tags.getLsbD tag = false ∧
    (∀ k, k ≠ tag → (t.tagPost tag).tags.getLsbD k = t.tags.getLsbD k ∧ rd (t.tagPost tag).counts k = rd t.counts k) ∧
    rd (t.tagDone tag sc).counts tag = rd t.counts tag - 1 ∧
    (t.tagDone tag sc).tags.getLsbD tag = (decide (rd t.counts tag ≤ 1) || t.tags.getLsbD tag) ∧
    (∀ k, k ≠ tag → (t.tagDone tag sc).tags.getLsbD k = t.tags.getLsbD k ∧ rd (t.tagDone tag sc).counts k = rd t.counts k)) ∧
  (∀ h : Hurdle, h.flip = if h.bytes = 0 ∧ h.expa.toNat ≤ h.arr.toNat then { h with ph := !h.ph, arr := h.arr - h.expa } else h)

end HurdlesAndTags

section Copies

/-- COPY and COPYT complete: the splinter's arrival is recorded, and the last arrival of the collective posts its entry; GATH, SCAT,
PUSHW and CREM post one entry of their own. None moves a byte at issue; posting makes the entry own the lines that it writes. -/
def Obligations.CopiesComplete : Prop :=
  (∀ (tiled : Bool) (m : Mods) (f : RForm) s c s1 tm,
    let i := if tiled then Instr.copyt m f else .copy m f
    let word := s1.rdS c (f.b.toNat + if tiled then 2 else 1)
    let ds (n : Nat) := (List.range n).map fun k => s1.rdS c (f.d.toNat + k)
    let as := [s1.rdS c f.a.toNat, s1.rdS c (f.a.toNat + 1)]
    let sl := if tiled then s1.copytSlice c.team (m.clsBit 0) (ds 3 ++ as ++ [s1.rdS c f.b.toNat, s1.rdS c (f.b.toNat + 1)]) word
      else s1.copySlice c.team (m.clsField 0 2) (ds 2 ++ as ++ [s1.rdS c f.b.toNat]) word
    let acc : Accord := { fn := if tiled then 1 else 0, x := m.x, word := word }
    let empty := s1.onlyHelpers c
    let n := (rd tm.groups c.group).copies
    let t1 := tm.arrive false (if empty then none else some acc)
      { group := c.group, empty := empty, segs := if empty then [] else sl.segs, bytes := if empty then 0 else sl.bytes
        ops := if empty then [] else sl.ops, home := s1.homeOf c.team c.group (lowest c.act) }
    let last := t1.copyRecs.any fun r => r.number == n && t1.allArrived r
    let rel := if empty then ([], []) else s1.postConds c m (m.scopeD .device)
    Ready s i c s1 → s1.team? c.team = some tm →
    (empty = true ∨ sl.fails = [] ∧ ∀ r ∈ tm.copyRecs, r.number = n → r.accord = none ∨ r.accord = some acc) →
    s1.unblocked c ((if tm.copyRecs.any fun r => r.number == n then [] else [.recordRoom false]) ++
      (if last then [.copyRoom] else []) ++ rel.1) rel.2 →
    ∃ t, exec i s = .next t ∧ Kept s1 t c ∧
      (last = false → t = (s1.modTeam c.team fun _ => t1).advance i c) ∧
      (last = true → ∃ r ∈ t1.copyRecs, r.number = n ∧ t = ((s1.modTeam c.team fun _ => t1).postCopyRec c.team r).advance i c)) ∧
  (∀ (scat : Bool) (m : Mods) (f : RForm) s c s1,
    let i := if scat then Instr.scat m f else .gath m f
    let d := (s1.rdS c f.d.toNat).toNat
    let list := (s1.rdS c f.b.toNat).toNat
    let rows := bits (s1.rdS c (f.b.toNat + 1)) 0 16
    let len := bits (s1.rdS c (f.b.toNat + 1)) 16 16
    let word := s1.rdS c (f.b.toNat + 3)
    let idx (k : Nat) : Nat := leNat ((List.range 4).map fun o =>
      (sqByte (s1.group c.team c.group).sq true (list + 4 * k + o)).getD (s1.spByte c.team (list + 4 * k + o)))
    let mp (k : Nat) := s1.memPieces (s1.vdevOf c.team) (s1.pairS c f.a.toNat + BitVec.ofNat 64 (idx k * (s1.rdS c (f.b.toNat + 2)).toNat))
      len (if scat then .write else .read) (if scat then kindEngWrite else kindOperand)
    let sp (k : Nat) := (s1.spPieces c.team (d + k * len) len (if scat then kindOperand else kindEngWrite)).1
    let segs := (List.range rows).flatMap fun k => if scat then segsOf (sp k) (mp k).1 else segsOf (mp k).1 (sp k)
    let rel := s1.postConds c m (m.scopeD .device)
    Ready s i c s1 → s1.onlyHelpers c = false → rows ≤ 4096 → cwFaults word (s1.launchOf c.team).lrec.tags (s1.carve c.team) = [] →
    list % 4 = 0 → list + 4 * rows ≤ s1.carve c.team → d + rows * len ≤ s1.carve c.team →
    (∀ k < rows, (mp k).2 = []) →
    s1.unblocked c (.unowned (if rows = 0 then [] else spKeys c.team list (4 * rows)) :: .copyRoom :: rel.1) rel.2 →
    ∃ t, exec i s = .next t ∧ Posted i s1 t c (copyEntry s1 c m word .device (.copy (if scat then 3 else 2) segs (rows * len))
      (srcKeys segs) (dstKeys segs)) []) ∧
  (∀ (m : Mods) (f : RForm) s c s1,
    let w (k : Nat) : Word := s1.rdS c (f.d.toNat + k)
    let l := (s1.launchOf c.team).lrec
    let g := bits (w 3) 0 3
    let r0 := bits (w 3) 3 3
    let n := bits (w 3) 6 3 + 1
    let src := (s1.rdS c f.a.toNat).toNat
    let word := s1.rdS c f.b.toNat
    let rel := s1.postConds c m (m.scopeD .device)
    Ready s (.pushw m f) c s1 → s1.onlyHelpers c = false → r0 + n ≤ 8 → (w 0).toNat < l.gx → (w 1).toNat < l.gy → (w 2).toNat < l.gz →
    g ≤ l.gm1 → (l.budget (l.roles.getLsbD g)).1 = 64 → bits (w 3) 9 23 = 0 → cwFaults word l.tags (s1.carve c.team) = [] →
    src % 4 = 0 → src + 128 * n ≤ s1.carve c.team → s1.unblocked c (.copyRoom :: rel.1) rel.2 →
    ∃ t, exec (.pushw m f) s = .next t ∧ Posted (.pushw m f) s1 t c
      (copyEntry s1 c m word .device (.push (w 0).toNat (w 1).toNat (w 2).toNat g r0 n src) (spKeys c.team src (128 * n)) []) []) ∧
  (∀ (m : Mods) (f : RForm) s c s1 d dev h,
    let get := m.clsBit 0
    let off := (s1.rdS c (f.d.toNat + 1)).toNat
    let n := (s1.rdS c f.b.toNat).toNat
    let word := s1.rdS c (f.b.toNat + 1)
    let mp := s1.memPieces (s1.vdevOf c.team) (s1.pairS c f.a.toNat) n (if get then .write else .read)
      (if get then kindEngWrite else kindOperand)
    let segs := if get then segsOf (remotePieces dev h off n) mp.1 else segsOf mp.1 (remotePieces dev h off n)
    let rel := s1.postConds c m (m.scopeD .system)
    Ready s (.crem m f) c s1 → s1.onlyHelpers c = false → bits (s1.rdS c f.d.toNat) 16 16 = 0 → n ≤ 2 ^ 24 →
    cwFaults word (s1.launchOf c.team).lrec.tags (s1.carve c.team) = [] → s1.vdev? (s1.vdevOf c.team) = some d →
    (d.wins.findSome? fun w => if w.handle == bits (s1.rdS c f.d.toNat) 0 16 then
      (match w.body with | .importWin x y => some (x, y) | .exportWin .. => none) else none) = some (dev, h) →
    off + n ≤ Config.windowUnits dev h * 65536 → mp.2 = [] → s1.unblocked c (.copyRoom :: rel.1) rel.2 →
    ∃ t ops, exec (.crem m f) s = .next t ∧
      Posted (.crem m f) s1 t c (copyEntry s1 c m word .system (.copy 5 segs n) (srcKeys segs) (dstKeys segs)) ops ∧
      (get = false → ops = []) ∧ ∀ o ∈ ops, o.get = true ∧ o.device = dev ∧ o.handle = h ∧ o.entry = s1.nextId) ∧
  (∀ (s : State) (e : Entry), (∀ k ∈ e.writes, (s.postEntry e).owned k = true) ∧
    (∀ k, s.owned k = true → (s.postEntry e).owned k = true))

end Copies

section Matrices

/-- MMA, MMAS and MMAM read their parameter block and post a request for the lanes that their guard and the block name, or complete
their tag at once where there is none; MMAT records the splinter's arrival and the last one posts the request. No tile and no lane
changes at issue. The issuing lane is the bellwether; where there is none it is the lowest active lane, which is the model's choice (log entry
138). -/
def Obligations.MatrixRequestsComplete : Prop :=
  (∀ k fn (m : Mods) (f : RForm) s c s1 pa s2 b, (k, fn) ∈ [(Instr.mma, 0), (.mmas, 2), (.mmam, 3)] → Ready s (k m f) c s1 →
    let va := s1.pairS c f.a.toNat
    let lane := s1.bellwether c f.g
    BlockReads s1 c lane fn va pa s2 b →
    let rel := s1.postConds c m (m.scopeD .device)
    let tag := blockField b 176 6
    (s1.storing c f.g = [] → ∃ t, exec (k m f) s = .next t ∧ Kept s2 t c ∧ t.tiles = s2.tiles ∧
      t = (s2.modTeam c.team fun t => (t.tagPost tag).tagDone tag (m.scopeD .device)).advance (k m f) c) ∧
    (s1.storing c f.g ≠ [] → s1.unblocked c (.tableRoom :: rel.1) rel.2 → ∃ t, exec (k m f) s = .next t ∧ Kept s2 t c ∧
      t.tiles = s2.tiles ∧ t = (s2.postMat c.team [c.group] (s2.homeOf c.team c.group lane) fn b va pa (m.scopeD .device) (s1.storing c f.g).contains).advance (k m f) c)) ∧
  (∀ (m : Mods) (f : RForm) s c s1 tm pa s2 b,
    let empty := s1.onlyHelpers c
    let va := s1.pairS c f.a.toNat
    let acc : Accord := { fn := 1, x := m.x, word := BitVec.ofNat 32 (blockField b 176 6), block := b, vaddr := va, paddr := pa }
    let n := (rd tm.groups c.group).mats
    let t1 := tm.arrive true (if empty then none else some acc) { group := c.group, empty := empty, segs := [], bytes := 0, home := s1.homeOf c.team c.group (lowest c.act) }
    let last := t1.matRecs.any fun r => r.number == n && t1.allArrived r
    let rel := if empty then ([], []) else s1.postConds c m (m.scopeD .device)
    Ready s (.mmat m f) c s1 → s2.team? c.team = some tm →
    ((empty = true ∧ s2 = s1) ∨ (empty = false ∧ BlockReads s1 c (lowest c.act) 1 va pa s2 b ∧
      ∀ r ∈ tm.matRecs, r.number = n → ∀ a, r.accord = some a → a.agrees acc = true)) →
    s1.unblocked c ((if tm.matRecs.any fun r => r.number == n then [] else [.recordRoom true]) ++
      (if last then [.tableRoom] else []) ++ rel.1) rel.2 →
    ∃ t, exec (.mmat m f) s = .next t ∧ Kept s2 t c ∧ t.tiles = s2.tiles ∧
      (last = false → t = (s2.modTeam c.team fun _ => t1).advance (.mmat m f) c) ∧
      (last = true → ∃ r ∈ t1.matRecs, r.number = n ∧ t = ((s2.modTeam c.team fun _ => t1).postMatRec c.team r).advance (.mmat m f) c)) ∧
  (∀ (s : State) (c : Cur) (g : BitVec 3), (∀ l ls, s.storing c g = l :: ls → s.bellwether c g = l) ∧
    (s.storing c g = [] → s.bellwether c g = lowest c.act)) ∧
  (∀ (b : List Word) (lane : Nat → Bool) (i : Nat), i ∈ liveRows b lane ↔
    i < 128 ∧ i ≤ blockField b 160 7 ∧ blockField b (384 + i) 1 = 1 ∧ lane (i % 32) = true ∧ blockField b 216 7 ≤ i)

/-- The accumulator instructions complete once no earlier entry of the team names the tile: ACRD writes, in each lane whose row exists,
the tile's words of its row to consecutive registers; ACWR writes them; ACST posts an entry that owns the lines it stores; ACZ clears
the tile and ACREL frees it.
A claim of the spill sequencer gives the team the tile in the engine of its cluster with the words that the team's tile held: those
that it already holds there stay; otherwise its saved image comes back, and a tile of which there is none reads as 0. -/
def Obligations.AccumulatorsAndTilesComplete : Prop :=
  (∀ (m : Mods) (f : RForm) s c s1,
    let w := s1.rdS c f.b.toNat
    let lanes := maskOf fun l => inMask (s1.guarded c f.g) l && decide (bits w 0 7 + l < 128)
    let tile := f.a.toNat
    Ready s (.acrd m f) c s1 → rowWordBad w = false → f.d.toNat + bits w 16 4 + 1 ≤ min (s1.budget c.team c.group).1 64 →
    (∀ t, s1.team? c.team = some t → t.twinMisuse c.group lanes (rowRegs f.d.toNat w) = 0) →
    s1.unblocked c [.tileFree [tile]] [] →
    let s2 := s1.claim c.cluster c.team tile
    ∃ t, exec (.acrd m f) s = .next t ∧ Computed s2 t (.acrd m f) c lanes fun l =>
      { v := vWrites f.d.toNat ((List.range (bits w 16 4 + 1)).map fun j =>
        rd (s2.tileWords c.cluster tile) (128 * (bits w 0 7 + l) + bits w 8 7 + j)) }) ∧
  (∀ (m : Mods) (f : RForm) s c s1,
    let w := s1.rdS c f.b.toNat
    let ls := (s1.storing c f.g).filter fun l => decide (bits w 0 7 + l < 128)
    let tile := f.d.toNat
    let reads := match s1.team? c.team with | some t => t.twinReads c.group (maskOf ls.contains) (rowRegs f.a.toNat w) | none => []
    Ready s (.acwr m f) c s1 → rowWordBad w = false → f.a.toNat + bits w 16 4 + 1 ≤ min (s1.budget c.team c.group).1 64 →
    s1.unblocked c (.tileFree [tile] :: if reads.isEmpty then [] else [.twinFull reads]) [] →
    let s2 := (s1.modTeam c.team fun t => t.twinTake c.group reads).claim c.cluster c.team tile
    ∃ t, exec (.acwr m f) s = .next t ∧ Kept s2 t c ∧
      ∀ row col, row < 128 → col < 128 → (s2.tileWords c.cluster tile).length = 16384 →
        rd (t.tileWords c.cluster tile) (128 * row + col) =
          if bits w 0 7 ≤ row ∧ ls.contains (row - bits w 0 7) = true ∧ bits w 8 7 ≤ col ∧ col ≤ bits w 8 7 + bits w 16 4 then
            s1.rdV c.team c.group (row - bits w 0 7) (f.a.toNat + (col - bits w 8 7))
          else rd (s2.tileWords c.cluster tile) (128 * row + col)) ∧
  (∀ (m : Mods) (f : RForm) s c s1,
    let va := s1.pairS c f.b.toNat
    let stride := (s1.rdS c (f.b.toNat + 2)).toNat
    let w := s1.rdS c (f.b.toNat + 3)
    let z := if bits w 16 2 = 0 then 4 else 2
    let rows := (List.range (bits w 0 7 + 1)).map fun k =>
      s1.memPieces (s1.vdevOf c.team) (va + BitVec.ofNat 64 (k * stride)) ((bits w 8 7 + 1) * z) .write kindEngWrite
    Ready s (.acst m f) c s1 → s1.onlyHelpers c = false → bits w 7 1 = 0 → bits w 15 1 = 0 → bits w 16 2 ≠ 3 → bits w 18 6 = 0 →
    bits w 30 2 = 0 → bits w 24 6 < (s1.launchOf c.team).lrec.tags → va.toNat % z = 0 → stride % z = 0 → (∀ r ∈ rows, r.2 = []) →
    s1.unblocked c [.tableRoom] [] →
    ∃ t e, exec (.acst m f) s = .next t ∧ Posted (.acst m f) s1 t c e [] ∧ e.copyEng = false ∧ e.unit = c.cluster ∧ e.team = c.team ∧
      e.groups = [c.group] ∧ e.tag = some (bits w 24 6) ∧ e.hurdle = none ∧ e.writes = locKeys (rows.flatMap Prod.fst) ∧
      e.work = .acst { tile := f.a.toNat, fmt := bits w 16 2, cols := bits w 8 7 + 1, rows := rows.map Prod.fst }) ∧
  (∀ (m : Mods) (f : RForm) s c s1, Ready s (.acz m f) c s1 → s1.onlyHelpers c = false → s1.unblocked c [.tileFree [f.d.toNat]] [] →
    let s2 := s1.claim c.cluster c.team f.d.toNat
    ∃ t, exec (.acz m f) s = .next t ∧ Kept s2 t c ∧ ∀ k, rd (t.tileWords c.cluster f.d.toNat) k = 0) ∧
  (∀ (m : Mods) (f : RForm) s c s1, Ready s (.acrel m f) c s1 → s1.onlyHelpers c = false → s1.unblocked c [.tileFree [f.d.toNat]] [] →
    ∃ t, exec (.acrel m f) s = .next t ∧ Kept s1 t c ∧
      (∀ h ∈ t.tiles, h ∈ s1.tiles) ∧ (∀ h ∈ s1.tiles, h ∈ t.tiles ↔ ¬ (h.team = c.team ∧ h.tile = f.d.toNat)) ∧
      ∀ tm, t.team? c.team = some tm → ∀ p ∈ tm.images, p.1 ≠ f.d.toNat) ∧
  (∀ (k : Mods → RForm → Instr) (m : Mods) (f : RForm) s c s1,
    (k = .gath ∨ k = .scat ∨ k = .pushw ∨ k = .crem ∨ k = .acst ∨ k = .acz ∨ k = .acrel) → Ready s (k m f) c s1 → s1.onlyHelpers c = true →
    ∃ t, exec (k m f) s = .next t ∧ Computed s1 t (k m f) c 0 fun _ => {}) ∧
  (∀ (s : State) (cl tm k : Nat) (t : Team), s.team? tm = some t →
    (∃ h, (s.claim cl tm k).tile? cl k = some h ∧ h.team = tm) ∧
    ((s.tile? cl k).any (fun h => h.team == tm) = true → s.claim cl tm k = s) ∧
    ((∀ h ∈ s.tiles, ¬ (h.team = tm ∧ h.tile = k)) → (∀ h, s.tile? cl k = some h → h.team ≠ tm) →
      (s.claim cl tm k).tileWords cl k = match t.images.find? fun i => i.1 == k with | some i => i.2 | none => List.replicate 16384 0))

end Matrices

section Closures

/-- CCLR, CFRM, CLOBE, CMIX, CLAY and CNET complete in every guarded lane whose closure has room: cD takes the closure that the rules of
building give, which is the old one or a well-formed one; a full closure (without CLOBE.CLIP) is a capacity fault of its lanes. CLAY puts in, in
each lane whose TOP and BASE can be linked, the new LAYER with ATT from the albedo of TOP, read through the table path, unless the closure that
results is not well formed. That CLAY reads its tables only in the lanes whose result is well-formed, and that ATT is free where the links below
TOP run in a circle, is the model's choice (log entry 66). -/
def Obligations.ClosureBuildsComplete : Prop :=
  (∀ (m : Mods) (f : RForm), Completes (.cclr m f) fun s c t => SetsC s t (.cclr m f) c f fun _ => 15 * 2 ^ 68) ∧
  (∀ (m : Mods) (f : RForm), Completes (.cfrm m f) fun s c t => SetsC s t (.cfrm m f) c f fun l =>
    let half (r : Nat) : Nat := if m.clsBit 0 then (s.rdV c.team c.group l r).toNat else octWords s c l r
    setFld (setFld (s.rdC c l f.d.toNat) 0 32 (half f.a.toNat)) 32 32 (half f.b.toNat)) ∧
  (∀ (m : Mods) (f : RForm) s c s1,
    let x (l : Nat) : Nat := s1.rdC c l f.d.toNat
    let w (l k : Nat) : Word := s1.rdV c.team c.group l (f.a.toNat + k)
    let att (l : Nat) : Word := s1.rdV c.team c.group l f.b.toNat
    let room : Prop := ∀ l < 32, inMask (s1.guarded c f.g) l = true → fullClosure (x l) = false
    (Ready s (.clobe m f) c s1 → (m.clsBit 0 = true ∨ room) → ∃ t, exec (.clobe m f) s = .next t ∧
      SetsC s1 t (.clobe m f) c f fun l => clobeOf (m.clsBit 0) (x l) (leNat (bytesOf (s1.rdVs c.team c.group l f.a.toNat 4))) (att l)) ∧
    (Ready s (.cmix m f) c s1 → room → ∃ t, exec (.cmix m f) s = .next t ∧
      SetsC s1 t (.cmix m f) c f fun l => cmixOf (x l) (w l 0) (w l 1) (att l)) ∧
    (Ready s (.clay m f) c s1 → room →
      let live := (lanesOf (s1.guarded c f.g)).filter fun l => (clayOf (x l) (w l 0) (w l 1) (att l) 0 0 0).isSome
      let refs := live.flatMap fun l => (fresRefs (x l) ((subtree (x l) (bits (att l) 0 4)).getD [])).map fun r =>
        (l, s1.blockRef c.team c.group l r)
      let v := s1.vdevOf c.team
      ∀ ps q, s1.placeAll v (refReqs (refs.map fun r => (r.1, r.2.2))) .read 1 kindOperand false = .ok (ps, q) →
        s1.unblocked c [.unowned ((refs.flatMap fun r => s1.refNeeds c.team c.core v (refMaps ps) r.2).map LineKey.mem)] [] →
        let read := s1.readRefs c.team c.core v (refMaps ps) (refs.map Prod.snd)
        let alpha (l : Nat) : V3 := albedoAt (tablesOf (s1.lane c.team c.group l).home.1 (x l) read.2) (x l) ⟨.zero, .zero, .one⟩ (bits (att l) 0 4)
        ∃ (t : State) (free : Nat → Nat → Nat), exec (.clay m f) s = .next t ∧
          let half (l k : Nat) (a : Val) : Nat := if (subtree (x l) (bits (att l) 0 4)).isSome = true then attOf a else free l k
          Computed read.1 t (.clay m f) c (maskOf live.contains) fun l =>
            match clayOf (x l) (w l 0) (w l 1) (att l) (half l 0 (alpha l).x) (half l 1 (alpha l).y) (half l 2 (alpha l).z) with
            | some y => putC f.d.toNat y
            | none => {}) ∧
    (∀ k ∈ [Instr.clobe m f, .cmix m f, .clay m f], Ready s k c s1 → (k = .clobe m f → m.clsBit 0 = false) →
      (∃ l < 32, inMask (s1.guarded c f.g) l = true ∧ fullClosure (x l) = true) →
      ∃ mask, exec k s = .next (s.takeFault c k.code { cls := 7, mask := mask }) ∧
        ∀ l < 32, (inMask mask l = true ↔ inMask (s1.guarded c f.g) l = true ∧ fullClosure (x l) = true))) ∧
  (∀ (m : Mods) (f : RForm) s c s1, Ready s (.cnet m f) c s1 →
    (m.clsBit 0 = true ∨ ∀ l < 32, inMask (s1.guarded c f.g) l = true →
      (s1.pairV c l f.a.toNat).toNat % 256 = 0 ∧ canonical (s1.pairV c l f.a.toNat) = true) →
    ∃ t, exec (.cnet m f) s = .next t ∧ SetsC s1 t (.cnet m f) c f fun l =>
      setFld (setFld (s1.rdC c l f.d.toNat) 73 1 (if m.clsBit 0 then 0 else 1)) 80 48
        (if m.clsBit 0 then 0 else (s1.pairV c l f.a.toNat).toNat % 2 ^ 56 / 256)) ∧
  (∀ clip x v att, clobeOf clip x v att = x ∨ wellFormed (clobeOf clip x v att) = true) ∧
  (∀ x w0 w1 att, cmixOf x w0 w1 att = x ∨ wellFormed (cmixOf x w0 w1 att) = true) ∧
  (∀ x w0 w1 att ar ag ab y, clayOf x w0 w1 att ar ag ab = some y → wellFormed y = true)

/-- CSMP, CEVL, CPDF and CALB post their operation where every table they read is readable, and change nothing yet; the results land in
the lanes when LOBE_OPERATION_COMPLETE happens, and an instruction that names one of their registers waits until then (that a query is a
posted operation, and what waits for it, is the model's choice, log entry 64). -/
def Obligations.QueriesComplete : Prop :=
  (∀ q ∈ queries, ∀ (m : Mods) (f : RForm) s c s1 ps no,
    let i := q.2.2.2 m f
    let g := s1.guarded c f.g
    let ops (l : Nat) : List Word := s1.rdVs c.team c.group l f.a.toNat q.2.1
    let refs := (lanesOf g).flatMap fun l => (queryRefs q.1 (ops l) (s1.rdC c l f.b.toNat)).map fun r => (l, r)
    Ready s i c s1 → s1.placeAll (s1.vdevOf c.team) (refReqs refs) .read 1 kindOperand false = .ok (ps, no) →
    (g = 0 → ∃ t, exec i s = .next t ∧ Computed s1 t i c 0 fun _ => {}) ∧
    (g ≠ 0 → ∃ t fl, exec i s = .next t ∧ Kept s1 t c ∧ t.flights = s1.flights ++ [fl] ∧ fl.id = s1.nextId ∧ fl.vis = false ∧
      fl.team = c.team ∧ fl.group = c.group ∧ fl.core = c.core ∧ fl.act = g ∧ fl.instr = i ∧ fl.dest = (f.d.toNat, q.2.2.1) ∧
      fl.args.map Prod.fst = lanesOf g ∧ ∀ a ∈ fl.args, a.2.take q.2.1 = ops a.1)) ∧
  (∀ (id : Nat) (s : State) (fl : Flight), s.flights.find? (fun q => q.id == id && !q.vis) = some fl →
    (∀ r ∈ s.flightRefs fl, ∀ x ∈ s.refNeeds fl.team fl.core (s.vdevOf fl.team) fl.maps r, s.owned (.mem x) = false) →
    let r := s.readRefs fl.team fl.core (s.vdevOf fl.team) fl.maps (s.flightRefs fl)
    ∃ t, exec (.lobeOperationComplete id) s = .next t ∧ (∀ q ∈ t.flights, q.id ≠ id) ∧
      { t with flights := r.1.flights } = r.1.applyFx fl.team fl.group fl.act fun l =>
        { v := vWrites fl.dest.1 (match fl.lanes.find? fun a => a.1 == l with
          | some a => queryWords (tablesOf (s.lane fl.team fl.group l).home.1 a.2.2 r.2) fl.fnArgs.1 a.2.1 a.2.2 | none => []) }) ∧
  (∀ (i : Instr) (s : State) (c : Cur), i.raw ≠ .event → s.cur = some c → s.team? c.team ≠ none →
    i.inBudget (s.budget c.team c.group) = true → s.pendingOn c i ≠ [] →
    exec i s = .next (s.standBy c [.flightsDone (s.pendingOn c i)] [] none))

/-- CSPL queues a closure's 256 bytes as 16 linked stores, CFIL loads them back, LDT loads through the table path and CFENCE empties it;
each where its accesses reach memory and what it waits for is over. -/
def Obligations.ClosureMemoryComplete : Prop :=
  (∀ (m : Mods) (f : RForm) s c s1 ps no,
    let ls := s1.storing c f.g
    Ready s (.cspl m f) c s1 →
    s1.placeAll (s1.vdevOf c.team) (ls.map fun l => ⟨l, s1.address c m f 256 l, 256⟩) .write 128 kindWrite false = .ok (ps, no) →
    (ls = [] → ∃ t, exec (.cspl m f) s = .next t ∧ Computed s1 t (.cspl m f) c 0 fun _ => {}) ∧
    (ls ≠ [] → s1.unblocked c [] [] → (s1.group c.team c.group).sq.length + 16 ≤ 32 → ∃ t, exec (.cspl m f) s = .next t ∧
      (∀ a, Memory.get t.mem a = Memory.get s1.mem a) ∧
      t = ((List.range 16).foldl (fun s k => s.enqueue c.team c.group false 16 m .plain .group (k + 1) (ps.map fun p =>
        { lane := p.lane, addr := p.va + BitVec.ofNat 64 (16 * k), phys := (p.segs.getD (k / 8) (0, 0)).1 + 16 * (k % 8)
          data := ((leBytes 256 (s1.rdC c p.lane f.d.toNat)).drop (16 * k)).take 16
          home := s1.homeOf c.team c.group p.lane })) s1).advance (.cspl m f) c)) ∧
  (∀ (m : Mods) (f : RForm) s c s1 ps no,
    let rs : List Req := (lanesOf (s1.guarded c f.g)).map fun l => ⟨l, s1.address c m f 256 l, 256⟩
    Ready s (.cfil m f) c s1 →
    s1.placeAll (s1.vdevOf c.team) rs .read 128 kindRead ((m.x.map XMod.nf).getD false) = .ok (ps, no) →
    s1.unblocked c (s1.loadConds c.team c.group false ps) [] →
    let s2 := s1.loadPrep c.team false (linesOf ps)
    ∃ t, exec (.cfil m f) s = .next t ∧ Computed s2 t (.cfil m f) c (s1.guarded c f.g) fun l => { other := fun ln =>
      { ln with c := wr ln.c f.d.toNat (wordsOf 64 (loadedAt s2 c ps 256 l)) } }) ∧
  (∀ (m : Mods) (f : RForm) s c s1 ps no,
    let size := sizeBytes (m.clsField 0 3)
    let rs : List Req := (lanesOf (s1.guarded c f.g)).map fun l => ⟨l, s1.address c m f size l, size⟩
    let gives (s : State) (l x : Nat) := s.lineGives c.team c.core (s1.lane c.team c.group l).home.1 x
    let need := (linesOf ps).filter fun x => ps.any fun p => (p.segs.any fun q => lineOf q.1 == x) && (gives s1 p.lane x).isNone
    Ready s (.ldt m f) c s1 →
    s1.placeAll (s1.vdevOf c.team) rs .read size kindOperand ((m.x.map XMod.nf).getD false) = .ok (ps, no) →
    s1.unblocked c [.unowned (need.map LineKey.mem)] [] →
    let s2 := need.foldl (fun s x => s.lcFill c.core x) s1
    ∃ t, exec (.ldt m f) s = .next t ∧ Computed s2 t (.ldt m f) c (s1.guarded c f.g) fun l =>
      { v := vWrites f.d.toNat (loadedWords size (m.clsBit 3) (match ps.find? fun p => p.lane == l with
        | some p => p.segs.flatMap fun q => (((gives s2 l (lineOf q.1)).getD []).drop (q.1 % 128)).take q.2
        | none => List.replicate size 0)) }) ∧
  (∀ (m : Mods) (f : RForm) s c s1, Ready s (.cfence m f) c s1 →
    (s1.onlyHelpers c = true → ∃ t, exec (.cfence m f) s = .next t ∧ Computed s1 t (.cfence m f) c 0 fun _ => {}) ∧
    (s1.onlyHelpers c = false → (scopeWide (m.scopeD .device) = true ∨ s1.unblocked c
        [.unowned (((s1.core c.core).cv.filter fun l => !l.pend.isEmpty).map fun l => LineKey.mem l.line)] []) →
      let s2 := if scopeWide (m.scopeD .device) then s1 else s1.propagateAll c.core
      ∃ t, exec (.cfence m f) s = .next t ∧ t = (s2.modCore c.core fun k => { k with lc := [], wc := [] }).advance (.cfence m f) c))

end Closures

section Rays

/-- TRACE, TSTEP and HITGET complete at once where no ray reads memory; otherwise each guarded lane's ray takes flight and nothing else
changes (TRAVERSAL_COMPLETE brings its result). TRACE.STEP opens the queries; HITACC answers a pending candidate, and .ACCEND and .END close and end the query; RESID counts
the keys in the launch's filter and RESID.CLR empties it. In a splinter of helper lanes only, the instructions that act once per splinter
have no effect. That an instruction in flight leaves its twin registers untaken until it lands, and that the results land together, is the
model's choice (log entries 73 and 64). -/
def Obligations.TraversalsComplete : Prop :=
  (∀ (i : Instr) (f : RForm) n q land s c s1, Traverses s1 c i f n q land → Ready s i c s1 →
    ((∀ l < 32, inMask (s1.guarded c f.g) l = true → land l ≠ none) → ∃ t, exec i s = .next t ∧
      Computed s1 t i c (s1.guarded c f.g) fun l => match land l with
        | some r => { v := vWrites f.d.toNat r.words, other := fun ln => { ln with query := r.query } } | none => {}) ∧
    ((∃ l < 32, inMask (s1.guarded c f.g) l = true ∧ land l = none) → ∃ t new, exec i s = .next t ∧
      t = { s.holdOn c with flights := s.flights ++ new, nextId := s.nextId + (lanesOf (s1.guarded c f.g)).length } ∧
      new.map (fun fl => (fl.lane, fl.query, fl.landing)) = (lanesOf (s1.guarded c f.g)).map (fun l => (l, q l, land l)) ∧
      ∀ fl ∈ new, fl.vis = true ∧ fl.batch = s.nextId ∧ fl.team = c.team ∧ fl.group = c.group ∧ fl.core = c.core ∧ fl.act = c.act ∧
        fl.instr = i ∧ fl.dest = (f.d.toNat, n) ∧ fl.lines = [])) ∧
  (∀ (m : Mods) (f : RForm) s c s1, m.clsBit 0 = true → Ready s (.trace m f) c s1 → (s1.rdS c (f.b.toNat + 2)).toNat < 256 →
    (∀ l < 32, stores s1 c f.g l → (s1.pairS c f.b.toNat).toNat % 128 = 0 ∧ canonical (s1.pairS c f.b.toNat) = true) →
    ∃ t, exec (.trace m f) s = .next t ∧ Computed s1 t (.trace m f) c (s1.guarded c f.g) fun l => { other := fun ln =>
      { ln with query := { isOpen := true, ray := s1.rdVs c.team c.group l f.a.toNat 8, hdr := s1.pairS c f.b.toNat
                           mask := (s1.rdS c (f.b.toNat + 2)).extractLsb' 0 8, cls := BitVec.ofNat 3 (m.clsField 0 3) } } }) ∧
  (∀ (m : Mods) (f : RForm), Completes (.hitacc m f) fun s c t => Computed s t (.hitacc m f) c (s.guarded c f.g) fun _ =>
    { other := fun ln => { ln with query := ln.query.accept (m.clsField 0 2) } }) ∧
  (∀ (q : Query) (op : Nat), (q.isOpen = false ∨ q.pend = false → q.accept op = q) ∧
    (q.isOpen = true → q.pend = true → (q.accept op).pend = false ∧ ((q.accept op).isOpen = true ↔ op < 2) ∧ ((q.accept op).ended = true ↔ q.ended = true ∨ 2 ≤ op) ∧
      ((op = 0 ∨ op = 2) → (q.accept op).acc = true ∧ (q.accept op).accId = q.pendId) ∧
      (op ≠ 0 → op ≠ 2 → (q.accept op).acc = q.acc ∧ (q.accept op).accId = q.accId))) ∧
  (∀ (m : Mods) (f : RForm) s c s1, Ready s (.resid m f) c s1 → s1.onlyHelpers c = false →
    let l := s1.launchOf c.team
    let s2 := if m.clsBit 0 then s1.modLaunch l.key fun l => { l with filter := [] } else s1
    ∃ t, exec (.resid m f) s = .next t ∧ Computed s2 t (.resid m f) c c.act fun _ =>
      { s := [(f.d.toNat, BitVec.ofNat 32 l.filter.length)] }) ∧
  (∀ (k : Mods → RForm → Instr) (m : Mods) (f : RForm) s c s1,
    (k = .resid ∨ (k = .rast ∧ (s1.launchOf c.team).lrec.spat ≠ 0) ∨ (k = .folddef ∧ (s1.launchOf c.team).lrec.foldt ≠ 0 ∧
      (s1.rdS c f.b.toNat).toNat < 16) ∨ (k = .foldf ∧ (s1.launchOf c.team).lrec.foldt ≠ 0 ∧ (s1.rdS c f.a.toNat).toNat < 16) ∨
      (k = .phase ∧ (s1.launchOf c.team).lrec.det = true) ∨ k = .pubv ∨ k = .vwait ∨ k = .vchk ∨ k = .vstop ∨ k = .vget ∨ k = .lnch) →
    Ready s (k m f) c s1 → s1.onlyHelpers c = true → ∃ t, exec (k m f) s = .next t ∧ Computed s1 t (k m f) c 0 fun _ => {})

/-- RAST gives each lane of the splinter the next covered position of the walk, or zeros, and sB the token from which the walk goes on;
a culled triangle or the last token covers nothing; a launch without samples makes it illegal. Helper is cleared in every lane of the group and
set in the helper lanes of the quads that RAST.QUAD returns. QDIFF writes the difference of the pair of lanes, 0 where the quad is not whole. That
Helper is cleared in the lanes of other splinters too (log entry 111), and the token and the coverage of positions beyond the last (log entry
72), are the model's choices. -/
def Obligations.RasterComplete : Prop :=
  (∀ (m : Mods) (f : RForm) s c s1, Ready s (.rast m f) c s1 →
    let l := (s1.launchOf c.team).lrec
    let token := (s1.rdS c f.b.toNat).toNat
    let ws := (List.range 12).map fun k => s1.rdS c (f.a.toNat + k)
    let does (at' : Nat → Option (Pos × Bool)) (k : Walk) (next : Nat) : Prop := ∃ t, exec (.rast m f) s = .next t ∧
      Computed (s1.mapLanes c.team c.group 0xFFFFFFFF fun _ l => { l with helper := false }) t (.rast m f) c c.act fun ln =>
        { v := vWrites f.d.toNat (match at' ln with | some q => k.words q.1 q.2 | none => List.replicate 6 0)
          s := [(f.b.toNat, BitVec.ofNat 32 next)]
          other := fun x => { x with helper := match at' ln with | some q => q.2 | none => false } }
    (l.spat = 0 → exec (.rast m f) s = .next (s.takeFault c (0x21, 4) { cls := 1, mask := c.act })) ∧
    (l.spat ≠ 0 → s1.onlyHelpers c = false →
      ((triOf ws = none ∨ token = 0xFFFFFFFF) → ∀ k, does (fun _ => none) k 0xFFFFFFFF) ∧
      (∀ tri, triOf ws = some tri → token ≠ 0xFFFFFFFF →
        let k : Walk := { tri := tri, w := l.w, h := l.h, pat := samples l.spat }
        let r := rastStep k (m.clsBit 0) c.act token
        does (fun ln => (r.1.find? fun q => q.1 == ln).map fun q => q.2) k r.2))) ∧
  (∀ (k : Walk) (act : BitVec 32) (token : Nat), ∀ q ∈ (rastStep k false act token).1,
    inMask act q.1 = true ∧ k.covers q.2.1 = true ∧ q.2.2 = false) ∧
  (∀ (m : Mods) (f : RForm), SetsV (.qdiff m f) f.g (fun _ => f.d.toNat) fun s c l =>
    let n := if m.clsBit 0 then l ^^^ 2 else l ^^^ 1
    let val (k : Nat) : Val := wordVal (s.rdV c.team c.group k f.a.toNat)
    if (List.range 4).all fun j => inMask c.act (l / 4 * 4 + j) then BitVec.ofNat 32 (rne32 (subExact (val (max l n)) (val (min l n)))) else 0)

end Rays

section FoldsAndCommons

/-- FOLD, FOLDDEF and FOLDF complete, in a launch with a fold table, once no line of the table is owned and where neither the overflow area nor,
for FOLDDEF, the table lies at a reserved physical range; FOLDDEF faults on such a table. FOLD waits for the group's queue
and its stores; then the records of the guarded lanes whose key an entry in force covers are placed one after another, in increasing lane
number, each where it has room; a guarded lane ends exactly when it is a helper lane or its record was placed; the bins that took a record
form while they hold FILL records; pD is written with 1 in the guarded lanes that do not end and in no other, and no v, m or c register of
the group changes. FOLDDEF puts the 64 bytes that
it loads, an entry in force that is well-formed and clashes with no other, in place of entry sB, FOLDDEF.CLR clears V of entry sB; FOLDF
flushes the bins of entry sA, FOLDF.ALL those of every entry in force. A record goes to the end of its bin where the slice has room. That pD takes
one free value where both its parts name one predicate (log entry 8, DEDUCED), and KIND, INFO and MASK of the fault on the table (log entry 141), are
the model's choices. -/
def Obligations.FoldsComplete : Prop :=
  (∀ (m : Mods) (f : RForm) s c s1, Ready s (.fold m f) c s1 → (s1.launchOf c.team).lrec.foldt ≠ 0 →
    s1.unblocked c (.sqEmpty :: s1.foldFree (s1.keyOf c.team) ++ releaseConds .device) [] →
    (let l := s1.launchOf c.team; s1.areaOpen l.vdev l.lrec.fovf l.lrec.fovfsz) →
    let hit (l : Nat) := foldHit (s1.useFolds (s1.keyOf c.team)).2.1 (s1.rdV c.team c.group l f.a.toNat)
    (∀ l < 32, stores s1 c f.g l → ∀ i e, hit l = some (i, e) → ∀ r ∈ e.regs, r < (s1.budget c.team c.group).1) →
    let key := s1.keyOf c.team
    let u := s1.useFolds key
    let ls := lanesOf (s1.guarded c f.g)
    let record (l : Nat) (e : FoldEntry) : FoldRec :=
      { words := e.regs.map (s1.rdV c.team c.group l), regs := e.regs, home := (s1.lane c.team c.group l).home, ovf := none }
    ∃ t free, ∃ (took : Nat → Bool) (ss : Nat → State) (bins : List (Nat × Word)), exec (.fold m f) s = .next t ∧
      let gone (l : Nat) : Prop := inMask (s1.guarded c f.g) l = true ∧ ((s1.lane c.team c.group l).helper = true ∨ took l = true)
      ss 0 = u.1 ∧
      (∀ k < ls.length, let l := rd ls k
        match (if (s1.lane c.team c.group l).helper = true then none else hit l) with
        | none => took l = false ∧ ss (k + 1) = ss k
        | some (i, e) => match (ss k).placeRec key i (s1.rdV c.team c.group l f.a.toNat) (record l e) with
          | .put q => took l = true ∧ ss (k + 1) = q
          | .nowhere q => took l = false ∧ ss (k + 1) = q
          | .barred _ => False) ∧
      bins.Nodup ∧ (∀ i k, (i, k) ∈ bins ↔ ∃ l ∈ ls, took l = true ∧ s1.rdV c.team c.group l f.a.toNat = k ∧ (hit l).map Prod.fst = some i) ∧
      t = (((((binOrder bins).foldl (fun s b => match u.2.1 b.1 with
          | some e => State.formBinTo key b.1 b.2 e e.fill 32 s
          | none => s) (ss ls.length)).mapLanes c.team c.group
            (maskOf fun l => ls.contains l && ((s1.lane c.team c.group l).helper || took l)) fun _ l => l.foldAway).applyFx c.team c.group
        (maskOf fun l => ls.contains l && !((s1.lane c.team c.group l).helper || took l)) fun _ => { p := predWrites free f.d true }).advance
          (.fold m f) c) ∧
      (∀ l < 32, gone l → (t.lane c.team c.group l).exited = true ∧ (t.lane c.team c.group l).preds = (s1.lane c.team c.group l).preds) ∧
      (∀ l < 32, ¬ gone l → (t.lane c.team c.group l).exited = (s1.lane c.team c.group l).exited ∧
        (t.lane c.team c.group l).query = (s1.lane c.team c.group l).query ∧
        (t.lane c.team c.group l).preds = if inMask (s1.guarded c f.g) l then
          setPreds (s1.lane c.team c.group l).preds (predWrites free f.d true) else (s1.lane c.team c.group l).preds) ∧
      (∀ l < 32, (t.lane c.team c.group l).v = (s1.lane c.team c.group l).v ∧ (t.lane c.team c.group l).m = (s1.lane c.team c.group l).m ∧
        (t.lane c.team c.group l).c = (s1.lane c.team c.group l).c)) ∧
  (∀ (m : Mods) (f : RForm) s c s1, Ready s (.folddef m f) c s1 → (s1.launchOf c.team).lrec.foldt ≠ 0 →
    let key := s1.keyOf c.team
    let i := (s1.rdS c f.b.toNat).toNat
    i < 16 → s1.onlyHelpers c = false →
    (m.clsBit 0 = true → s1.unblocked c (s1.foldFree key) [] →
      let u := s1.useFolds key
      let raw := match u.1.launch? key with | some l => rd l.foldTab i | none => []
      let tab := (u.1.launchOf c.team).lrec.foldAt i
      (u.1.barred (u.1.launchOf c.team).vdev tab 64 = false →
        exec (.folddef m f) s = .next ((u.1.installFold key i (raw.set 12 (rd raw 12 &&& 0x7F))).advance (.folddef m f) c)) ∧
      (u.1.barred (u.1.launchOf c.team).vdev tab 64 = true →
        exec (.folddef m f) s = .next (s.takeFault c (0x22, 0) { cls := 4, mask := c.act, kind := 6, info := 5, va := tab }))) ∧
    (m.clsBit 0 = false → ∀ p no, s1.placeAll (s1.vdevOf c.team) [⟨lowest c.act, s1.pairS c f.a.toNat, 64⟩] .read 64 kindRead false = .ok ([p], no) →
      s1.unblocked c (s1.loadConds c.team c.group false [p] ++ s1.foldFree key) [] →
      let s2 := s1.loadPrep c.team false (linesOf [p])
      let bs := s2.loadBytes c.team c.group false p
      let e := foldEntry (s1.launchOf c.team).lrec.foldBudget bs
      let u := s2.useFolds key
      e.v = true → e.ok = true → (∀ j < 16, j ≠ i → ∀ x, u.2.1 j = some x → e.clash x = false) →
      u.1.barred (u.1.launchOf c.team).vdev ((u.1.launchOf c.team).lrec.foldAt i) 64 = false →
      exec (.folddef m f) s = .next ((u.1.installFold key i bs).advance (.folddef m f) c))) ∧
  (∀ (m : Mods) (f : RForm) s c s1, Ready s (.foldf m f) c s1 → (s1.launchOf c.team).lrec.foldt ≠ 0 →
    let u := s1.useFolds (s1.keyOf c.team)
    let i := (s1.rdS c f.a.toNat).toNat
    (m.clsBit 0 = true ∨ i < 16) → s1.onlyHelpers c = false → s1.unblocked c (s1.foldFree (s1.keyOf c.team)) [] →
    exec (.foldf m f) s = .next ((u.1.flushBins (s1.keyOf c.team) u.2.2 fun e _ => (m.clsBit 0 || e == i) && (u.2.1 e).isSome).advance
      (.foldf m f) c)) ∧
  (∀ (s : State) (key entry : Nat) (k : Word) (r : FoldRec) (l : Launch), s.launch? key = some l →
    s.foldUse (s.binHome l entry k) + foldBytes r ≤ 65536 →
    ∃ t, s.placeRec key entry k r = .put t ∧ (t.launch? key).map (fun l => l.binRecs entry k) = some (l.binRecs entry k ++ [r]))

/-- BLEND completes where its lanes reach their pixels and the lines are free: each lane's blend is one step at the commons, or is held
with its token; BRAND declares the lines, and a brand so gained may spill to the brand area (log entry 40); PHASE arrives at the barrier of the next serial phase and leaves once it has been taken. -/
def Obligations.CommonsComplete : Prop :=
  (∀ (m : Mods) (f : RForm) s c s1 ps no,
    let key := s1.keyOf c.team
    let fmt := m.clsField 0 2
    let token := if m.clsBit 4 then none else s1.token? c.team
    let rs : List Req := (s1.storing c f.g).map fun l => ⟨l, s1.pairV c l f.a.toNat, pixelBytes fmt⟩
    let held := match token with | some t => !s1.tokenDue (s1.launchOf c.team) t | none => false
    Ready s (.blend m f) c s1 → (m.clsBit 4 = true ∨ token ≠ none) →
    s1.placeAll (s1.vdevOf c.team) rs .rmw (pixelBytes fmt) kindRmw false = .ok (ps, no) →
    (s1.storing c f.g = [] → ∃ t, exec (.blend m f) s = .next t ∧ Computed s1 t (.blend m f) c 0 fun _ => {}) ∧
    (s1.storing c f.g ≠ [] → s1.unblocked c ([.sqEmpty, .unowned ((linesOf ps).map LineKey.mem), .linesClean (linesOf ps)] ++
        if held then [.holdRoom ((linesOf ps).map fun x => (x, (ps.filter fun p => p.segs.any fun q =>
          homeSlice (lineOf q.1) == homeSlice x).length))] else []) [] →
      exec (.blend m f) s = .next ((ps.foldl (fun t p =>
        State.blendLane c s1 key fmt (m.clsField 2 2) held token (s1.rdVs c.team c.group p.lane f.b.toNat 4) t p)
          ((s1.applyHeld key).modLaunch key fun l => { l with ordered := l.ordered || token.isSome })).advance (.blend m f) c))) ∧
  (∀ (s : State) (key seq : Nat) (home : Nat × Nat × Nat) (addr fmt eq : Nat) (src : List Word),
    (∀ l, s.launch? key = some l → l.lrec.det = false) → s.regionOf (lineOf addr) = none → s.packedOver (lineOf addr) = [] → s.Inv →
    let n := pixelBytes fmt
    (s.blendStep key seq home addr fmt eq src).2 = false ∧
    ∀ a, Memory.get (s.blendStep key seq home addr fmt eq src).1.mem a =
      if addr ≤ a ∧ a < addr + n then rd (leBytes n (blendPixel fmt eq (leNat (Memory.read s.mem addr n)) src)) (a - addr)
      else Memory.get s.mem a) ∧
  (∀ (m : Mods) (f : RForm) s c s1, Ready s (.brand m f) c s1 → (s1.launchOf c.team).lrec.det = true →
    let count (l : Nat) : Nat := (s1.rdV c.team c.group l f.b.toNat).toNat
    let image := m.clsField 0 2 != 2
    let lines (l : Nat) := s1.brandLines image (s1.vdevOf c.team) (s1.pairV c l f.a.toNat) (count l)
    (∀ l ∈ s1.storing c f.g, count l ≤ 65536 ∧ (lines l).2 = []) →
    exec (.brand m f) s = .next (((s1.storing c f.g).foldl (fun s l => (lines l).1.foldl (fun s x =>
      State.spillBrand ((if image then s.prepLine x else s).modLaunch (s1.keyOf c.team) fun y => y.declare (m.clsField 0 2)
        (s.lane c.team c.group l).home.1 x ((if image then s.prepLine x else s).cpLine x)) (s1.keyOf c.team) x) s) s1).advance (.brand m f) c)) ∧
  (∀ (m : Mods) (f : RForm) s c s1, Ready s (.phase m f) c s1 → (s1.launchOf c.team).lrec.det = true → s1.onlyHelpers c = false →
    let sc := m.scopeD .device
    let came := ((s1.recorded c).bind WaitRec.phase?).or (s1.group c.team c.group).phased
    (came = none → s1.unblocked c (s1.arrivalConds c sc) [] → ∃ t, exec (.phase m f) s = .next t ∧ Kept s1 t c ∧
      (t.group c.team c.group).phased = some (s1.launchOf c.team).phases ∧
      ∀ l < 32, inMask c.act l = true → (t.lane c.team c.group l).pc = (s1.lane c.team c.group l).pc ∧
        (t.lane c.team c.group l).wait.bind WaitRec.phase? = some (s1.launchOf c.team).phases) ∧
    (∀ n, came = some n → n < (s1.launchOf c.team).phases → s1.unblocked c [] [] → exec (.phase m f) s = .next
      (((s1.modGroup c.team c.group fun g => { g with phased := if g.phased == some n then none else g.phased }).acquire c.core sc).advance
        (.phase m f) c)))

end FoldsAndCommons

section Graphs

/-- EMIT completes where the pen's overflow area lies at no reserved physical range: the records of the storing lanes, each the pen's SIZE bytes of the lane's registers from vB, are placed in the pen one
after another, in increasing lane number; pD says of each lane whether the pen took its record; then the pen forms while it holds CNT
records. A record goes to the end of a pen that is in force and whose slice has room. PUBV completes: it gives the tile its next version
with its quality, data and producer, and offers it to the board's subscriptions in force, or, where the tile is final, stopped or at the
last version, changes nothing of it, and its pD says which; where an offer would place its record at a reserved range, it faults. An Offer that the q test declines deals with the version; otherwise the record
is placed in the subscribing pen and the version counts as delivered, and where it cannot be placed it stays owed. That PUBV writes pD in
the lanes that are no helper lanes only (log entry 91), and that a publish of any tile of a board goes to each of the board's
subscriptions (log entry 90), is the model's choice; so are the moment at which what is owed to a pen that is in force again is retried, and the
replacement in latest mode of the record of the same board, tile and subscription (log entry 77, DEDUCED), and that pD takes one free value where
both its parts name one predicate (log entry 8, DEDUCED), and the fault of PUBV at a reserved range (log entry 141). -/
def Obligations.EmitAndPublish : Prop :=
  (∀ (m : Mods) (f : RForm) s c s1, Ready s (.emit m f) c s1 →
    let e := (s1.usePens (s1.keyOf c.team)).2 (s1.rdS c f.a.toNat).toNat
    let reads := match s1.team? c.team with
      | some t => t.twinReads c.group (maskOf (s1.storing c f.g).contains) ((List.range e.regs).map fun j => f.b.toNat + j)
      | none => []
    (s1.launchOf c.team).lrec.pent ≠ 0 → (s1.rdS c f.a.toNat).toNat < 16 → e.v = true →
    f.b.toNat + e.regs ≤ min (s1.budget c.team c.group).1 64 →
    s1.unblocked c (s1.graphFree (s1.keyOf c.team) ++ if reads.isEmpty then [] else [.twinFull reads]) [] →
    shpReleased s1 c m .plain → s1.areaOpen (s1.launchOf c.team).vdev e.ovf e.ovfsz →
    let key := s1.keyOf c.team
    let i := (s1.rdS c f.a.toNat).toNat
    let p := s1.usePens key
    let b := p.1.useBoards key
    let ls := s1.storing c f.g
    let record (l : Nat) : PenRec := { data := (bytesOf (s1.rdVs c.team c.group l f.b.toNat e.regs)).take e.size, src := none, ovf := none }
    ∃ t free, ∃ (took : Nat → Bool) (ss : Nat → State), exec (.emit m f) s = .next t ∧
      ss 0 = b.1.retryOwed key p.2 b.2 ∧
      (∀ k < ls.length, match (ss k).placePen key i e (record (rd ls k)) with
        | .put q => took (rd ls k) = true ∧ ss (k + 1) = q
        | .nowhere q => took (rd ls k) = false ∧ ss (k + 1) = q
        | .barred _ => False) ∧
      t = (((((ss ls.length).tend key p.2 b.2 i).modTeam c.team fun t => t.twinTake c.group reads).applyFx c.team c.group
        (maskOf ls.contains) fun l => { p := predWrites free f.d (took l) }).advance (.emit m f) c) ∧
      OnlyPreds s1 t c (· ∈ ls) fun l => predWrites free f.d (took l)) ∧
  (∀ (s : State) (key i : Nat) (e : PenEntry) (r : PenRec) (l : Launch), s.launch? key = some l →
    (e.v = false → s.placePen key i e r = .nowhere s) ∧
    (e.v = true → s.penUse (penHome l.vdev i) + penBytes r ≤ 65536 →
      ∃ t, s.placePen key i e r = .put t ∧ (t.launch? key).map (fun l => rd l.pens i) = some (rd l.pens i ++ [r]))) ∧
  (∀ (m : Mods) (f : RForm) s c s1, Ready s (.pubv m f) c s1 → s1.onlyHelpers c = false → TileInForce s1 c (s1.rdS c f.a.toNat) →
    s1.unblocked c (s1.graphFree (s1.keyOf c.team)) [] → shpReleased s1 c m .plain →
    let b := bits (s1.rdS c f.a.toNat) 24 4
    let k := bits (s1.rdS c f.a.toNat) 0 24
    let x := (s1.launchOf c.team).tile b k
    let fails := x.stopped || x.final || x.ver == 65535
    let u := s1.useBoards (s1.keyOf c.team)
    let p := u.1.usePens (s1.keyOf c.team)
    let s2 := p.1.retryOwed (s1.keyOf c.team) p.2 u.2
    let o : State × Option VAddr := if fails then (s2, none) else (s2.modTile (s1.keyOf c.team) b k fun x => { x with
      ver := x.ver + 1, qual := s1.rdS c (f.b.toNat + 2), prod := s1.rdS c (f.b.toNat + 3)
      data := pair (s1.rdS c f.b.toNat) (s1.rdS c (f.b.toNat + 1)), final := x.final || m.clsBit 0 }).offerAll (s1.keyOf c.team) p.2 u.2 b k
    (∀ va, o.2 = some va → exec (.pubv m f) s = .next (s.takeFault c (0x24, 1) { cls := 4, mask := c.act, kind := 6, info := 5, va := va })) ∧
    (o.2 = none → ∃ t free, exec (.pubv m f) s = .next t ∧
      t = (o.1.applyFx c.team c.group
        (maskOf fun l => inMask c.act l && !(s1.lane c.team c.group l).helper) fun _ => { p := predWrites free f.d (!fails) }).advance (.pubv m f) c ∧
      OnlyPreds s1 t c (fun l => inMask c.act l = true ∧ (s1.lane c.team c.group l).helper = false) (fun _ => predWrites free f.d (!fails)) ∧
      let y := (t.launchOf c.team).tile b k
      { y with subs := [] } = if fails then { x with subs := [] } else
        { x with subs := [], ver := x.ver + 1, qual := s1.rdS c (f.b.toNat + 2), prod := s1.rdS c (f.b.toNat + 3)
                 data := pair (s1.rdS c f.b.toNat) (s1.rdS c (f.b.toNat + 1)), final := x.final || m.clsBit 0 })) ∧
  (∀ (s : State) key (pens : Nat → PenEntry) (boards : Nat → BoardEntry) (b t u : Nat) (l : Launch), s.launch? key = some l →
    let e := l.tile b t
    let sub := rd (boards b).subs u
    let st := rd e.subs u
    let mark (f : SubState → SubState) (s : State) : State := s.modTile key b t fun x => { x with subs := wr x.subs u (f (rd x.subs u)) }
    let no : Prop := e.final = false ∧ 0 < st.dver ∧ sub.qen = true ∧ declines e.qual sub.q st.dqual = true
    let r : PenRec := { data := (bytesOf [tileWord b t, e.stateWord, e.qual, BitVec.ofNat 32 u] ++
                          List.replicate (pens sub.pen).size 0).take (pens sub.pen).size, src := some (b, t, u), ovf := none }
    (no → s.offerRec key pens boards b t u = (mark (fun x => { x with aver := e.ver }) s, none)) ∧
    (¬ no → (sub.mode = false ∨ (pens sub.pen).v = false ∨ ∀ q ∈ rd l.pens sub.pen, q.src ≠ some (b, t, u)) →
      s.offerRec key pens boards b t u = match s.placePen key sub.pen (pens sub.pen) r with
        | .put s1 => (mark (fun _ => { dver := e.ver, aver := e.ver, dqual := e.qual }) s1, none)
        | .nowhere s1 => (s1, none)
        | .barred va => (s, some va)) ∧
    (¬ no → sub.mode = true → (pens sub.pen).v = true → ∀ q, (rd l.pens sub.pen).find? (fun q => q.src == some (b, t, u)) = some q →
      q.ovf = none → s.offerRec key pens boards b t u = (mark (fun _ => { dver := e.ver, aver := e.ver, dqual := e.qual })
        (s.modLaunch key fun l => { l with pens := wr l.pens sub.pen ((rd l.pens sub.pen).map fun x =>
          if x.src = some (b, t, u) then { x with data := r.data } else x) }), none)))

/-- VWAIT leaves once the tile's version has passed sB or the tile is final or stopped; VCHK and VGET answer the tile's state; VSTOP stops
it and settles its subscriptions; LNCH reads its launch record and answers the number of the launch. -/
def Obligations.TilesAndLaunchesComplete : Prop :=
  (∀ (m : Mods) (f : RForm) s c s1, s1.onlyHelpers c = false → TileInForce s1 c (s1.rdS c f.a.toNat) →
    s1.unblocked c (s1.graphFree (s1.keyOf c.team)) [] →
    let u := (s1.useBoards (s1.keyOf c.team)).1
    let b := bits (s1.rdS c f.a.toNat) 24 4
    let k := bits (s1.rdS c f.a.toNat) 0 24
    let x := (s1.launchOf c.team).tile b k
    let after (dflt : Order) (s : State) : State := if ordAcq (m.orderD dflt) then s.acquire c.core (m.scopeD .device) else s
    (Ready s (.vwait m f) c s1 → (bits (s1.rdS c f.b.toNat) 0 16 < x.ver ∨ x.final = true ∨ x.stopped = true) →
      exec (.vwait m f) s = .next ((after .acq u).advance (.vwait m f) c)) ∧
    (Ready s (.vwait m f) c s1 → x.ver ≤ bits (s1.rdS c f.b.toNat) 0 16 → x.final = false → x.stopped = false →
      ∃ cs sn, exec (.vwait m f) s = .next (s.standBy c cs sn (parkReg (s1.rdS c (f.b.toNat + 1))))) ∧
    (Ready s (.vchk m f) c s1 → exec (.vchk m f) s = .next ((after .plain (u.applyFx c.team c.group c.act fun _ =>
      { s := [(f.d.toNat, x.stateWord)] })).advance (.vchk m f) c)) ∧
    (Ready s (.vget m f) c s1 → exec (.vget m f) s = .next ((after .acq (u.applyFx c.team c.group c.act fun _ =>
      { s := [(f.d.toNat, x.data.extractLsb' 0 32), (f.d.toNat + 1, x.data.extractLsb' 32 32), (f.d.toNat + 2, x.qual),
              (f.d.toNat + 3, x.stateWord)] })).advance (.vget m f) c)) ∧
    (Ready s (.vstop m f) c s1 → shpReleased s1 c m .plain → ∃ t, exec (.vstop m f) s = .next t ∧ Kept s1 t c ∧
      let y := (t.launchOf c.team).tile b k
      { y with subs := [] } = { x with subs := [], stopped := true } ∧ ∀ j < 4, rd y.subs j = { rd x.subs j with aver := x.ver })) ∧
  (∀ (t : Tile), t.ver < 65536 → bits t.stateWord 0 16 = t.ver ∧ t.stateWord.getLsbD 16 = t.final ∧ t.stateWord.getLsbD 17 = t.stopped) ∧
  (∀ (m : Mods) (f : RForm) s c s1 p no, Ready s (.lnch m f) c s1 → s1.onlyHelpers c = false →
    s1.placeAll (s1.vdevOf c.team) [⟨lowest c.act, s1.pairS c f.a.toNat, 256⟩] .read 64 kindRead false = .ok ([p], no) →
    let s2 := s1.loadPrep c.team false (linesOf [p])
    let bs := s2.loadBytes c.team c.group false p
    s1.unblocked c (s1.loadConds c.team c.group false [p] ++
      (s1.recordAreas (s1.vdevOf c.team) (parseRecord bs)).map fun a => .rangeFree a.1 a.2) [] → shpReleased s1 c m .rel →
    let a := s2.accept (s1.vdevOf c.team) bs .device (s1.launchOf c.team).lrec.prio 0 0 0
    exec (.lnch m f) s = .next ((a.state.applyFx c.team c.group c.act fun _ => { s := [(f.d.toNat, BitVec.ofNat 32 a.num)] }).advance
      (.lnch m f) c))

end Graphs

section Events

/-- The moves of the ordering machine: DRAIN takes the head of a store queue into the view, where each line gets the write of its bytes behind
those that stand there, or into the scratchpad, whose bytes it writes; PROPAGATE takes the oldest
write of a view to its line's commons point, REFRESH brings or drops the copy, SAVED_DRAIN does both at once for a saved team. That a move
that is not enabled changes nothing is the model's choice (log entry 79), and so is that there is no copy of a line that cannot be decoded
(log entry 27). -/
def Obligations.OrderingMoves : Prop :=
  (∀ (s : State) tm g t, s.team? tm = some t →
    (t.core? ≠ none → s.drainReady tm g = true → exec (.drain tm g) s = .next (s.drainHead tm g) ∧
      ((s.drainHead tm g).group tm g).sq = (headBatch (s.group tm g).sq).2 ∧ (∀ a, Memory.get (s.drainHead tm g).mem a = Memory.get s.mem a) ∧
      ∀ e es, (headBatch (s.group tm g).sq).1 = e :: es →
        (e.scratch = false → (∀ k a, (s.drainHead tm g).spByte k a = s.spByte k a) ∧
          (∀ k, k ≠ s.coreOf tm → (s.drainHead tm g).core k = s.core k) ∧
          ∀ x, (((s.drainHead tm g).core (s.coreOf tm)).line x).pend = ((s.core (s.coreOf tm)).line x).pend ++
            (batchWrites (s.launchOf tm).lrec.det tm g (e :: es)).filter fun w => w.cells.head?.any fun p => lineOf p.1 == x) ∧
        (e.scratch = true → (s.drainHead tm g).cores = s.cores ∧ (∀ k a, k ≠ tm → (s.drainHead tm g).spByte k a = s.spByte k a) ∧
          (Memory.wf t.sp = true → ∀ a, (s.drainHead tm g).spByte tm a =
            match (e.slots.flatMap fun q => cellsAt q.phys q.data).reverse.find? fun p => p.1 == a with | some p => p.2 | none => s.spByte tm a))) ∧
    (t.core? ≠ none → s.drainReady tm g = true → ∃ e es, (headBatch (s.group tm g).sq).1 = e :: es) ∧
    (t.core? = none ∨ s.drainReady tm g = false → exec (.drain tm g) s = .next s)) ∧
  (∀ (s : State) c x w rest, ((s.core c).line x).pend = w :: rest → s.owned (.mem x) = false → ∃ t, exec (.propagate c x) s = .next t ∧
    ((t.core c).line x).pend = rest ∧
    ((∀ k l, s.team? w.team = some k → s.launch? k.launch = some l → l.lrec.det = false) → plainLine s x → s.Inv →
      (∀ k, s.launch? 0 = some k → s.team? w.team = none → k.lrec.det = false) →
      ∀ a, Memory.get t.mem a = match w.cells.reverse.find? fun p => p.1 == a with | some p => p.2 | none => Memory.get s.mem a)) ∧
  (∀ (s : State) c x, (((s.core c).line x).pend = [] ∨ s.owned (.mem x) = true) → exec (.propagate c x) s = .next s) ∧
  (∀ (s : State) c x, ((s.core c).line x).pend = [] → s.owned (.mem x) = false →
    (∃ t, exec (.refresh c x true) s = .next t ∧ ((t.core c).line x).copy = none) ∧
    (s.undecodable x = true → exec (.refresh c x false) s = .next s) ∧
    ((physKind (128 * x) = .hbm ∨ physKind (128 * x) = .lpddr) → s.undecodable x = false → ∃ t, exec (.refresh c x false) s = .next t ∧
      ((t.core c).line x).copy = some (Memory.read (s.prepLine x).mem (128 * x) 128))) ∧
  (∀ (s : State) tm g t e es rest, s.team? tm = some t → t.place = .saved → headBatch (s.group tm g).sq = (e :: es, rest) →
    e.scratch = false → let ws := batchWrites (s.launchOf tm).lrec.det tm g (e :: es)
    (∀ w ∈ ws, ∀ p ∈ w.cells, s.owned (.mem (lineOf p.1)) = false ∧ ((s.core t.lastCore).line (lineOf p.1)).pend = []) →
    s.savedRelease t g e = true →
    exec (.savedDrain tm g) s = .next (ws.foldl (fun s w => (s.cpStore t.launch w.id w.home (lineOf ((w.cells.headD (0, 0)).1)) w.cells w.whole).1)
      (s.modGroup tm g fun gr => { gr with sq := rest })))

/-- The moves of twins, runs, the table path, the format regions and the error-line table, each where it is enabled. -/
def Obligations.CoreAndTableMoves : Prop :=
  (∀ (s : State) tm g t k tw, s.team? tm = some t → t.twinOf g = some (k, tw) → k < t.twins.length → ∃ t', exec (.twinFull tm g) s = .next t' ∧
    ∃ tw', (t'.team? tm).bind (fun x => x.twins[k]?) = some tw' ∧ ∀ j x ids, j < tw.regs.length →
      (rd tw.regs j).pend = some (x, ids) → ((rd tw.regs j).writer = if tw.prod = g then .producer else .consumer) →
      (∀ e ∈ (rd t.groups g).sq, e.id ∉ ids) → (rd tw'.regs j).full = true ∧ (rd tw'.regs j).val = x) ∧
  (∀ (s : State) c slot o, slot < 4 → slot < (s.core c).slots.length → rd (s.core c).slots slot = none →
    let s1 := (s.teams.filter fun t => t.place == .resident c).foldl (fun s t =>
      (List.range t.groups.length).foldl (fun s g => if s.granted t.id g then s else s.represent t.id g) s) s
    chooseGrant (s1.offered c) (rd (s1.core c).last slot) = some o → ∃ t, exec (.runGrant c slot) s = .next t ∧
      rd (t.core c).slots slot = some { team := o.team, group := o.group, slice := o.slice }) ∧
  (∀ (s : State) c x, s.owned (.mem x) = false → s.undecodable x = false → exec (.fill c x) s = .next (s.lcFill c x) ∧
    (s.lcFill c x).lc? c x = some (Memory.read (s.prepLine x).mem (128 * x) 128)) ∧
  (∀ (s : State) c x, ∃ t, exec (.tableDrop c x) s = .next t ∧ t.lc? c x = none) ∧
  (∀ (s : State) c v va segs, let a := va - BitVec.ofNat 64 (va.toNat % 128)
    s.place v ⟨0, a, 1024⟩ .read = .ok segs → (∀ q ∈ segs, s.owned (.mem (lineOf q.1)) = false ∧ s.undecodable (lineOf q.1) = false) →
    ∃ t, exec (.weightFill c v va) s = .next t ∧ (t.wc? c v a).isSome = true ∧ (t.core c).wc.length ≤ 16) ∧
  (∀ (s : State) c v a, ∃ t, exec (.weightDrop c v a) s = .next t ∧ t.wc? c v a = none) ∧
  (∀ (s : State) y, s.regionOf y ≠ none → (∀ p ∈ s.decoded, p.1 ≠ y) → s.decodeBad y = false →
    ∃ t, exec (.decode y) s = .next t ∧ ∃ d, (y, d) ∈ t.decoded) ∧
  (∀ (s : State) y d, (y, d) ∈ s.decoded → true ∈ d → s.ownedKey (.mem y) = false → exec (.encode y) s = .next (s.encodeLine y)) ∧
  (∀ (s : State) y d, (y, d) ∈ s.decoded → true ∉ d → s.ownedKey (.mem y) = false →
    ∃ t, exec (.decodedLineDrop y) s = .next t ∧ ∀ p ∈ t.decoded, p.1 ≠ y) ∧
  (∀ (s : State) c x, s.packedLine x = true → s.packedOver x = [] → s.owned (.mem x) = false → exec (.packedAccess c x) s =
    .next (if ((s.core c).line x).pend.isEmpty then s.refreshLine c x else s.propagateLine c x)) ∧
  (∀ (s : State) x, (physKind (128 * x) = .hbm ∨ physKind (128 * x) = .lpddr) → ∃ t, exec (.memoryErrorDetect x) s = .next t ∧
    t.errHit x = true ∧ (∀ y, s.errHit y = true → t.errHit y = true) ∧ ∀ a, Memory.get t.mem a = Memory.get s.mem a) ∧
  (∀ (s : State) slot f pa, s.feedback.find? (fun q => q.slot == slot) = some f → s.translate f.vdev (BitVec.ofNat 64 f.addr) .write = .ok pa →
    s.lineFault (.mem (lineOf pa)) = none → f.data ≠ [] → ∃ t w, exec (.feedbackWrite slot) s = .next t ∧ (∀ q ∈ t.feedback, q.slot ≠ slot) ∧
      ((t.core f.core).line (lineOf pa)).pend = ((s.core f.core).line (lineOf pa)).pend ++ [w] ∧ w.cells = cellsAt pa f.data ∧
      ∀ a, Memory.get t.mem a = Memory.get s.mem a)

/-- The moves of copy and matrix entries: a read takes one whole line in one step, as it stands at its commons point or as the phase image shows
it; a write puts all the entry's bytes of a line there, or in the scratchpad, in one step, changes no other byte and gives up the line, a completion
takes the entry's bytes off its hurdle and ends the entry; the matrix engine grants one pass at a time, and a pass writes its rows in one
step or records why it stops; a row block of an ACST takes its rows' bytes from the tile, which engine writes store line by line. That a
stop comes before the test for a negative variance (log entry 60), that a line of an ACST is written once every row that touches it has been
taken (log entry 62), and when a tile is claimed (log entry 58) are the model's choices. -/
def Obligations.EngineMoves : Prop :=
  (∀ (s : State) id k e, s.entry? id = some e → k ∈ e.reads → s.ownedBefore id k = false → ∃ t x, exec (.engineRead id k) s = .next t ∧
    (t.entry? id).map (fun e => (e.reads, e.buf)) = some (e.reads.filter fun q => q != k, e.buf ++ [(k, x)]) ∧
    x = (s.prepKey k).engineLine e k ∧ (∀ tm b, k = .sp tm b → x = (List.range 128).map fun j => s.spByte tm (128 * b + j)) ∧
    ∀ y, k = .mem y → plainLine s y → x = ((s.launchOf e.team).image? e.home.1 y).getD (Memory.read s.mem (128 * y) 128)) ∧
  (∀ (s : State) id k e fn segs n, s.entry? id = some e → e.work = .copy fn segs n → k ∈ e.writes → s.ownedBefore id k = false →
    e.fed k = true → k ∉ e.reads → exec (.engineWrite id k) s = .next (s.copyWrite e k) ∧
      ((s.copyWrite e k).entry? id).map (fun e => e.writes) = some (e.writes.filter fun q => q != k) ∧
      (∀ t b tm, k = .sp t b → s.team? t = some tm → (∀ a, Memory.get (s.copyWrite e k).mem a = Memory.get s.mem a) ∧
        (∀ j a, j ≠ t → (s.copyWrite e k).spByte j a = s.spByte j a) ∧
        (Memory.wf tm.sp = true → ∀ a, (s.copyWrite e k).spByte t a =
          match (e.cellsFor k).reverse.find? fun p => p.1 == a with | some p => p.2 | none => s.spByte t a)) ∧
      (∀ x, k = .mem x → s.lineFault k = none → s.storesAtOnce e.team → plainLine s x → s.Inv →
        (∀ j a, (s.copyWrite e k).spByte j a = s.spByte j a) ∧ ∀ a, Memory.get (s.copyWrite e k).mem a =
          match (e.cellsFor k).reverse.find? fun p => p.1 == a with | some p => p.2 | none => Memory.get s.mem a)) ∧
  (∀ (s : State) id e r x, s.entry? id = some e → e.work = .acst r → .mem x ∈ e.writes → s.ownedBefore id (.mem x) = false →
    .mem x ∉ r.left → exec (.engineWrite id (.mem x)) s = .next (s.acstWrite e r x) ∧
      ((s.acstWrite e r x).entry? id).map (fun e => e.writes) = some (e.writes.filter fun q => q != .mem x) ∧
      (s.lineFault (.mem x) = none → s.storesAtOnce e.team → plainLine s x → s.Inv → ∀ a, Memory.get (s.acstWrite e r x).mem a =
        match (r.cells.filter fun p => lineOf p.1 == x).reverse.find? fun p => p.1 == a with | some p => p.2 | none => Memory.get s.mem a)) ∧
  (∀ (s : State) id e r row, s.entry? id = some e → e.work = .mat r → r.rp = some row → r.claimed = true → s.owned (.mem (lineOf r.paddr)) = false →
    exec (.engineWrite id (.mem (lineOf r.paddr))) s = .next (s.progressWrite e r row) ∧
    (s.storesAtOnce e.team → plainLine s (lineOf (r.paddr + 27)) → s.Inv → ∀ a, Memory.get (s.progressWrite e r row).mem a =
      if a = r.paddr + 27 then BitVec.ofNat 8 row else Memory.get s.mem a)) ∧
  (∀ (s : State) id e fn segs n, s.entry? id = some e → e.work = .copy fn segs n → s.completable e = true →
    exec (.complete id) s = .next ((s.completeEntry e).teams.foldl (fun s t => ((s.postCopies t.id).postMats t.id).repost t.id)
      (s.completeEntry e)) ∧ (∀ x ∈ (s.completeEntry e).entries, x.id ≠ e.id) ∧
      ∀ tm off, s.team? e.team = some tm → e.hurdle = some off → Memory.wf tm.sp = true → ((s.completeEntry e).team? e.team).map (fun x => x.hurdle off) =
        some ({ tm.hurdle off with bytes := (tm.hurdle off).bytes - BitVec.ofNat 32 n } : Hurdle).flip) ∧
  (∀ (s : State) id o, s.fq.find? (fun o => o.id == id) = some o → ∃ t, exec (.fabricDelivery id) s = .next t ∧ (∀ q ∈ t.fq, q.id ≠ id) ∧
    (o.get = true → ∀ e, s.entry? o.entry = some e → ∃ x, (t.entry? o.entry).map (fun e => e.rbuf) = some (e.rbuf ++ [(.remote o.device o.handle o.off, x)]) ∧
      (x = [] ∨ x.length = o.len))) ∧
  (∀ (s : State) cl, s.running? cl = none → (∃ e ∈ s.table cl, s.grantable e = true) → ∃ t, exec (.matrixGrant cl) s = .next t ∧
    (t.running? cl).isSome = true) ∧
  (∀ (s : State) cl e r, s.running? cl = some e → e.work = .mat r → e.reads = [] →
    (∀ x, (r.stop = some x ∨ (r.stop = none ∧ ∃ va, (e.operands r).negVar r = some va ∧ x = (8, va))) → s.holdsTiles e = true → exec (.matrixPass cl) s =
      .next ((s.agePass cl e.id).modEntry e.id fun e =>
        { e with work := .mat { r with granted := false, claimed := true, stop := some x, rp := some (r.rows.headD 0 / 16 * 16) }, buf := [] })) ∧
    (r.stop = none → (e.operands r).negVar r = none → s.holdsTiles e = true →
      let rest := r.rows.filter fun i => i / 16 != r.rows.headD 0 / 16
      exec (.matrixPass cl) s = .next (((s.agePass cl e.id).writePass e r (e.operands r)).modEntry e.id fun e => { e with
        work := .mat { r with granted := false, claimed := true, rows := rest, rp := if rest.isEmpty ∧ r.rprog ≠ 0 then some 0 else none }, buf := [] }))) ∧
  (∀ (s : State) (e : Entry) (r : MatReq) (o : Operands) k, k < r.tileNos.length → r.n ≤ 128 → let tile := rd r.tileNos k
    ((s.tileWords e.unit tile).length = 16384 → ∀ row col, row < 128 → col < 128 →
      rd ((s.writePass e r o).tileWords e.unit tile) (128 * row + col) = if row ∈ r.passRows ∧ col < r.n then
        rd (o.result r (r.tileNos.map fun t => rd (s.tileWords e.unit t) (128 * row + col)) row col) k
      else rd (s.tileWords e.unit tile) (128 * row + col)) ∧
    ∀ h ∈ s.tiles, (h.cluster ≠ e.unit ∨ h.tile ∉ r.tileNos) → h ∈ (s.writePass e r o).tiles) ∧
  (∀ (s : State) cl e r, s.running? cl = some e → e.work = .acst r → s.holdsTiles e = true → ∃ t, exec (.acstRowBlock cl) s = .next t ∧
    (t.entry? e.id).map (fun e => e.work) = some (.acst { r with
      next := r.next + 16, granted := false, claimed := true, cells := r.cells ++ r.block.flatMap fun p =>
        rowCells ((List.range r.cols).flatMap fun j => acstBytes r.fmt (rd (s.tileWords cl r.tile) (128 * p.1 + j))) p.2 })) ∧
  (∀ (s : State) id e, s.entry? id = some e → s.claimable e = true → ∃ t, exec (.tileClaim id) s = .next t ∧
    t.tiles = (e.work.tiles.foldl (fun s k => s.claim e.unit e.team k) s).tiles)

/-- The moves of traversals: a line is read once, an offer is a step of its own, a ray that has no offer left lands, the instruction leaves
when its whole batch has landed, and a unit's error restarts those of its rays that have not landed. That a second read of a line does
nothing and when an offer is made (log entry 69), and that a ray's unit is its number modulo 4 (log entry 119), are the model's choices. -/
def Obligations.TraversalMoves : Prop :=
  (∀ (s : State) id line f, s.flights.find? (fun f => f.vis && f.id == id) = some f → s.owned (.mem line) = false →
    (∀ l ∈ f.lines, l.1 ≠ line) → f.landing = none → ∃ t bs, exec (.traceRead id line) s = .next t ∧
      t.flights = s.flights.map (fun q => if q.id == id then { q with lines := q.lines ++ [(line, bs)] } else q) ∧
      (s.lineFault (.mem line) = none → plainLine s line →
        bs = s.lineFor f.team (s.lane f.team f.group f.lane).home.1 line)) ∧
  (∀ (s : State) id line f, s.flights.find? (fun f => f.vis && f.id == id) = some f → (∃ l ∈ f.lines, l.1 = line) →
    exec (.traceRead id line) s = .next s) ∧
  (∀ (s : State) id f, s.flights.find? (fun f => f.vis && f.id == id) = some f → f.landing = none → s.toOffer f ≠ [] →
    ∃ k ∈ s.toOffer f, k ∉ f.offered ∧ exec (.traversalComplete id) s = .next (s.offerStep f k) ∧
      (s.ringFree f.team f.group f.core = true → s.offerStep f k =
        { s.offer f k with flights := (s.offer f k).flights.map fun q => if q.id == f.id then { q with offered := q.offered ++ [k] } else q })) ∧
  (∀ (s : State) id f r, s.flights.find? (fun f => f.vis && f.id == id) = some f → f.landing = none → (s.launchOf f.team).lrec.ring = 0 →
    ((∃ x, s.flightStep f = .ok x ∧ r = { words := x.words, query := x.query }) ∨
      (∃ c a, s.flightStep f = .error (.fault c a) ∧ r = ({ fault := some (c, a) } : Landing))) →
    exec (.traversalComplete id) s = .next (State.landBatch
      { s with flights := s.flights.map fun q => if q.id == id then { q with landing := some r } else q } f.batch)) ∧
  (∀ (s : State) b f rest, s.batch b = f :: rest → (∀ q ∈ s.batch b, ∃ r, q.landing = some r ∧ r.fault = none) →
    (∀ l < 32, inMask f.act l = true → (s.lane f.team f.group l).flying = true) → (∃ k, s.team? f.team = some k ∧ f.group < k.groups.length) →
    let t := s.landBatch b
    (∀ q ∈ t.flights, q.vis = true → q.batch ≠ b) ∧
    (∀ l < 32, inMask f.act l = true → (t.lane f.team f.group l).flying = false) ∧
    (∀ l < 32, ∀ q r, (s.batch b).find? (fun x => x.lane == l) = some q → q.landing = some r →
      (t.lane f.team f.group l).query = r.query ∧
      ∀ k < 64, t.rdV f.team f.group l k = written (vWrites q.dest.1 r.words) k (s.rdV f.team f.group l k)) ∧
    (∀ l < 32, (∀ q ∈ s.batch b, q.lane ≠ l) → (t.lane f.team f.group l).query = (s.lane f.team f.group l).query ∧
      ∀ k < 64, t.rdV f.team f.group l k = s.rdV f.team f.group l k) ∧
    ∀ a, Memory.get t.mem a = Memory.get s.mem a) ∧
  (∀ (s : State) core unit, let hit (f : Flight) : Prop := f.vis = true ∧ f.core = core ∧ f.id % 4 = unit ∧ f.landing = none
    (∃ f ∈ s.flights, hit f) → ∃ t, exec (.traversalUnitError core unit) s = .next t ∧ (∃ e, t.noted = s.noted ++ [e] ∧ e.cls = 3) ∧
      (∀ f ∈ t.flights, hit f → f.lines = [] ∧ f.offered = []) ∧ ∀ f ∈ s.flights, ¬ hit f → f ∈ t.flights)

/-- The moves of the commons and of graphs: the serial phase applies every deferred access in its order and begins the next phase;
timers and drains form what bins and pens hold. A formation takes the first records, at most FILL or CNT, out of the bin or pen and adds one team
of one group at the end of the queue: lane l starts at the entry's address with record l's words in the registers of the entry, its s registers
hold the entry's and then the key, or the pen's index and the count. A flush forms each bin until it is empty. The order of the deferred accesses of one group (log entry 41), what a declared line
reads as meanwhile (log entry 42), and the moment at which what is owed to a pen that is in force again is retried (log entry 77, DEDUCED), are the
model's choices. -/
def Obligations.LaunchMoves : Prop :=
  (∀ (s : State) key l, s.launch? key = some l → l.lrec.det = true → s.somePhased l = true → s.allPhased l = true →
    (∀ d ∈ l.dbs, ∀ x ∈ d.op.lines, s.owned (.mem x) = false) → ∃ t, exec (.serialPhase key) s = .next t ∧
      (t.launch? key).map (fun l => (l.dbs, l.phases)) = some ([], l.phases + 1) ∧
      t.mem = (l.brands.foldl (fun s b => s.prepLine b.line) ((sortBy Deferred.before l.dbs).foldl (fun s d => s.applyDef d.op) s)).mem) ∧
  (∀ (s : State) key i k l e, s.launch? key = some l → l.lrec.det = false → l.binRecs i k ≠ [] → (s.useFolds key).2.1 i = some e →
    e.timer ≠ 0 → s.areasFree l.vdev l.lrec.foldAreas = true → exec (.foldTimerExpiry key i k) s = .next ((s.useFolds key).1.formBin key i k e)) ∧
  (∀ (s : State) key l, s.launch? key = some l → l.bins ≠ [] → s.noTeams l = true → s.areasFree l.vdev l.lrec.foldAreas = true →
    exec (.foldDrainFlush key) s =
    .next ((s.useFolds key).1.flushBins key (s.useFolds key).2.2 fun _ _ => true)) ∧
  (∀ (s : State) key i l, s.launch? key = some l → l.lrec.det = false → rd l.pens i ≠ [] →
    let p := s.usePens key
    let b := p.1.useBoards key
    (p.2 i).v = true → (p.2 i).timer ≠ 0 → s.areasFree l.vdev l.graphAreas = true →
    exec (.penTimerExpiry key i) s = .next ((b.1.retryOwed key p.2 b.2).flushPen key p.2 b.2 i)) ∧
  (∀ (s : State) key l, s.launch? key = some l → l.lrec.pent ≠ 0 → l.bins = [] → s.noTeams l = true →
    s.areasFree l.vdev l.graphAreas = true →
    let p := s.usePens key
    let b := p.1.useBoards key
    let s1 := b.1.retryOwed key p.2 b.2
    s1.noTeams l = true → exec (.graphDrain key) s = .next ((List.range 16).foldl (fun s i => match s.launch? key with
      | some l => State.drainPens key p.2 b.2 i l.penFuel s | none => s) s1)) ∧
  (∀ (s : State) key i k e l, s.launch? key = some l → l.binRecs i k ≠ [] → 0 < e.fill → e.fill ≤ 32 →
    let recs := l.binRecs i k
    let n := min e.fill recs.length
    let t := s.formBin key i k e
    (t.launch? key).map (fun l => l.binRecs i k) = some (recs.drop n) ∧
    ∃ x, t.teams = s.teams ++ [x] ∧ x.id = s.nextId ∧ x.launch = key ∧ x.origin = .fold i k ∧ x.groups.length = 1 ∧
      (∀ j < n, let r := rd recs j; let ln := rd (rd x.groups 0).lanes j
        ln.present = true ∧ ln.exited = false ∧ ln.pc = codeAddr (l.lrec.code.extractLsb' 0 56) e.cont ∧ (∀ v < 64, v ∉ e.regs → rd ln.v v = 0) ∧
        (r.ovf = none → ∀ v ∈ e.regs, ∀ p, (r.regs.zip r.words).find? (fun p => p.1 == v) = some p → rd ln.v v = p.2) ∧
        ∀ q < 15, rd ln.s q = rd (e.s ++ [k]) q) ∧
      ∀ j < 32, n ≤ j → (rd (rd x.groups 0).lanes j).exited = true) ∧
  (∀ (s : State) key (ents : Nat → FoldEntry) (p : Nat → Word → Bool), (∀ i, 0 < (ents i).fill) →
    ∀ l, (s.flushBins key ents p).launch? key = some l → ∀ i k, p i k = true → l.binRecs i k = []) ∧
  (∀ (s : State) key i e l, s.launch? key = some l → rd l.pens i ≠ [] → 0 < e.cnt → e.cnt ≤ 32 →
    let recs := rd l.pens i
    let n := min e.cnt recs.length
    let t := s.formPen key i e
    (t.launch? key).map (fun l => rd l.pens i) = some (recs.drop n) ∧
    ∃ x, t.teams = s.teams ++ [x] ∧ x.id = s.nextId ∧ x.launch = key ∧ x.origin = .pen i ∧ x.groups.length = 1 ∧
      (∀ j < n, let r := rd recs j; let ln := rd (rd x.groups 0).lanes j
        ln.present = true ∧ ln.exited = false ∧ ln.pc = codeAddr (l.lrec.code.extractLsb' 0 56) e.entry ∧
        (∀ v, rd ln.v v = rd (wordsOf ((r.data.length + 3) / 4) ((s.penPrep l.vdev e (recs.take n)).penData l.vdev e r)) v) ∧
        (r.ovf = none → ∀ s' : State, s'.penData l.vdev e r = r.data) ∧
        ∀ q < 15, rd ln.s q = rd (e.s ++ [BitVec.ofNat 32 i, BitVec.ofNat 32 n]) q) ∧
      ∀ j < 32, n ≤ j → (rd (rd x.groups 0).lanes j).exited = true) ∧
  (∀ (s : State) key (pens : Nat → PenEntry) (boards : Nat → BoardEntry) i l, s.launch? key = some l →
    s.flushPen key pens boards i = (l.owedTo boards i).foldl (fun s o => (s.offerOwed key pens boards o.1 o.2.1 o.2.2).1.tend key pens boards i)
      (s.formPen key i (pens i))) ∧
  (∀ (s : State) key (pens : Nat → PenEntry) (boards : Nat → BoardEntry) i n l, s.launch? key = some l → rd l.pens i ≠ [] →
    State.drainPens key pens boards i (n + 1) s = State.drainPens key pens boards i n (s.flushPen key pens boards i))

/-- The shepherds' moves: parking, waking, placing, ending, completing, ageing, mustering, slices, reclaims and drove starts, each where
it is enabled. -/
def Obligations.ShepherdMoves : Prop :=
  (∀ (s : State) tm g t l w n, s.team? tm = some t → t.core? ≠ none → (rd t.groups g).handler = none → g < t.groups.length →
    l ∈ (rd t.groups g).lanes → l.live = true → l.wait = some w → w.expired = false → w.park = some n →
    ∃ t', exec (.parkThresholdExpiry tm g) s = .next t' ∧
      ∀ x ∈ (rd ((t'.team? tm).map Team.groups |>.getD []) g).lanes, x.live = true → ∀ w, x.wait = some w → w.park ≠ none → w.expired = true) ∧
  (∀ (s : State) tm t, s.team? tm = some t → t.place = .saved → t.eligible = false →
    (if t.wakeEntries ≠ [] then ∃ n ∈ t.wakeEntries, ∀ d, s.vdev? t.vdev = some d → ∀ e ∈ d.faultq, e.num = n → e.open_ = false
      else ∃ g < t.groups.length, (rd t.groups g).ended = false ∧ ∃ l < 32, s.wakes t g l = true) →
    ∃ t', exec (.wake tm) s = .next t' ∧ (t'.team? tm).map (fun x => (x.eligible, x.wakeEntries, x.place)) = some (true, [], .saved)) ∧
  (∀ (s : State) id core t c, s.team? id = some t → (s.cands t.vdev).find? (fun c => c.id == id) = some c → s.mayPlace c core = true →
    ∃ t' id', exec (.teamPlace id core) s = .next t' ∧ (c.grid = false → id' = id) ∧
      (t'.team? id').map (fun x => x.place) = some (.resident core)) ∧
  (∀ (s : State) tm t, s.team? tm = some t → s.teamDone t = true → (∀ e ∈ t.efaults, e.cls = 9 → e.entry = none) →
    (∀ e ∈ s.entries, e.team ≠ tm) → ∃ t', exec (.teamEnd tm) s = .next t' ∧
      (t'.team? tm).map (fun x => (x.place, x.groups, x.tags, x.sp, x.hasArea)) = some (.ended, [], 0, [], false)) ∧
  (∀ (s : State) key l, s.launch? key = some l → s.completes l (s.useBoards key).2 = true →
    s.areasFree l.vdev (boardAreas (s.useBoards key).2 ++ l.graphAreas) = true → ∃ t, ∃ s2 : State,
    exec (.launchComplete key) s = .next t ∧ t = (s2.postCompletion l.vdev l.num (s.endStatus l) l.errRec l.host).reapVdev l.vdev ∧ (∀ x ∈ t.launches, x.key ≠ key) ∧ ∀ x ∈ t.teams, x.launch ≠ key) ∧
  (∀ (s : State) id t c, s.team? id = some t → let part := s.partOf t.vdev
    let all := (s.vdevsOf part).flatMap s.cands
    all.find? (fun c => c.id == id) = some c → s.aged c = true → s.coresOf part ≠ [] → c.reserved = none → c.grid = false →
    (∀ o ∈ all, o.id ≠ id → o.reserved = none ∧ o.age ≤ c.age) →
    ∃ t' k, exec (.aged id) s = .next t' ∧ k ∈ s.coresOf part ∧ (t'.team? id).bind (fun x => x.reserved) = some k) ∧
  (∀ (s : State) tm t, s.team? tm = some t → s.musterCause t = true → ∃ t', exec (.muster tm) s = .next t' ∧
    (t'.team? tm).map (fun x => x.leaving) = some (if t.leaving = .no ∧ (s.launchOf tm).ending = none then .muster else t.leaving)) ∧
  (∀ (s : State) tm g t, s.team? tm = some t → t.leaving = .muster → t.core? ≠ none → g < t.groups.length → (rd t.groups g).ended = false →
    (rd t.groups g).handler = none → s.atBoundary tm g = true → ∃ t', exec (.musterTrap tm g) s = .next t' ∧
      t'.group tm g = (rd t.groups g).enterMuster (t.musterPc.extractLsb' 0 32, t.musterPc.extractLsb' 32 32) (t.budget, 0)
        (s.core (s.coreOf tm)).cycle) ∧
  (∀ (s : State) tm g t h, s.team? tm = some t → g < t.groups.length → (s.group tm g).handler = some h → h.running = true →
    (∀ l ∈ (s.group tm g).lanes, l.flying = false ∧ (l.live = true → l.repi = 0)) → t.core? ≠ none → ∃ t', exec (.budgetOverrun tm g) s = .next t' ∧
      t'.group tm g = { (s.group tm g).endHandler with overran := true } ∧ ∃ e, t'.noted = s.noted ++ [e] ∧ e.cls = 7) ∧
  (∀ (s : State) v d, s.vdev? v = some d → d.sched = true → ∃ t, exec (.sliceEnd v) s = .next t ∧
    (s.nextDevice v ≠ v → (∀ n, s.vdev? (s.nextDevice v) = some n → n.ending = false) → (t.vdev? v).map (fun x => x.sched) = some false)) ∧
  (∀ (s : State) cl q c, s.lent.find? (fun q => q.cluster == cl) = some q → c ∈ (s.vdevsOf q.lender).flatMap s.cands →
    needFits ((s.candRec c).teamNeed c.roles) (s.candRec c).scr = true →
    ∃ t, exec (.clusterReclaim cl) s = .next t ∧ ∀ q ∈ t.lent, q.cluster ≠ cl) ∧
  (∀ (s : State) key l d, s.launch? key = some l → l.drv = some d → d.gen = none → l.ending = none → s.depsMet l = some false →
    let g := s.nextGen l.vdev l.lrec.drvid
    ∃ t, exec (.droveAck key) s = .next t ∧ (t.launch? key).bind (fun l => l.drv) =
      some { d with gen := some g, acks := d.acks ++ if d.rank = 0 then [(deviceNo, g)] else [] }) ∧
  (∀ (s : State) key l d, s.launch? key = some l → l.drv = some d → d.rank = 0 → d.started = false → d.failed = false → l.ending = none →
    ((d.refused = false → (∀ m ∈ d.members.drop 1, s.partConn m ≠ none) → (∀ m ∈ d.members, ∃ a ∈ d.acks, a.1 = m) →
        (∀ a ∈ d.acks, a.2 = (d.acks.headD (0, 0)).2) →
        ∃ t, exec (.droveDecision key) s = .next t ∧ (t.launch? key).bind (fun l => l.drv) = some { d with started := true }) ∧
      (d.refused = true → ∃ t, exec (.droveDecision key) s = .next t ∧
        (t.launch? key).map (fun l => (l.ending, l.drv)) = some (some 4, some { d with failed := true }))))

end Events

section HubRows

/-- A message that is not in its turn changes nothing; one in its turn whose header is out of order is answered with STATUS 2, one that
its endpoint does not accept with STATUS 3, and one whose virtual device does not exist with STATUS 1, and has no other effect; before bring-up is
over LAUNCH and LOAD are answered with STATUS 4. Before Akgium runs nothing is taken up, and without core power all but ATTEST and the reading of
events goes unanswered. An answer on a part's connection takes its turn, has the effect of its row and no other, and is not answered. The order of
the tests and the lengths of the bodies (log entries 49 and 108), that an answer is not answered (log entry 136), that a message out of its turn is
still on its way (log entry 79), and how far bring-up has come by a message (log entry 122) are the model's choices. -/
def Obligations.MessagesTurnedAway : Prop :=
  ∀ (h : Msg) (type : Nat) (a : Ask) (lenOk : Bool) (s : State) (k : State → Conn → State) (c : Conn),
    s.conns.find? (fun c => c.id == h.conn) = some c → Msg.fits h = true →
    (h.type = type ∨ typeListed h.type = false ∨ typeOut h.type = true) →
    let no (st : Nat) : Res := .next ((s.passed h).reply h.conn h.vdev h.type h.corr st [])
    (h.seq ≠ c.nextIn → hubMsg h type a lenOk s k = .next s.boot) ∧
    (s.boot.power.takes a = true ∨ hubMsg h type a lenOk s k = .next s.boot) ∧
    Power.takes .rails a = false ∧ Power.takes .bootCode a = false ∧
    (h.seq = c.nextIn → c.xfer = none → s.portsUp ≠ 0 → s.boot = s → s.power.takes a = true → isAnswer c.key h.type = true →
      hubMsg h type a lenOk s k = .next (if h.type = type then k (s.passed h) c else s.passed h)) ∧
    (h.seq = c.nextIn → c.xfer = none → s.portsUp ≠ 0 → s.boot = s → (s.power = .akgium ∨ s.power = .firmware ∨ s.power = .ports ∨ s.power = .memory) →
      h.type = type → (a = .launch ∨ a = .load) → isAnswer c.key h.type = false → typeListed h.type = true → h.rsvd = 0 → h.len ≤ 4096 → lenOk = true →
      mayName c.key h.vdev = true → accepts c.key a = true → hubMsg h type a lenOk s k = no 4) ∧
    (isAnswer c.key h.type = false → h.seq = c.nextIn → c.xfer = none → s.portsUp ≠ 0 → s.power = .off → ¬ (h.type = type ∧ (a = .attest ∨ a = .readEvents)) →
      hubMsg h type a lenOk s k = .next (s.passed h)) ∧
    (isAnswer c.key h.type = false → h.seq = c.nextIn → c.xfer = none → s.portsUp ≠ 0 → s.power = .running →
      ((typeListed h.type = false ∨ h.rsvd ≠ 0 ∨ 4096 < h.len ∨ (h.type = type ∧ lenOk = false) ∨ mayName c.key h.vdev = false) →
        hubMsg h type a lenOk s k = no 2) ∧
      (typeListed h.type = true → h.rsvd = 0 → h.len ≤ 4096 → (h.type = type → lenOk = true) → mayName c.key h.vdev = true →
        ((h.type ≠ type ∨ accepts c.key a = false ∨ a = .recover) → hubMsg h type a lenOk s k = no 3) ∧
        (h.type = type → accepts c.key a = true → a ≠ .recover → needsVdev c.key a = true → s.standing h.vdev = false →
          hubMsg h type a lenOk s k = no 1)))

/-- The hub's messages that arrive in order have their effect and are answered: launches, windows and their bytes, code segments,
attestation, droves and recovery images. The STATUS of a part of a segment (log entry 49), what a late or failed drove's member is told
and how its answers are matched (log entries 13, 46 and 124), that an answer is not answered (log entry 136), the bytes of an attestation report
(log entry 120), that a report longer than a message goes out in bodies of 4096 bytes (log entry 49), and the other bodies (log entry 108) are the
model's choices. -/
def Obligations.HubMessages : Prop :=
  (∀ h rec s c, Arrives s h 1 .launch c → s.windowBusy c.key = false → s.launchFree h.vdev rec = true → h.len = 256 → rec.length = 256 →
    let a := (s.passed h).accept h.vdev rec .host 7 h.vdev h.conn h.corr
    (a.refused = true → Answers (.launch h rec) s h 1 a.state 1 (leBytes 4 (a.why.getD 0))) ∧
    (a.refused = false → exec (.launch h rec) s =
      .next ((a.state.reply h.conn h.vdev 1 h.corr 0 (leBytes 4 a.num)).replicate h.vdev a.num rec))) ∧
  (∀ h body s c n, Arrives s h 3 .tenant c → h.len = WinBody.size body → WinBody.fits body = true → (s.passed h).freeHandle = some n → Answers (.wmap h body) s h 3
    ((s.passed h).modVdev h.vdev fun d => { d with wins := d.wins ++ [{ handle := n, body := body }] }) 0 (leBytes 2 n)) ∧
  (∀ h n s c d, Arrives s h 4 .tenant c → h.len = 8 → s.windowUsed h.vdev n = false → s.vdev? h.vdev = some d → Answers (.wunmap h n) s h 4
    ((s.passed h).modVdev h.vdev fun d => { d with wins := d.wins.filter fun w => w.handle != n })
    (if d.wins.any fun w => w.handle == n then 0 else 1) []) ∧
  (∀ h n off data s c v base units perm segs, Arrives s h 5 .window c → h.len = 16 + data.length → data.length ≤ 4080 →
    (s.passed h).exported c.key h.vdev n = some (v, base, units, perm) → off + data.length ≤ units * 65536 → perm.w = true →
    (s.passed h).place v ⟨0, base + BitVec.ofNat 64 off, data.length⟩ .write = .ok segs → data ≠ [] →
    ∃ t, exec (.wwrite h n off data) s = .next t ∧ (∀ a, Memory.get t.mem a = Memory.get s.mem a) ∧
      ∃ x, (t.conns.find? fun c => c.id == h.conn).bind (fun c => c.xfer) = some x ∧ x.write = true ∧ x.ops.map (fun o => (o.phys, o.len)) = segs) ∧
  (∀ h n off count s c v base units perm segs, Arrives s h 6 .window c → h.len = 24 → count ≤ 4080 →
    (s.passed h).exported c.key h.vdev n = some (v, base, units, perm) → off + count ≤ units * 65536 → perm.r = true →
    (s.passed h).place v ⟨0, base + BitVec.ofNat 64 off, count⟩ .read = .ok segs → count ≠ 0 →
    ∃ t, exec (.wread h n off count) s = .next t ∧ (∀ a, Memory.get t.mem a = Memory.get s.mem a) ∧
      ∃ x, (t.conns.find? fun c => c.id == h.conn).bind (fun c => c.xfer) = some x ∧ x.write = false ∧ x.ops.map (fun o => (o.phys, o.len)) = segs) ∧
  (∀ h chunk s c, Arrives s h 7 .load c → h.len = chunk.length → chunk ≠ [] →
    let held := if c.segVdev = h.vdev then c.seg ++ chunk else chunk
    let s0 := (s.passed h).dropSegment h.conn h.vdev
    let s1 := s0.modConn h.conn fun c => { c with seg := [] }
    (c.seg = [] ∨ c.segVdev = h.vdev → s0 = s.passed h) ∧
    (c.seg ≠ [] → c.segVdev ≠ h.vdev →
      s0 = ((s.passed h).modConn h.conn fun c => { c with seg := [] }).reply h.conn c.segVdev 7 c.segCorr 2 []) ∧
    ((held.length < 256 ∨ held.length < segTotal held) → Answers (.load h chunk) s h 7
      (s0.modConn h.conn fun c => { c with seg := held, segVdev := h.vdev, segCorr := h.corr }) 0 []) ∧
    (256 ≤ held.length → segTotal held = held.length → segBad held = false → s.segOwned h.vdev held = false →
      Answers (.load h chunk) s h 7 (s1.loadSegment h.vdev held).1 (s1.loadSegment h.vdev held).2 [])) ∧
  (∀ h nonce s c, Arrives s h 8 .attest c → h.len = 48 → nonce.length = 48 →
    (∀ d, c.key ≠ .recovery → s.vdev? h.vdev = some d → d.attest ≠ [] →
      let body := nonce ++ d.attest ++ leBytes 4 d.attestN ++ leBytes 4 s.secVer ++ leBytes 4 deviceNo
      exec (.attest h nonce) s = .next ((s.passed h).replyLong h 8 (body ++ Config.signReport body))) ∧
    (c.key = .recovery → let body := nonce ++ List.replicate 48 0 ++ leBytes 4 0 ++ leBytes 4 s.secVer ++ leBytes 4 deviceNo
      exec (.attest h nonce) s = .next ((s.passed h).replyLong h 8 (body ++ Config.signReport body)))) ∧
  (∀ (s : State) h type (body : List Byte),
    (body.length ≤ 4096 → s.replyLong h type body = s.reply h.conn h.vdev type h.corr 0 body) ∧
    (4096 < body.length → s.replyLong h type body = (s.reply h.conn h.vdev type h.corr 0 (body.take 4096)).replyLong h type (body.drop 4096))) ∧
  (∀ h s c src id num, s.conns.find? (fun c => c.id == h.conn) = some c → h.type = 0x8B → Msg.fits h = true → h.seq = c.nextIn → c.xfer = none →
    s.portsUp ≠ 0 → s.power = .running → c.key = .part src →
    (h.status = 0 → h.len = (droveBytes (.refuse id num src)).length →
      exec (.drove h (.refuse id num src)) s = .next ((s.passed h).droveRefused num id src)) ∧
    (∀ body, h.status ≠ 0 → (∀ i n, body ≠ .refuse i n src) → (∀ r ms k e v, body ≠ .replicate r ms k e v) →
      exec (.drove h body) s = .next ((s.passed h).droveTurned h.corr src)) ∧
    (∀ l d, s.launches.find? (fun l => match l.drv with
        | some d => droveCorr l.vdev l.num == h.corr && d.rank == 0 && d.members.contains src
        | none => false) = some l → l.drv = some d → d.started = false → d.failed = false →
      (s.passed h).droveTurned h.corr src = (s.passed h).modLaunch l.key fun l => { l with drv := l.drv.map fun d =>
        { d with refused := d.refused || (!d.started && !d.failed) } }) ∧
    ∀ l d, s.leads num id src = some l → l.drv = some d → d.started = false → d.failed = false →
      (s.passed h).droveRefused num id src = (s.passed h).modLaunch l.key fun l => { l with drv := l.drv.map fun d =>
        { d with refused := d.refused || (!d.started && !d.failed) } }) ∧
  (∀ h s c src id num g l d, Arrives s h 0x0B .drove c → h.len = (droveBytes (.ack id num src g)).length → c.key = .part src → s.leads num id src = some l → l.drv = some d → d.started = false →
    (∀ a ∈ d.acks, a.1 ≠ src) →
    (d.failed = false → Answers (.drove h (.ack id num src g)) s h 0x0B ((s.passed h).modLaunch l.key fun l =>
      { l with drv := some { d with acks := d.acks ++ [(src, g)] } }) 0 []) ∧
    (d.failed = true → Answers (.drove h (.ack id num src g)) s h 0x0B ((s.passed h).lateAck num id src g) 0 [])) ∧
  (∀ h s c d id leader lv g n, Arrives s h 0x0B .drove c → h.len = (droveBytes (.fail id leader lv g (some n))).length →
    (∀ l ∈ s.launches, l.lrec.drvid ≠ id) → s.droveDevice id leader lv = some d → (id, h.corr) ∈ d.refused →
    Answers (.drove h (.fail id leader lv g (some n))) s h 0x0B (((s.passed h).setGen d.id id n).modVdev d.id fun d =>
      { d with refused := d.refused.filter fun q => q != (id, h.corr) }) 0 []) ∧
  (∀ h chunk s c, s.conns.find? (fun c => c.id == h.conn) = some c → h.type = 0x0C → Msg.fits h = true → h.seq = c.nextIn → c.xfer = none → s.portsUp ≠ 0 → s.power = .recovery →
    h.rsvd = 0 → h.len = chunk.length → h.len ≤ 4096 → mayName c.key h.vdev = true → accepts c.key .recover = true →
    (needsVdev c.key .recover = true → s.standing h.vdev = true) →
    Answers (.recover h chunk false) s h 0x0C { s.passed h with recBuf := s.recBuf ++ chunk } 0 [] ∧
    ∃ t, exec (.recover h chunk true) s = .next t ∧ (s.verifies (s.recBuf ++ chunk) = true → t.image = s.recBuf ++ chunk ∧ t.power = .rails) ∧
      (s.verifies (s.recBuf ++ chunk) = false → t.image = s.image ∧ t.power = .recovery ∧ t.recBuf = []))

/-- The management requests that arrive in order have their effect and are answered with STATUS 0; a signed request whose signature does
not verify is answered with STATUS 3 and changes nothing. That a partition write is answered at once (log entry 98), that RETIRE_PAGE is
always accepted and the reading of events and a deletion are answered at once (log entry 50), how an entry is written anew (log entry
123), the lengths of the bodies and that an image comes in several messages (log entry 108), that a long reply goes out in bodies of 4096 bytes (log
entry 49), the bytes of an exported and an imported context, and that one with more
failures than its image holds is answered with STATUS 1 (log entry 14, DESIGN CHOICE), and that ENTER_RECOVERY discards what runs (log entry 51,
DEDUCED) are the model's choices. -/
def Obligations.ManagementRequests : Prop :=
  (∀ h num s c l, Manages s h .shared c 8 → s.launches.find? (fun l => l.vdev == h.vdev && l.num == num) = some l →
    Answers (.manageEndLaunch h num) s h 9 ((s.passed h).modLaunch l.key fun l => { l with ending := some (l.ending.getD 6) }) 0 []) ∧
  (∀ h n maps s c f, Manages s h .shared c 8 → s.openFault h.vdev n = some f → s.mapsBad (s.partOf h.vdev) maps = false →
    ∃ t, Answers (.manageResolveFault h n maps) s h 9 t 0 [] ∧ t.openFault h.vdev n = none ∧
      (t.vdev? h.vdev).map (fun d => d.cfg.maps) = (s.vdev? h.vdev).map fun d => maps ++ d.cfg.maps) ∧
  (∀ h n s c f, Manages s h .shared c 8 → s.openFault h.vdev n = some f → ∃ t, Answers (.manageDenyFault h n) s h 9 t 0 [] ∧
    t.openFault h.vdev n = none ∧ ∀ e ∈ t.entries, e.heldFor f.team n = false) ∧
  (∀ h tm s c t, Manages s h .manage c 8 → s.team? tm = some t → t.vdev = h.vdev → t.core? ≠ none →
    Answers (.manageMusterTeam h tm) s h 9 ((s.passed h).musterTeam tm false) 0 []) ∧
  (∀ h i p s c, Manages s h .table c 68 → p.level ≠ 0 → partsOk ((i, p) :: s.parts.filter fun q => q.1 != i) = true →
    ∃ t, Answers (.manageWritePartition h i p) s h 9 t 0 [] ∧ t.parts = (i, p) :: s.parts.filter (fun q => q.1 != i) ∧
      (s.part? i = none → ∃ k, (KeyOwner.part i, k) ∈ t.keys)) ∧
  (∀ h cl dest q s c, Manages s h .manage c 16 → s.lenderOf cl dest = some q →
    (∀ t ∈ s.teams, ∀ k, t.core? = some k → clusterOf k ≠ cl) → (∀ x ∈ s.lent, x.cluster ≠ cl) →
    Answers (.manageLendClusters h cl dest) s h 9
      { s.passed h with lent := { cluster := cl, borrower := dest, lender := q } :: s.lent } 0 []) ∧
  (∀ h cl s c, Manages s h .manage c 8 → (∃ x ∈ s.lent, x.cluster = cl) → Answers (.manageReclaimClusters h cl) s h 9 ((s.passed h).reclaim cl) 0 []) ∧
  (∀ h cfg s c, Manages s h .create c 224 → s.vdev? h.vdev = none → s.vdevBad h.vdev cfg = false →
    ∃ t, Answers (.manageCreateVdev h { cfg := cfg }) s h 9 t 0 [] ∧
    (t.vdev? h.vdev).map (fun d => (d.cfg, d.exec, d.wins, d.faultq)) = some (cfg, [], [], [])) ∧
  (∀ h cfg s c d, Manages s h .create c 224 → s.vdev? h.vdev = some d → d.ending = false → s.vdevBad h.vdev cfg = false →
    ∃ t, Answers (.manageCreateVdev h { cfg := cfg, rewrite := true }) s h 9 t 0 [] ∧
    (t.vdev? h.vdev).map (fun d => (d.cfg, d.wins, d.faultq)) = some (cfg, d.wins, d.faultq)) ∧
  (∀ h s c, Manages s h .create c 0 → s.standing h.vdev = true → ∃ t, Answers (.manageDeleteVdev h) s h 9 t 0 [] ∧
    t.standing h.vdev = false ∧ (∀ l ∈ t.launches, l.vdev = h.vdev → l.ending ≠ none) ∧
    ((∀ l ∈ s.launches, l.vdev ≠ h.vdev) → (∀ d, s.vdev? h.vdev = some d → d.waiting = []) → t.vdev? h.vdev = none)) ∧
  (∀ h k j r s c, Manages s h .manage c 48 → k < 16 → j < 16 → (∀ y ∈ s.linesOfReg (16 * k + j), s.owned (.mem y) = false) →
    fmtRegBad r = false → (∀ n, n < s.fmtRegs.length → n ≠ 16 * k + j → regsClash (rd s.fmtRegs n) r = false) →
    ∃ t, Answers (.manageWriteFormatRegion h k j r) s h 9 t 0 [] ∧ rd t.fmtRegs (16 * k + j) = r) ∧
  (∀ h page s c, Manages s h .manage c 8 → ∃ t, Answers (.manageRetirePage h page) s h 9 t 0 [] ∧ page ∈ t.retired ∧
    ∀ x, x / 512 = page → t.errHit x = false) ∧
  (∀ h tm s c t, Manages s h .shared c 8 → s.team? tm = some t → t.vdev = h.vdev → t.place = .saved → (∀ g ∈ t.groups, g.sq = []) →
    (∀ x ∈ s.tiles, x.team ≠ tm) → (∀ x ∈ s.teams, x.id = tm → ∀ w ∈ x.twins, (∀ r ∈ w.regs, r.pend = none) ∧ ∀ rs, w.frame = some rs → ∀ r ∈ rs, r.pend = none) →
    ((s.failures tm).length ≤ failsPerGroup * t.groups.length →
      exec (.manageExportContext h tm) s = .next ((s.passed h).replyLong h 9 ((s.passed h).contextImage t (s.launchOf tm).lrec))) ∧
    (failsPerGroup * t.groups.length < (s.failures tm).length → Answers (.manageExportContext h tm) s h 9 (s.passed h) 1 [])) ∧
  (∀ h tm chunk s c t, Manages s h .shared c (8 + chunk.length) → s.team? tm = some t → t.vdev = h.vdev → t.place = .saved → chunk ≠ [] →
    let image := (if c.imgTeam = tm then c.img else []) ++ chunk
    let keep (bs : List Byte) : State := (s.passed h).modConn h.conn fun c => { c with img := bs, imgTeam := tm }
    let lr := (s.launchOf tm).lrec
    (image.length < lr.areaSize t.roles → Answers (.manageImportContext h tm chunk) s h 9 (keep image) 0 []) ∧
    (lr.areaSize t.roles ≤ image.length → t.imageBad lr image = false →
      let s1 : State := { keep [] with tiles := s.tiles.filter fun x => x.team != tm }
      let t' := (s1.modTeam tm fun t => s1.restored t lr image).restoreWork t lr image
      Answers (.manageImportContext h tm chunk) s h 9 t' 0 [] ∧
        (t'.team? tm).map (fun x => { x with efaults := [] }) = some { s1.restored t lr image with efaults := [] })) ∧
  (∀ h s c, Manages s h .readEvents c 0 →
    exec (.manageReadEvents h) s = .next ((s.passed h).replyLong h 9 (s.events.flatMap Event.bytes))) ∧
  (∀ h s c, Manages s h .manage c 0 → Answers (.manageClearEvents h) s h 9 { s.passed h with events := [] } 0 []) ∧
  (∀ h s c, Manages s h .shared c 0 →
    Answers (.manageAttachDebugger h) s h 9 ((s.passed h).modVdev h.vdev fun d => { d with debugger := true }) 0 [] ∧
    Answers (.manageDetachDebugger h) s h 9 ((s.passed h).modVdev h.vdev fun d => { d with debugger := false }) 0 []) ∧
  (∀ h v sig s c, Manages s h .manage c (8 + sig.length) → let ok := Config.signedByImage s.image 0 v sig
    Answers (.manageRaiseMinVersion h v sig) s h 9 (if ok then { s.passed h with minVer := max s.minVer v } else s.passed h)
      (if ok then 0 else 3) []) ∧
  (∀ h sig s c, Manages s h .manage c sig.length → let ok := Config.signedByImage s.image 1 s.secVer sig
    Answers (.manageEnterRecovery h sig) s h 9
      (if ok then { (s.passed h).halted with power := .recovery, recBuf := [] } else s.passed h) (if ok then 0 else 3) [])

/-- RESET, THERMAL_TRIP, connections, ports and the debugger: what each leaves. That RESET keeps the image, the minimum version and the
counters (log entry 47), that a thermal trip discards what runs (log entry 51), that RESET stands at the first stage or, where the image does not
verify, at once in recovery, that no connection is set up before Akgium runs (log entry 122, DESIGN CHOICE), that Akgium starts with one partition
(log entry 107, DEDUCED), and that every event has reached the recorder by a reset or a trip (log entry 102, DESIGN CHOICE) are the model's
choices. -/
def Obligations.PartMoves : Prop :=
  (∀ (s : State), exec .reset s = .next s.restart ∧ s.restart.mem = State.reset.mem ∧ s.restart.teams = State.reset.teams ∧
    s.restart.launches = State.reset.launches ∧ s.restart.vdevs = State.reset.vdevs ∧
    s.restart.parts = (if s.verifies s.image then State.reset.parts else [(0, wholePart)]) ∧
    s.restart.image = s.image ∧ s.restart.minVer = s.minVer ∧ s.restart.noted = [] ∧ (s.noted = [] → s.restart.events = s.events) ∧
    (s.events.length + s.noted.length ≤ 4096 → s.restart.events.map (fun e => { e with seq := 0 }) =
      (s.events ++ s.noted).map fun e => { e with seq := 0 }) ∧
    (∀ k, (s.restart.core k).cycle = (s.core k).cycle) ∧ s.restart.clocks = s.clocks ∧
    s.restart.power = if s.verifies s.image then .rails else .recovery) ∧
  (∀ (s : State), s.power ≠ .off → ∃ t, exec .thermalTrip s = .next t ∧ t.power = .off ∧ t.cores = s.cores.map Core.cleared ∧ t.teams = [] ∧ t.launches = [] ∧
    t.noted = [] ∧ ∃ e, t.events.getLast? = some e ∧ e.cls = 4) ∧
  (∀ (s : State) conn key options, (∃ o ∈ options, ConnOption.listed o = false) →
    exec (.connectionSetup conn { key := key, options := options }) s = .next s.boot) ∧
  (∀ (s : State) conn key options, (∀ o ∈ options, ConnOption.listed o = true) → (∀ c ∈ s.conns, c.id ≠ conn) → s.conns.length < 4096 →
    (∀ v, key = .tenant v → (s.conns.filter fun c => c.key == key).length < 256) → s.boot.keyOk key = true → s.portsUp ≠ 0 →
    s.boot.power ≠ .rails → s.boot.power ≠ .bootCode → ∃ t, exec (.connectionSetup conn { key := key, options := options }) s = .next t ∧ ∃ c ∈ t.conns, c.id = conn ∧ c.key = key ∧ c.nextIn = 0) ∧
  (∀ (s : State) conn, ∃ t, exec (.connectionClose conn) s = .next t ∧ (∀ c ∈ t.conns, c.id ≠ conn) ∧
    (∀ c ∈ s.conns, c.id ≠ conn → ∃ x ∈ t.conns, x.id = c.id ∧ x.key = c.key ∧ x.nextIn = c.nextIn ∧ x.xfer = c.xfer) ∧
    ∀ c v d, s.conns.find? (fun c => c.id == conn) = some c → c.key = .tenant v → (∀ x ∈ s.conns, x.id ≠ conn → x.key ≠ .tenant v) →
      s.vdev? v = some d → (t.vdev? v).map (fun d => d.waiting) = some (c.held.filter (fun m => typeOut m.type) ++ d.waiting)) ∧
  (∀ (s : State) port, port < 16 → s.portsUp.getLsbD port = true → ∃ t, exec (.portFailure port) s = .next t ∧
    (∃ e, t.noted = s.noted ++ [e] ∧ e.cls = 5) ∧ ∀ k < 16, t.portsUp.getLsbD k = (s.portsUp.getLsbD k && k != port)) ∧
  (∀ (s : State) tm g t, s.team? tm = some t → g < t.groups.length → s.debuggerThere (s.vdevOf tm) = true →
    (s.group tm g).broken = true → ∃ t, exec (.debuggerResume tm g) s = .next t ∧ t.group tm g = { s.group tm g with broken := false })

end HubRows

section Machine

/-- Right after reset nothing runs, nothing is mapped and no connection stands; the part is in bring-up. What the spec gives no reset value
is the model's choice: memory that nothing has written reads 0 (log entry 2), the cores' cycle counters are 0 (log entry 4), and all sixteen
ports are up (log entry 47). -/
def Obligations.ResetState : Prop :=
  State.Inv State.reset ∧ (∀ a, Memory.get State.reset.mem a = 0) ∧ State.reset.power = .rails ∧ State.reset.teams = [] ∧
  State.reset.launches = [] ∧ State.reset.vdevs = [] ∧ State.reset.parts = [] ∧ State.reset.conns = [] ∧ State.reset.entries = [] ∧
  State.reset.portsUp = 0xFFFF ∧ State.reset.cur = none ∧
  ∀ k, ((State.reset.core k).slots = List.replicate 4 none) ∧ (State.reset.core k).cycle = 0 ∧
    (∀ x, ((State.reset.core k).line x).copy = none ∧ ((State.reset.core k).line x).pend = [])

/-- An instruction that names a register outside its lane's budget, directly or through REP stepping, is illegal at issue, before any effect, with
the splinter's active mask; decoding alone accepts such numbers, as it does in every word of IADD with no prefix. MAJ and FN of the record are the
instruction's own, and those of a 16-bit form are left open. -/
def Obligations.BudgetRule : Prop :=
  (∀ (i : Instr) (s : State) c, i.raw ≠ .event → s.cur = some c → i.outside (s.budget c.team c.group) →
    ∃ code, ((∀ op f, i.raw ≠ .half op f) → code = i.code) ∧
      exec i s = .next (s.takeFault c code { cls := 1, mask := c.act, info := illegalInfo code.1 })) ∧
  (∀ (i : Instr) b, i.wf = true → i.raw ≠ .event → i.outside b → decode (encode i) = .ok i (encode i).length) ∧
  (∀ f : RForm, decode (halves (rWord 5 0 f)) = .ok (.iadd {} f) 2)

/-- NOP has no effect: it only goes on to the next instruction. A nonzero D, A or B on EXIT, YIELD or NOP, whatever their prefixes, is an
illegal-instruction fault of the splinter whose PC stands there. That the record holds the instruction's own MAJ and FN also where its prefixes are well
formed and it does not accept one of them, which R65 leaves open, is the model's choice (log entry 127, DEDUCED). -/
def Obligations.NopRule : Prop :=
  (∀ (m : Mods) (f : RForm), Completes (.nop m f) fun s c t => Computed s t (.nop m f) c 0 fun _ => {}) ∧
  (∀ (fn : BitVec 3) (m : Mods) (f : RForm), fn.toNat ≤ 2 → (f.d ≠ 0 ∨ f.a ≠ 0 ∨ f.b ≠ 0) →
    let hs := m.words ++ halves (rWord 3 fn f)
    decode hs = .bad 3 fn ∧
    ∀ (s : State) core slot rest c, s.agenda = .issue core slot :: rest →
      let s0 : State := { s with agenda := rest, tick := s.tick + 1, cur := none }
      Issues s0 core slot c → s0.codeAt (s.vdevOf c.team) c.pc hs →
      step s = .next (((s0.fetchPrep (s.vdevOf c.team) c.pc hs.length).clearMarks c c.act).faultOut { c with len := hs.length } (3, fn.toNat) { cls := 1, mask := c.act }).afterMove)

/-- The twin rules, which come before every lane instruction's own entry. A twin write that finds a full register is twin misuse in
exactly the lanes found full; a twin read by other than the writer of record waits until every register it reads is full, and then
sets them all empty at once. The lanes are the guarded ones, but for the helper lanes in which the instruction has no effect; a SHFL or a
QDIFF reads vA in the lanes that serve it as sources, whatever their guard (which those are for QDIFF is log entry 121). A twin write fills its register and makes its group the writer of record; the full bit waits for the
stores that the group has enqueued. -/
def Obligations.TwinRules : Prop :=
  (∀ (i : Instr) (s : State) c t k tw, i.raw ≠ .event → s.cur = some c → i.inBudget (s.budget c.team c.group) = true →
    s.team? c.team = some t → s.pendingOn c i = [] → t.twinOf c.group = some (k, tw) →
    let full (l : Nat) : Prop := inMask (s.acting c i) l = true ∧ ∃ r ∈ (i.vUse c.rep).2, 56 ≤ r ∧ r < 64 ∧ (rd tw.regs (twinIx l (r - 56))).full = true
    let me : Writer := if tw.prod = c.group then .producer else .consumer
    let reads (l r : Nat) : Prop :=
      (inMask (s.acting c i) l = true ∧ r ∈ (i.vUse c.rep).1) ∨ (inMask (s.sources c i) l = true ∧ r ∈ i.vA)
    let taken (l r : Nat) : Prop := reads l r ∧ 56 ≤ r ∧ r < 64 ∧ (rd tw.regs (twinIx l (r - 56))).writer ≠ me
    ((∃ l < 32, full l) → ∃ mask, (∀ l < 32, inMask mask l = true ↔ full l) ∧
      exec i s = .next (s.takeFault c i.code { cls := 11, mask := mask })) ∧
    ((∀ l < 32, ¬ full l) → (∃ l < 32, ∃ r, taken l r ∧ (rd tw.regs (twinIx l (r - 56))).full = false) →
      ∃ t', exec i s = .next t' ∧ Kept s t' c ∧ t'.cur = some { c with out := .waiting }) ∧
    (∀ c1 s1, Ready s i c1 s1 → ∃ tw', (s1.team? c.team).bind (fun t => t.twins[k]?) = some tw' ∧ ∀ l < 32, ∀ r, 56 ≤ r → r < 64 →
      (taken l r → (rd tw.regs (twinIx l (r - 56))).full = true ∧
        rd tw'.regs (twinIx l (r - 56)) = { rd tw.regs (twinIx l (r - 56)) with full := false }) ∧
      (¬ taken l r → rd tw'.regs (twinIx l (r - 56)) = rd tw.regs (twinIx l (r - 56))))) ∧
  (∀ (i : Instr) (s : State) c, ∀ l < 32, inMask (s.acting c i) l = true ↔
    inMask (s.guarded c i.g) l = true ∧ (i.sparesHelpers = true → (s.lane c.team c.group l).helper = false)) ∧
  (∀ (m : Mods) (f : RForm) (s : State) c, ∀ l < 32,
    (inMask (s.sources c (.shfl m f)) l = true ↔ inMask c.act l = true) ∧
    (inMask (s.sources c (.qdiff m f)) l = true ↔ (∀ k < 4, inMask c.act (4 * (l / 4) + k) = true) ∧
      (inMask (s.guarded c f.g) l = true ∨ inMask (s.guarded c f.g) (l ^^^ if m.clsBit 0 then 2 else 1) = true))) ∧
  (∀ (m : Mods) (f : RForm) s c s1 t k tw, Ready s (.mov m f) c s1 → s1.team? c.team = some t → t.twinOf c.group = some (k, tw) →
    let d := (f.at m c.rep).d.toNat
    56 ≤ d → ∃ t' tw', exec (.mov m f) s = .next t' ∧ (t'.team? c.team).bind (fun t => t.twins[k]?) = some tw' ∧
      ∀ l < 32, inMask (s1.guarded c f.g) l = true → let r := rd tw'.regs (twinIx l (d - 56))
        r.writer = (if tw.prod = c.group then .producer else .consumer) ∧ r.full = (rd t.groups c.group).sq.isEmpty)

/-- A step runs the decoded instruction: where the next move is the issue of a slot whose splinter c issues, and the halfwords at its PC, on
pages that may be executed, are an instruction i, step is exec of i with c in progress, and after it `afterIssue`, by which the run
goes on or ends; the lines of the code are decoded, encoded or dropped before as at any access (R374), which changes nothing where no format
region is set up. Where they hold no instruction, all its words having been fetched, the splinter takes an illegal-instruction
fault with its whole active mask; where 23 instructions of the run have gone before and this one does not end it, an illegal-run fault.
That the latter test follows the budget test (log entry 37), that all words are fetched before they are judged (log entry 94), the
MAJ and FN of a bad prefix (log entries 17 and 127), and that INFO is 1 for undecodable halfwords of major 0x1C (log entry 31, DEDUCED) are the
model's choices. An event row is taken as the move that names it; where the agenda is
empty the move comes from a free value (log entry 1). -/
def Obligations.StepRunsDecoded : Prop :=
  (∀ (s : State) core slot rest c hs i, s.agenda = .issue core slot :: rest →
    let s0 : State := { s with agenda := rest, tick := s.tick + 1, cur := none }
    Issues s0 core slot c → s0.codeAt (s.vdevOf c.team) c.pc hs → decode hs = .ok i hs.length →
    let c' : Cur := { c with len := hs.length }
    let late := c.rep = 0 ∧ 23 ≤ (s0.group c.team c.group).runPos ∧ i.e = false ∧ i.endsRun = false ∧
      i.inBudget (s0.budget c.team c.group) = true
    let s1 := s0.fetchPrep (s.vdevOf c.team) c.pc hs.length
    (¬ late → step s = after (exec i { s1 with cur := some c' }) fun t => t.afterIssue i) ∧
    (late → step s = .next (s1.faultOut c' i.code { cls := 2, mask := c.act }).afterMove)) ∧
  (∀ (s : State) v pc n, s.fmtRegs = [] → s.fetchPrep v pc n = s) ∧
  (∀ (s : State) core slot rest c hs maj fn, s.agenda = .issue core slot :: rest →
    let s0 : State := { s with agenda := rest, tick := s.tick + 1, cur := none }
    Issues s0 core slot c → s0.codeAt (s.vdevOf c.team) c.pc hs → decode hs = .bad maj fn → wholeCode 3 hs = true →
    (∀ k < hs.length, wholeCode 3 (hs.take k) = false) →
    step s = .next (((s0.fetchPrep (s.vdevOf c.team) c.pc hs.length).clearMarks c c.act).faultOut { c with len := hs.length } (maj.toNat, fn.toNat)
      { cls := 1, mask := c.act, info := illegalInfo maj.toNat }).afterMove) ∧
  (∀ (s : State) i rest, s.agenda = .event i :: rest → i.raw = .event →
    step s = after (exec i { s with agenda := rest, tick := s.tick + 1, cur := none }) State.afterMove) ∧
  (∀ (s : State), s.agenda = [] → step s = step { s with agenda := [Config.nextMove s.tick] })

/-- The part never stops: from every state, reached by a run or not, step answers a next state: the spec gives every instruction and every
event an effect or a fault of its own. -/
def Obligations.StepAlwaysNext : Prop := ∀ s : State, State.goesOn s

/-- Every step keeps the memory in its one canonical form: addresses rise and no listed byte is what an unlisted one reads as. -/
def Obligations.StepKeepsMemoryForm : Prop := ∀ s t : State, State.Inv s → step s = .next t → State.Inv t

/-- Decoding the halfwords of a well-formed instruction, with every operand at every value, gives the instruction back and all its
halfwords. -/
def Obligations.DecodeEncode : Prop :=
  ∀ i : Instr, i.wf = true → i.raw ≠ .event → decode (encode i) = .ok i (encode i).length

/-- Words written out from the encoding tables decode to what they stand for: one of each form, and one with its three prefixes. That the last
word, a prefix with E set, is refused with FN 0 is the model's choice (log entry 17). -/
def Obligations.DecodeWords : Prop :=
  -- BRA: guard, offset, major, E, 1
  decode (halves 0b011_000000000000000000101_000000_1_1) = .ok (.bra {} { g := 3, e := true, off := 5 }) 2 ∧
  -- MOVI: guard, immediate, 0, D, major 0x0A, E, 1
  decode (halves 0b001_111111110_000000_000101_001010_0_1) = .ok (.movi {} { g := 1, e := false, d := 5, a := 0, imm := 0x1FE }) 2 ∧
  -- IADD: guard, FN 0, B, A, D, major 0x05, E, 1
  decode (halves 0b000_000_000011_000010_000001_000101_0_1) = .ok (.iadd {} { g := 0, e := false, d := 1, a := 2, b := 3 }) 2 ∧
  -- FADD 16-bit: S, D, op4 0xA, E, 0
  decode [0b00010_00001_1010_1_0] = .ok (.faddW16 { e := true, d := 1, s := 2 }) 1 ∧
  -- LD with K = 16 after X with SIZE 2: XP, PL, kind, major 0x3F, 0, 1
  decode (halves 0b000_010000000000000000_001_111111_0_1 ++ (halves 0b000_000000000000010000_000_111111_0_1 ++
      halves 0b000_000_000000_000100_000110_010110_0_1)) =
    .ok (.ld { x := some { cls := 2 }, k := some 16 } { g := 0, e := false, d := 6, a := 4, b := 0 }) 6 ∧
  -- major 0x3E, which is not assigned, and a prefix with E set
  decode (halves 0b000_111_000000_000000_000000_111110_0_1) = .bad 0x3E 7 ∧
  decode (halves 0b000_000000000000000000_000_111111_1_1) = .bad 0x3F 0

end Machine
end

