-- ==== Sys2Proof/Laws/Memory.lean ====
section
/-!
SUPPORT. The memory laws: every operation keeps the canonical form, a read after a write to the same place gives what was written,
and a write leaves every other place alone.
-/
namespace Sys2Proof.Machine
open Sys2Proof

section Form

/-- Every listed address of a list is above a bound. -/
def Memory.above (a : Nat) (m : List Host.Cell) : Prop := ∀ c ∈ m, a < c.1

/-- The canonical form of a list with a head: the head is not zero, the rest is canonical and above it. -/
theorem Memory.wf_cons {a : Nat} {b : Byte} {t : List Host.Cell} :
    Memory.wf ((a, b) :: t) = true ↔ b ≠ 0 ∧ Memory.wf t = true ∧ Memory.above a t := by
  induction t generalizing a b with
  | nil => simp [Memory.wf, Memory.above]
  | cons c t ih =>
    obtain ⟨a', b'⟩ := c
    have h' := @ih a' b'
    constructor
    · intro h
      simp only [Memory.wf, Bool.and_eq_true, bne_iff_ne, decide_eq_true_eq] at h
      obtain ⟨⟨hb, hlt⟩, ht⟩ := h
      refine ⟨hb, ht, fun c hc => ?_⟩
      rcases List.mem_cons.mp hc with rfl | hc
      · exact hlt
      · exact Nat.lt_trans hlt ((h'.mp ht).2.2 c hc)
    · rintro ⟨hb, ht, ha⟩
      simp only [Memory.wf, Bool.and_eq_true, bne_iff_ne, decide_eq_true_eq]
      exact ⟨⟨hb, ha (a', b') (by simp)⟩, ht⟩

theorem Memory.cons_wf {a : Nat} {b : Byte} {t : List Host.Cell} (ht : Memory.wf t = true) (ha : Memory.above a t) :
    Memory.wf (Memory.cons a b t) = true := by
  unfold Memory.cons
  split
  · exact ht
  · rename_i h; exact Memory.wf_cons.mpr ⟨h, ht, ha⟩

theorem Memory.cons_above {k a : Nat} {b : Byte} {t : List Host.Cell} (hk : k < a) (ht : Memory.above k t) :
    Memory.above k (Memory.cons a b t) := by
  unfold Memory.cons
  split
  · exact ht
  · intro c hc
    rcases List.mem_cons.mp hc with rfl | hc
    · exact hk
    · exact ht c hc

theorem Memory.above_of_lt {a k : Nat} {t : List Host.Cell} (h : a < k) (ht : Memory.above k t) : Memory.above a t :=
  fun c hc => Nat.lt_trans h (ht c hc)

theorem Memory.set_above {k a : Nat} {b : Byte} {m : List Host.Cell} (hk : k < a) (hm : Memory.above k m) :
    Memory.above k (Memory.set m a b) := by
  induction m with
  | nil => exact Memory.cons_above hk hm
  | cons c t ih =>
    obtain ⟨k', c'⟩ := c
    have ht : Memory.above k t := fun c hc => hm c (List.mem_cons_of_mem _ hc)
    unfold Memory.set
    split
    · exact Memory.cons_above hk ht
    · split
      · exact Memory.cons_above hk hm
      · intro c hc
        rcases List.mem_cons.mp hc with rfl | hc
        · exact hm _ (by simp)
        · exact ih ht c hc

/-- A byte write keeps the canonical form. -/
theorem Memory.set_wf {m : List Host.Cell} (a : Nat) (b : Byte) (h : Memory.wf m = true) : Memory.wf (Memory.set m a b) = true := by
  induction m with
  | nil => exact Memory.cons_wf rfl (fun _ h => by simp at h)
  | cons c t ih =>
    obtain ⟨k, c⟩ := c
    obtain ⟨hc, ht, ha⟩ := Memory.wf_cons.mp h
    unfold Memory.set
    split
    · rename_i e; exact Memory.cons_wf ht (e ▸ ha)
    · split
      · rename_i hlt
        refine Memory.cons_wf h fun x hx => ?_
        rcases List.mem_cons.mp hx with rfl | hx
        · exact hlt
        · exact Nat.lt_trans hlt (ha x hx)
      · exact Memory.wf_cons.mpr ⟨hc, ih ht, Memory.set_above (by omega) ha⟩

/-- A write of many bytes keeps the canonical form. -/
theorem Memory.setAll_wf {m : List Host.Cell} (cs : List Host.Cell) (h : Memory.wf m = true) : Memory.wf (Memory.setAll m cs) = true := by
  unfold Memory.setAll
  induction cs generalizing m with
  | nil => exact h
  | cons c t ih => exact ih (Memory.set_wf c.1 c.2 h)

/-- Taking cells out keeps the canonical form. -/
theorem Memory.filter_wf {m : List Host.Cell} (p : Host.Cell → Bool) (h : Memory.wf m = true) : Memory.wf (m.filter p) = true := by
  induction m with
  | nil => rfl
  | cons c t ih =>
    obtain ⟨a, b⟩ := c
    obtain ⟨hb, ht, ha⟩ := Memory.wf_cons.mp h
    rw [List.filter_cons]
    split
    · exact Memory.wf_cons.mpr ⟨hb, ih ht, fun x hx => ha x (List.mem_filter.mp hx).1⟩
    · exact ih ht

/-- The memory after reset has the form. -/
theorem State.reset_mem_wf : Memory.wf State.reset.mem = true := rfl

end Form

section Access

theorem Memory.get_above {a : Nat} {m : List Host.Cell} (h : Memory.above a m) : Memory.get m a = 0 := by
  cases m with
  | nil => rfl
  | cons c t =>
    obtain ⟨k, b⟩ := c
    have := h (k, b) (by simp)
    simp only at this
    unfold Memory.get
    rw [if_neg (by omega), if_pos this]

theorem Memory.get_cons {a : Nat} {b : Byte} {t : List Host.Cell} (ha : Memory.above a t) (x : Nat) :
    Memory.get (Memory.cons a b t) x = if x = a then b else if x < a then 0 else Memory.get t x := by
  unfold Memory.cons
  split
  · rename_i hb
    split
    · rename_i e; subst e; rw [Memory.get_above ha, hb]
    · split
      · rename_i hlt; exact Memory.get_above (Memory.above_of_lt hlt ha)
      · rfl
  · rw [Memory.get]
    by_cases h : a = x
    · simp [h]
    · rw [if_neg h, if_neg (Ne.symm h)]

/-- Read after write of a byte: the byte written at its address, every other byte as before. -/
theorem Memory.get_set {m : List Host.Cell} (h : Memory.wf m = true) (a x : Nat) (b : Byte) :
    Memory.get (Memory.set m a b) x = if x = a then b else Memory.get m x := by
  induction m with
  | nil =>
    rw [Memory.set, Memory.get_cons (fun _ h => by simp at h)]
    simp [Memory.get]
  | cons c t ih =>
    obtain ⟨k, c⟩ := c
    obtain ⟨hc, ht, ha⟩ := Memory.wf_cons.mp h
    unfold Memory.set
    split
    · rename_i e; subst e
      rw [Memory.get_cons ha, Memory.get]
      by_cases hx : x = k
      · simp [hx]
      · rw [if_neg hx, if_neg hx, if_neg (Ne.symm hx)]
    · rename_i hne
      split
      · rename_i hlt
        have hab : Memory.above a ((k, c) :: t) := by
          intro y hy
          rcases List.mem_cons.mp hy with rfl | hy
          · exact hlt
          · exact Nat.lt_trans hlt (ha y hy)
        rw [Memory.get_cons hab]
        by_cases hx : x = a
        · simp [hx]
        · rw [if_neg hx, if_neg hx]
          split
          · rename_i hxa; rw [Memory.get, if_neg (by omega), if_pos (by omega)]
          · rfl
      · rename_i hnl
        rw [Memory.get, Memory.get]
        by_cases hx : k = x
        · rw [if_pos hx, if_pos hx, if_neg (by omega)]
        · rw [if_neg hx, if_neg hx]
          by_cases hlt : x < k
          · rw [if_pos hlt, if_pos hlt, if_neg (by omega)]
          · rw [if_neg hlt, if_neg hlt, ih ht]

/-- Read after a write of many bytes: the last byte written at the address stands, else what was there. -/
theorem Memory.get_setAll {m : List Host.Cell} (h : Memory.wf m = true) (cs : List Host.Cell) (x : Nat) :
    Memory.get (Memory.setAll m cs) x = cs.foldl (fun b c => if x = c.1 then c.2 else b) (Memory.get m x) := by
  unfold Memory.setAll
  induction cs generalizing m with
  | nil => rfl
  | cons c t ih =>
    rw [List.foldl_cons, List.foldl_cons, ih (Memory.set_wf c.1 c.2 h), Memory.get_set h]

/-- A write leaves every address that it does not name. -/
theorem Memory.get_setAll_of_not_mem {m : List Host.Cell} (h : Memory.wf m = true) (cs : List Host.Cell) (x : Nat)
    (hx : ∀ c ∈ cs, c.1 ≠ x) : Memory.get (Memory.setAll m cs) x = Memory.get m x := by
  rw [Memory.get_setAll h]
  generalize Memory.get m x = b
  induction cs generalizing b with
  | nil => rfl
  | cons c t ih =>
    rw [List.foldl_cons, if_neg (Ne.symm (hx c (by simp)))]
    exact ih (fun d hd => hx d (List.mem_cons_of_mem _ hd)) b

end Access

end Sys2Proof.Machine
end

