-- ==== Sys2Proof/Laws/Conversions.lean ====
section
/-!
SUPPORT. What comes before an access at CP (23_commons R372, R374): Decode, Encode, Drop and the sticky bit RSV change the memory, the decoded lines
and the format registers, and nothing else, and keep the memory's form.
-/
namespace Sys2Proof.Machine
open Sys2Proof

/-- From s to t nothing but the memory, the decoded lines and the format registers has changed, and the memory keeps its form. -/
def Converted (s t : State) : Prop :=
  (∃ m d r, t = { s with mem := m, decoded := d, fmtRegs := r }) ∧ (Memory.wf s.mem = true → Memory.wf t.mem = true)

theorem Converted.refl (s : State) : Converted s s := ⟨⟨s.mem, s.decoded, s.fmtRegs, rfl⟩, id⟩

theorem Converted.trans {s t u : State} (h : Converted s t) (k : Converted t u) : Converted s u := by
  obtain ⟨⟨_, _, _, rfl⟩, hw⟩ := h
  obtain ⟨⟨m, d, r, rfl⟩, kw⟩ := k
  exact ⟨⟨m, d, r, rfl⟩, kw ∘ hw⟩

theorem Converted.foldl {α : Type} {f : State → α → State} (h : ∀ s a, Converted s (f s a)) : ∀ (l : List α) (s : State), Converted s (l.foldl f s)
  | [], s => .refl s
  | a :: l, s => (h s a).trans (Converted.foldl h l (f s a))

theorem moved_converted (s : State) (m : List Host.Cell) (d : List (Nat × List Bool)) (h : Memory.wf s.mem = true → Memory.wf m = true) :
    Converted s { s with mem := m, decoded := d } := ⟨⟨m, d, s.fmtRegs, rfl⟩, h⟩

theorem stick_converted (s : State) (i : Nat) (f : FmtReg → FmtReg) : Converted s (s.stick i f) := ⟨⟨_, _, _, rfl⟩, id⟩

theorem stickRsv_converted (s : State) (y : Nat) : Converted s (s.stickRsv y) := by
  unfold State.stickRsv
  split
  · exact stick_converted ..
  · exact .refl s

theorem decodeLine_converted (s : State) (y : Nat) : Converted s (s.decodeLine y) := by
  unfold State.decodeLine
  split
  · exact .refl s
  · exact (moved_converted s _ _ (Memory.setAll_wf _)).trans (stick_converted ..)

theorem encodeLine_converted (s : State) (y : Nat) : Converted s (s.encodeLine y) := by
  have fold : ∀ (g : Nat × List Byte × Bool → List Host.Cell) (l : List (Nat × List Byte × Bool)) (m : List Host.Cell), Memory.wf m = true →
      Memory.wf (l.foldl (fun m o => Memory.setAll m (g o)) m) = true := by
    intro g l
    induction l with
    | nil => exact fun _ h => h
    | cons a l ih => exact fun m h => ih _ (Memory.setAll_wf _ h)
  unfold State.encodeLine
  split
  · exact (moved_converted s _ _ (fold _ _ _)).trans (stick_converted ..)
  · exact .refl s

theorem dropLine_converted (s : State) (y : Nat) : Converted s (s.dropLine y) :=
  moved_converted s _ _ (Memory.setAll_wf _)

/-- An access at CP(x) is prepared by conversions alone (R374). -/
theorem prepLine_converted (s : State) (x : Nat) : Converted s (s.prepLine x) := by
  unfold State.prepLine
  split
  · split
    · exact .refl s
    · exact decodeLine_converted s x
  · exact Converted.foldl (fun s y => (encodeLine_converted s y).trans (dropLine_converted _ y)) _ s

theorem prepKey_converted (s : State) (k : LineKey) : Converted s (s.prepKey k) := by
  unfold State.prepKey
  split
  · exact .refl s
  · split
    · exact prepLine_converted ..
    · split
      · exact stickRsv_converted ..
      · exact .refl s

/-- What comes before the part's own read converts and does nothing else (R372, R374). -/
theorem partPrep_converted (s : State) (v : Nat) (va : VAddr) (n : Nat) : Converted s (s.partPrep v va n) := by
  unfold State.partPrep
  split
  · exact .refl s
  · split
    · exact Converted.foldl (fun s q => prepKey_converted s _) _ s
    · exact .refl s

/-- A fetch converts and does nothing else (R372, R374). -/
theorem fetchPrep_converted (s : State) (v : Nat) (pc : Code) (n : Nat) : Converted s (s.fetchPrep v pc n) := by
  refine Converted.foldl (fun s k => ?_) _ s
  split
  · split
    · exact stickRsv_converted ..
    · exact prepLine_converted ..
  · exact .refl s

end Sys2Proof.Machine
end

