-- ==== Sys2Proof/Laws/Exec.lean ====
section
/-!
SUPPORT. Every lane instruction goes through `issue`: the tests before its own entry are the same for all of them.
-/
namespace Sys2Proof.Machine
open Sys2Proof

/-- THE FRAME OF ALL LANE INSTRUCTIONS: exec of an instruction is `issue` with a body of its own. -/
theorem exec_issue (i : Instr) (h : i.raw ≠ .event) : ∀ s : State, ∃ body, exec i s = issue i s body := by
  cases i
  case bra m f => refine fun s => ⟨?_, ?_⟩; rotate_left; show execBra m f s = _; unfold execBra; with_reducible rfl
  case call m f => refine fun s => ⟨?_, ?_⟩; rotate_left; show execCall m f s = _; unfold execCall; with_reducible rfl
  case brx m f => refine fun s => ⟨?_, ?_⟩; rotate_left; show execBrx m f s = _; unfold execBrx; with_reducible rfl
  case callx m f => refine fun s => ⟨?_, ?_⟩; rotate_left; show execCallx m f s = _; unfold execCallx; with_reducible rfl
  case ret m f => refine fun s => ⟨?_, ?_⟩; rotate_left; show execRet m f s = _; unfold execRet; with_reducible rfl
  case exit m f => refine fun s => ⟨?_, ?_⟩; rotate_left; show execExit m f s = _; unfold execExit; with_reducible rfl
  case yield m f => refine fun s => ⟨?_, ?_⟩; rotate_left; show execYield m f s = _; unfold execYield; with_reducible rfl
  case nop m f => refine fun s => ⟨?_, ?_⟩; rotate_left; show execNop m f s = _; unfold execNop; with_reducible rfl
  case trap m f => refine fun s => ⟨?_, ?_⟩; rotate_left; show execTrap m f s = _; unfold execTrap; with_reducible rfl
  case bkpt m f => refine fun s => ⟨?_, ?_⟩; rotate_left; show execBkpt m f s = _; unfold execBkpt; with_reducible rfl
  case tret m f => refine fun s => ⟨?_, ?_⟩; rotate_left; show execTret m f s = _; unfold execTret; with_reducible rfl
  case mdone m f => refine fun s => ⟨?_, ?_⟩; rotate_left; show execMdone m f s = _; unfold execMdone; with_reducible rfl
  case invd m f => refine fun s => ⟨?_, ?_⟩; rotate_left; show execInvd m f s = _; unfold execInvd; with_reducible rfl
  case meet m f => refine fun s => ⟨?_, ?_⟩; rotate_left; show execMeet m f s = _; unfold execMeet; with_reducible rfl
  case meetr m f => refine fun s => ⟨?_, ?_⟩; rotate_left; show execMeetr m f s = _; unfold execMeetr; with_reducible rfl
  case vote m f => refine fun s => ⟨?_, ?_⟩; rotate_left; show execVote m f s = _; unfold execVote; with_reducible rfl
  case shfl m f => refine fun s => ⟨?_, ?_⟩; rotate_left; show execShfl m f s = _; unfold execShfl; with_reducible rfl
  case srd m f => refine fun s => ⟨?_, ?_⟩; rotate_left; show execSrd m f s = _; unfold execSrd; with_reducible rfl
  case swr m f => refine fun s => ⟨?_, ?_⟩; rotate_left; show execSwr m f s = _; unfold execSwr; with_reducible rfl
  case iadd m f => refine fun s => ⟨?_, ?_⟩; rotate_left; show execIadd m f s = _; unfold execIadd intV; with_reducible rfl
  case isub m f => refine fun s => ⟨?_, ?_⟩; rotate_left; show execIsub m f s = _; unfold execIsub intV; with_reducible rfl
  case iand m f => refine fun s => ⟨?_, ?_⟩; rotate_left; show execIand m f s = _; unfold execIand intV; with_reducible rfl
  case ior m f => refine fun s => ⟨?_, ?_⟩; rotate_left; show execIor m f s = _; unfold execIor intV; with_reducible rfl
  case ixor m f => refine fun s => ⟨?_, ?_⟩; rotate_left; show execIxor m f s = _; unfold execIxor intV; with_reducible rfl
  case imin m f => refine fun s => ⟨?_, ?_⟩; rotate_left; show execImin m f s = _; unfold execImin intV; with_reducible rfl
  case imax m f => refine fun s => ⟨?_, ?_⟩; rotate_left; show execImax m f s = _; unfold execImax intV; with_reducible rfl
  case isel m f => refine fun s => ⟨?_, ?_⟩; rotate_left; show execIsel m f s = _; unfold execIsel; with_reducible rfl
  case shl m f => refine fun s => ⟨?_, ?_⟩; rotate_left; show execShl m f s = _; unfold execShl intV; with_reducible rfl
  case shrl m f => refine fun s => ⟨?_, ?_⟩; rotate_left; show execShrl m f s = _; unfold execShrl intV; with_reducible rfl
  case shra m f => refine fun s => ⟨?_, ?_⟩; rotate_left; show execShra m f s = _; unfold execShra intV; with_reducible rfl
  case rot m f => refine fun s => ⟨?_, ?_⟩; rotate_left; show execRot m f s = _; unfold execRot intV; with_reducible rfl
  case bfx m f => refine fun s => ⟨?_, ?_⟩; rotate_left; show execBfx m f s = _; unfold execBfx intV; with_reducible rfl
  case bfi m f => refine fun s => ⟨?_, ?_⟩; rotate_left; show execBfi m f s = _; unfold execBfi intV; with_reducible rfl
  case popc m f => refine fun s => ⟨?_, ?_⟩; rotate_left; show execPopc m f s = _; unfold execPopc intV; with_reducible rfl
  case clz m f => refine fun s => ⟨?_, ?_⟩; rotate_left; show execClz m f s = _; unfold execClz intV; with_reducible rfl
  case imul m f => refine fun s => ⟨?_, ?_⟩; rotate_left; show execImul m f s = _; unfold execImul intV; with_reducible rfl
  case imulh m f => refine fun s => ⟨?_, ?_⟩; rotate_left; show execImulh m f s = _; unfold execImulh intV; with_reducible rfl
  case imad m f => refine fun s => ⟨?_, ?_⟩; rotate_left; show execImad m f s = _; unfold execImad intV; with_reducible rfl
  case iaddc m f => refine fun s => ⟨?_, ?_⟩; rotate_left; show execIaddc m f s = _; unfold execIaddc; with_reducible rfl
  case lea m f => refine fun s => ⟨?_, ?_⟩; rotate_left; show execLea m f s = _; unfold execLea intV; with_reducible rfl
  case brev m f => refine fun s => ⟨?_, ?_⟩; rotate_left; show execBrev m f s = _; unfold execBrev intV; with_reducible rfl
  case iabs m f => refine fun s => ⟨?_, ?_⟩; rotate_left; show execIabs m f s = _; unfold execIabs intV; with_reducible rfl
  case ineg m f => refine fun s => ⟨?_, ?_⟩; rotate_left; show execIneg m f s = _; unfold execIneg intV; with_reducible rfl
  case iaddi m f => refine fun s => ⟨?_, ?_⟩; rotate_left; show execIaddi m f s = _; unfold execIaddi; with_reducible rfl
  case mov m f => refine fun s => ⟨?_, ?_⟩; rotate_left; show execMov m f s = _; unfold execMov intV; with_reducible rfl
  case inot m f => refine fun s => ⟨?_, ?_⟩; rotate_left; show execInot m f s = _; unfold execInot intV; with_reducible rfl
  case ext m f => refine fun s => ⟨?_, ?_⟩; rotate_left; show execExt m f s = _; unfold execExt intV; with_reducible rfl
  case iset m f => refine fun s => ⟨?_, ?_⟩; rotate_left; show execIset m f s = _; unfold execIset; with_reducible rfl
  case plop m f => refine fun s => ⟨?_, ?_⟩; rotate_left; show execPlop m f s = _; unfold execPlop; with_reducible rfl
  case movi m f => refine fun s => ⟨?_, ?_⟩; rotate_left; show execMovi m f s = _; unfold execMovi; with_reducible rfl
  case iaddU m f => refine fun s => ⟨?_, ?_⟩; rotate_left; show execIaddU m f s = _; unfold execIaddU intU; with_reducible rfl
  case isubU m f => refine fun s => ⟨?_, ?_⟩; rotate_left; show execIsubU m f s = _; unfold execIsubU intU; with_reducible rfl
  case iandU m f => refine fun s => ⟨?_, ?_⟩; rotate_left; show execIandU m f s = _; unfold execIandU intU; with_reducible rfl
  case iorU m f => refine fun s => ⟨?_, ?_⟩; rotate_left; show execIorU m f s = _; unfold execIorU intU; with_reducible rfl
  case ixorU m f => refine fun s => ⟨?_, ?_⟩; rotate_left; show execIxorU m f s = _; unfold execIxorU intU; with_reducible rfl
  case iminU m f => refine fun s => ⟨?_, ?_⟩; rotate_left; show execIminU m f s = _; unfold execIminU intU; with_reducible rfl
  case imaxU m f => refine fun s => ⟨?_, ?_⟩; rotate_left; show execImaxU m f s = _; unfold execImaxU intU; with_reducible rfl
  case shlU m f => refine fun s => ⟨?_, ?_⟩; rotate_left; show execShlU m f s = _; unfold execShlU intU; with_reducible rfl
  case shrlU m f => refine fun s => ⟨?_, ?_⟩; rotate_left; show execShrlU m f s = _; unfold execShrlU intU; with_reducible rfl
  case shraU m f => refine fun s => ⟨?_, ?_⟩; rotate_left; show execShraU m f s = _; unfold execShraU intU; with_reducible rfl
  case rotU m f => refine fun s => ⟨?_, ?_⟩; rotate_left; show execRotU m f s = _; unfold execRotU intU; with_reducible rfl
  case bfxU m f => refine fun s => ⟨?_, ?_⟩; rotate_left; show execBfxU m f s = _; unfold execBfxU intU; with_reducible rfl
  case bfiU m f => refine fun s => ⟨?_, ?_⟩; rotate_left; show execBfiU m f s = _; unfold execBfiU intU; with_reducible rfl
  case popcU m f => refine fun s => ⟨?_, ?_⟩; rotate_left; show execPopcU m f s = _; unfold execPopcU intU; with_reducible rfl
  case clzU m f => refine fun s => ⟨?_, ?_⟩; rotate_left; show execClzU m f s = _; unfold execClzU intU; with_reducible rfl
  case imulU m f => refine fun s => ⟨?_, ?_⟩; rotate_left; show execImulU m f s = _; unfold execImulU intU; with_reducible rfl
  case imulhU m f => refine fun s => ⟨?_, ?_⟩; rotate_left; show execImulhU m f s = _; unfold execImulhU intU; with_reducible rfl
  case imadU m f => refine fun s => ⟨?_, ?_⟩; rotate_left; show execImadU m f s = _; unfold execImadU intU; with_reducible rfl
  case iaddcU m f => refine fun s => ⟨?_, ?_⟩; rotate_left; show execIaddcU m f s = _; unfold execIaddcU; with_reducible rfl
  case leaU m f => refine fun s => ⟨?_, ?_⟩; rotate_left; show execLeaU m f s = _; unfold execLeaU intU; with_reducible rfl
  case brevU m f => refine fun s => ⟨?_, ?_⟩; rotate_left; show execBrevU m f s = _; unfold execBrevU intU; with_reducible rfl
  case iabsU m f => refine fun s => ⟨?_, ?_⟩; rotate_left; show execIabsU m f s = _; unfold execIabsU intU; with_reducible rfl
  case inegU m f => refine fun s => ⟨?_, ?_⟩; rotate_left; show execInegU m f s = _; unfold execInegU intU; with_reducible rfl
  case iaddiU m f => refine fun s => ⟨?_, ?_⟩; rotate_left; show execIaddiU m f s = _; unfold execIaddiU; with_reducible rfl
  case movU m f => refine fun s => ⟨?_, ?_⟩; rotate_left; show execMovU m f s = _; unfold execMovU intU; with_reducible rfl
  case inotU m f => refine fun s => ⟨?_, ?_⟩; rotate_left; show execInotU m f s = _; unfold execInotU intU; with_reducible rfl
  case extU m f => refine fun s => ⟨?_, ?_⟩; rotate_left; show execExtU m f s = _; unfold execExtU intU; with_reducible rfl
  case isetU m f => refine fun s => ⟨?_, ?_⟩; rotate_left; show execIsetU m f s = _; unfold execIsetU; with_reducible rfl
  case moviU m f => refine fun s => ⟨?_, ?_⟩; rotate_left; show execMoviU m f s = _; unfold execMoviU; with_reducible rfl
  case movW16 f => refine fun s => ⟨?_, ?_⟩; rotate_left; show execMovW16 f s = _; unfold execMovW16; with_reducible rfl
  case iaddW16 f => refine fun s => ⟨?_, ?_⟩; rotate_left; show execIaddW16 f s = _; unfold execIaddW16 intH; with_reducible rfl
  case isubW16 f => refine fun s => ⟨?_, ?_⟩; rotate_left; show execIsubW16 f s = _; unfold execIsubW16 intH; with_reducible rfl
  case iandW16 f => refine fun s => ⟨?_, ?_⟩; rotate_left; show execIandW16 f s = _; unfold execIandW16 intH; with_reducible rfl
  case iorW16 f => refine fun s => ⟨?_, ?_⟩; rotate_left; show execIorW16 f s = _; unfold execIorW16 intH; with_reducible rfl
  case ixorW16 f => refine fun s => ⟨?_, ?_⟩; rotate_left; show execIxorW16 f s = _; unfold execIxorW16 intH; with_reducible rfl
  case shlW16 f => refine fun s => ⟨?_, ?_⟩; rotate_left; show execShlW16 f s = _; unfold execShlW16 intH; with_reducible rfl
  case shrlW16 f => refine fun s => ⟨?_, ?_⟩; rotate_left; show execShrlW16 f s = _; unfold execShrlW16 intH; with_reducible rfl
  case shraW16 f => refine fun s => ⟨?_, ?_⟩; rotate_left; show execShraW16 f s = _; unfold execShraW16 intH; with_reducible rfl
  case imulW16 f => refine fun s => ⟨?_, ?_⟩; rotate_left; show execImulW16 f s = _; unfold execImulW16 intH; with_reducible rfl
  case faddW16 f => refine fun s => ⟨?_, ?_⟩; rotate_left; show execFaddW16 f s = _; unfold execFaddW16 fpH; with_reducible rfl
  case fsubW16 f => refine fun s => ⟨?_, ?_⟩; rotate_left; show execFsubW16 f s = _; unfold execFsubW16 fpH; with_reducible rfl
  case fmulW16 f => refine fun s => ⟨?_, ?_⟩; rotate_left; show execFmulW16 f s = _; unfold execFmulW16 fpH; with_reducible rfl
  case fminW16 f => refine fun s => ⟨?_, ?_⟩; rotate_left; show execFminW16 f s = _; unfold execFminW16 fpH; with_reducible rfl
  case fmaxW16 f => refine fun s => ⟨?_, ?_⟩; rotate_left; show execFmaxW16 f s = _; unfold execFmaxW16 fpH; with_reducible rfl
  case iaddiW16 f => refine fun s => ⟨?_, ?_⟩; rotate_left; show execIaddiW16 f s = _; unfold execIaddiW16; with_reducible rfl
  case fadd m f => refine fun s => ⟨?_, ?_⟩; rotate_left; show execFadd m f s = _; unfold execFadd fpV; with_reducible rfl
  case fsub m f => refine fun s => ⟨?_, ?_⟩; rotate_left; show execFsub m f s = _; unfold execFsub fpV; with_reducible rfl
  case fmul m f => refine fun s => ⟨?_, ?_⟩; rotate_left; show execFmul m f s = _; unfold execFmul fpV; with_reducible rfl
  case fmin m f => refine fun s => ⟨?_, ?_⟩; rotate_left; show execFmin m f s = _; unfold execFmin fpV; with_reducible rfl
  case fmax m f => refine fun s => ⟨?_, ?_⟩; rotate_left; show execFmax m f s = _; unfold execFmax fpV; with_reducible rfl
  case fma m f => refine fun s => ⟨?_, ?_⟩; rotate_left; show execFma m f s = _; unfold execFma fpV; with_reducible rfl
  case frnd m f => refine fun s => ⟨?_, ?_⟩; rotate_left; show execFrnd m f s = _; unfold execFrnd fpV; with_reducible rfl
  case fclass m f => refine fun s => ⟨?_, ?_⟩; rotate_left; show execFclass m f s = _; unfold execFclass fpV; with_reducible rfl
  case fset m f => refine fun s => ⟨?_, ?_⟩; rotate_left; show execFset m f s = _; unfold execFset; with_reducible rfl
  case cvt m f => refine fun s => ⟨?_, ?_⟩; rotate_left; show execCvt m f s = _; unfold execCvt cvtV; with_reducible rfl
  case cvti m f => refine fun s => ⟨?_, ?_⟩; rotate_left; show execCvti m f s = _; unfold execCvti cvtV; with_reducible rfl
  case cvtf m f => refine fun s => ⟨?_, ?_⟩; rotate_left; show execCvtf m f s = _; unfold execCvtf cvtV; with_reducible rfl
  case pack m f => refine fun s => ⟨?_, ?_⟩; rotate_left; show execPack m f s = _; unfold execPack; with_reducible rfl
  case unpk m f => refine fun s => ⟨?_, ?_⟩; rotate_left; show execUnpk m f s = _; unfold execUnpk; with_reducible rfl
  case dot2 m f => refine fun s => ⟨?_, ?_⟩; rotate_left; show execDot2 m f s = _; unfold execDot2 dotV; with_reducible rfl
  case dot4 m f => refine fun s => ⟨?_, ?_⟩; rotate_left; show execDot4 m f s = _; unfold execDot4 dotV; with_reducible rfl
  case dot8 m f => refine fun s => ⟨?_, ?_⟩; rotate_left; show execDot8 m f s = _; unfold execDot8 dotV; with_reducible rfl
  case rcp m f => refine fun s => ⟨?_, ?_⟩; rotate_left; show execRcp m f s = _; unfold execRcp fnV; with_reducible rfl
  case rcpa m f => refine fun s => ⟨?_, ?_⟩; rotate_left; show execRcpa m f s = _; unfold execRcpa; with_reducible rfl
  case rsq m f => refine fun s => ⟨?_, ?_⟩; rotate_left; show execRsq m f s = _; unfold execRsq fnV; with_reducible rfl
  case sqrt m f => refine fun s => ⟨?_, ?_⟩; rotate_left; show execSqrt m f s = _; unfold execSqrt fnV; with_reducible rfl
  case exp2 m f => refine fun s => ⟨?_, ?_⟩; rotate_left; show execExp2 m f s = _; unfold execExp2 fnV; with_reducible rfl
  case log2 m f => refine fun s => ⟨?_, ?_⟩; rotate_left; show execLog2 m f s = _; unfold execLog2 fnV; with_reducible rfl
  case sincos m f => refine fun s => ⟨?_, ?_⟩; rotate_left; show execSincos m f s = _; unfold execSincos; with_reducible rfl
  case erf m f => refine fun s => ⟨?_, ?_⟩; rotate_left; show execErf m f s = _; unfold execErf fnV; with_reducible rfl
  case rngkey m f => refine fun s => ⟨?_, ?_⟩; rotate_left; show execRngkey m f s = _; unfold execRngkey; with_reducible rfl
  case rngpos m f => refine fun s => ⟨?_, ?_⟩; rotate_left; show execRngpos m f s = _; unfold execRngpos; with_reducible rfl
  case rng m f => refine fun s => ⟨?_, ?_⟩; rotate_left; show execRng m f s = _; unfold execRng; with_reducible rfl
  case rngf m f => refine fun s => ⟨?_, ?_⟩; rotate_left; show execRngf m f s = _; unfold execRngf; with_reducible rfl
  case rngn m f => refine fun s => ⟨?_, ?_⟩; rotate_left; show execRngn m f s = _; unfold execRngn; with_reducible rfl
  case ld m f => refine fun s => ⟨?_, ?_⟩; rotate_left; show execLd m f s = _; unfold execLd; with_reducible rfl
  case st m f => refine fun s => ⟨?_, ?_⟩; rotate_left; show execSt m f s = _; unfold execSt; with_reducible rfl
  case lds m f => refine fun s => ⟨?_, ?_⟩; rotate_left; show execLds m f s = _; unfold execLds; with_reducible rfl
  case sts m f => refine fun s => ⟨?_, ?_⟩; rotate_left; show execSts m f s = _; unfold execSts; with_reducible rfl
  case pref m f => refine fun s => ⟨?_, ?_⟩; rotate_left; show execPref m f s = _; unfold execPref; with_reducible rfl
  case atomAdd m f => refine fun s => ⟨?_, ?_⟩; rotate_left; show execAtomAdd m f s = _; unfold execAtomAdd atomI; with_reducible rfl
  case atomMin m f => refine fun s => ⟨?_, ?_⟩; rotate_left; show execAtomMin m f s = _; unfold execAtomMin atomI; with_reducible rfl
  case atomMax m f => refine fun s => ⟨?_, ?_⟩; rotate_left; show execAtomMax m f s = _; unfold execAtomMax atomI; with_reducible rfl
  case atomAnd m f => refine fun s => ⟨?_, ?_⟩; rotate_left; show execAtomAnd m f s = _; unfold execAtomAnd atomI; with_reducible rfl
  case atomOr m f => refine fun s => ⟨?_, ?_⟩; rotate_left; show execAtomOr m f s = _; unfold execAtomOr atomI; with_reducible rfl
  case atomXor m f => refine fun s => ⟨?_, ?_⟩; rotate_left; show execAtomXor m f s = _; unfold execAtomXor atomI; with_reducible rfl
  case atomXchg m f => refine fun s => ⟨?_, ?_⟩; rotate_left; show execAtomXchg m f s = _; unfold execAtomXchg atomI; with_reducible rfl
  case atomFadd m f => refine fun s => ⟨?_, ?_⟩; rotate_left; show execAtomFadd m f s = _; unfold execAtomFadd atomI; with_reducible rfl
  case cas m f => refine fun s => ⟨?_, ?_⟩; rotate_left; show execCas m f s = _; unfold execCas; with_reducible rfl
  case red m f => refine fun s => ⟨?_, ?_⟩; rotate_left; show execRed m f s = _; unfold execRed; with_reducible rfl
  case fence m f => refine fun s => ⟨?_, ?_⟩; rotate_left; show execFence m f s = _; unfold execFence; with_reducible rfl
  case xfence m f => refine fun s => ⟨?_, ?_⟩; rotate_left; show execXfence m f s = _; unfold execXfence; with_reducible rfl
  case hinit m f => refine fun s => ⟨?_, ?_⟩; rotate_left; show execHinit m f s = _; unfold execHinit; with_reducible rfl
  case harv m f => refine fun s => ⟨?_, ?_⟩; rotate_left; show execHarv m f s = _; unfold execHarv; with_reducible rfl
  case hexp m f => refine fun s => ⟨?_, ?_⟩; rotate_left; show execHexp m f s = _; unfold execHexp; with_reducible rfl
  case hwait m f => refine fun s => ⟨?_, ?_⟩; rotate_left; show execHwait m f s = _; unfold execHwait; with_reducible rfl
  case tagw m f => refine fun s => ⟨?_, ?_⟩; rotate_left; show execTagw m f s = _; unfold execTagw; with_reducible rfl
  case tagf m f => refine fun s => ⟨?_, ?_⟩; rotate_left; show execTagf m f s = _; unfold execTagf; with_reducible rfl
  case tagc m f => refine fun s => ⟨?_, ?_⟩; rotate_left; show execTagc m f s = _; unfold execTagc; with_reducible rfl
  case madd m f => refine fun s => ⟨?_, ?_⟩; rotate_left; show execMadd m f s = _; unfold execMadd momV; with_reducible rfl
  case msub m f => refine fun s => ⟨?_, ?_⟩; rotate_left; show execMsub m f s = _; unfold execMsub momV; with_reducible rfl
  case mmul m f => refine fun s => ⟨?_, ?_⟩; rotate_left; show execMmul m f s = _; unfold execMmul momV; with_reducible rfl
  case mscl m f => refine fun s => ⟨?_, ?_⟩; rotate_left; show execMscl m f s = _; unfold execMscl momV; with_reducible rfl
  case msamp m f => refine fun s => ⟨?_, ?_⟩; rotate_left; show execMsamp m f s = _; unfold execMsamp momV; with_reducible rfl
  case mrelu m f => refine fun s => ⟨?_, ?_⟩; rotate_left; show execMrelu m f s = _; unfold execMrelu momV; with_reducible rfl
  case mexp m f => refine fun s => ⟨?_, ?_⟩; rotate_left; show execMexp m f s = _; unfold execMexp momV; with_reducible rfl
  case mcol m f => refine fun s => ⟨?_, ?_⟩; rotate_left; show execMcol m f s = _; unfold execMcol; with_reducible rfl
  case mmov m f => refine fun s => ⟨?_, ?_⟩; rotate_left; show execMmov m f s = _; unfold execMmov; with_reducible rfl
  case mspl m f => refine fun s => ⟨?_, ?_⟩; rotate_left; show execMspl m f s = _; unfold execMspl; with_reducible rfl
  case mmode m f => refine fun s => ⟨?_, ?_⟩; rotate_left; show execMmode m f s = _; unfold execMmode; with_reducible rfl
  case mld m f => refine fun s => ⟨?_, ?_⟩; rotate_left; show execMld m f s = _; unfold execMld; with_reducible rfl
  case mst m f => refine fun s => ⟨?_, ?_⟩; rotate_left; show execMst m f s = _; unfold execMst; with_reducible rfl
  case copy m f => refine fun s => ⟨?_, ?_⟩; rotate_left; show execCopy m f s = _; unfold execCopy; with_reducible rfl
  case copyt m f => refine fun s => ⟨?_, ?_⟩; rotate_left; show execCopyt m f s = _; unfold execCopyt; with_reducible rfl
  case gath m f => refine fun s => ⟨?_, ?_⟩; rotate_left; show execGath m f s = _; unfold execGath gathScat; with_reducible rfl
  case scat m f => refine fun s => ⟨?_, ?_⟩; rotate_left; show execScat m f s = _; unfold execScat gathScat; with_reducible rfl
  case pushw m f => refine fun s => ⟨?_, ?_⟩; rotate_left; show execPushw m f s = _; unfold execPushw; with_reducible rfl
  case crem m f => refine fun s => ⟨?_, ?_⟩; rotate_left; show execCrem m f s = _; unfold execCrem; with_reducible rfl
  case mma m f => refine fun s => ⟨?_, ?_⟩; rotate_left; show execMma m f s = _; unfold execMma matRequest; with_reducible rfl
  case mmat m f => refine fun s => ⟨?_, ?_⟩; rotate_left; show execMmat m f s = _; unfold execMmat; with_reducible rfl
  case mmas m f => refine fun s => ⟨?_, ?_⟩; rotate_left; show execMmas m f s = _; unfold execMmas matRequest; with_reducible rfl
  case mmam m f => refine fun s => ⟨?_, ?_⟩; rotate_left; show execMmam m f s = _; unfold execMmam matRequest; with_reducible rfl
  case mwait m f => refine fun s => ⟨?_, ?_⟩; rotate_left; show execMwait m f s = _; unfold execMwait; with_reducible rfl
  case acrd m f => refine fun s => ⟨?_, ?_⟩; rotate_left; show execAcrd m f s = _; unfold execAcrd; with_reducible rfl
  case acwr m f => refine fun s => ⟨?_, ?_⟩; rotate_left; show execAcwr m f s = _; unfold execAcwr; with_reducible rfl
  case acst m f => refine fun s => ⟨?_, ?_⟩; rotate_left; show execAcst m f s = _; unfold execAcst; with_reducible rfl
  case acz m f => refine fun s => ⟨?_, ?_⟩; rotate_left; show execAcz m f s = _; unfold execAcz; with_reducible rfl
  case acrel m f => refine fun s => ⟨?_, ?_⟩; rotate_left; show execAcrel m f s = _; unfold execAcrel; with_reducible rfl
  case cclr m f => refine fun s => ⟨?_, ?_⟩; rotate_left; show execCclr m f s = _; unfold execCclr; with_reducible rfl
  case cfrm m f => refine fun s => ⟨?_, ?_⟩; rotate_left; show execCfrm m f s = _; unfold execCfrm; with_reducible rfl
  case clobe m f => refine fun s => ⟨?_, ?_⟩; rotate_left; show execClobe m f s = _; unfold execClobe; with_reducible rfl
  case cmix m f => refine fun s => ⟨?_, ?_⟩; rotate_left; show execCmix m f s = _; unfold execCmix; with_reducible rfl
  case clay m f => refine fun s => ⟨?_, ?_⟩; rotate_left; show execClay m f s = _; unfold execClay; with_reducible rfl
  case cnet m f => refine fun s => ⟨?_, ?_⟩; rotate_left; show execCnet m f s = _; unfold execCnet; with_reducible rfl
  case csmp m f => refine fun s => ⟨?_, ?_⟩; rotate_left; show execCsmp m f s = _; unfold execCsmp queryAct; with_reducible rfl
  case cevl m f => refine fun s => ⟨?_, ?_⟩; rotate_left; show execCevl m f s = _; unfold execCevl queryAct; with_reducible rfl
  case cpdf m f => refine fun s => ⟨?_, ?_⟩; rotate_left; show execCpdf m f s = _; unfold execCpdf queryAct; with_reducible rfl
  case calb m f => refine fun s => ⟨?_, ?_⟩; rotate_left; show execCalb m f s = _; unfold execCalb queryAct; with_reducible rfl
  case cspl m f => refine fun s => ⟨?_, ?_⟩; rotate_left; show execCspl m f s = _; unfold execCspl; with_reducible rfl
  case cfil m f => refine fun s => ⟨?_, ?_⟩; rotate_left; show execCfil m f s = _; unfold execCfil; with_reducible rfl
  case ldt m f => refine fun s => ⟨?_, ?_⟩; rotate_left; show execLdt m f s = _; unfold execLdt; with_reducible rfl
  case cfence m f => refine fun s => ⟨?_, ?_⟩; rotate_left; show execCfence m f s = _; unfold execCfence; with_reducible rfl
  case trace m f => refine fun s => ⟨?_, ?_⟩; rotate_left; show execTrace m f s = _; unfold execTrace; with_reducible rfl
  case tstep m f => refine fun s => ⟨?_, ?_⟩; rotate_left; show execTstep m f s = _; unfold execTstep; with_reducible rfl
  case hitget m f => refine fun s => ⟨?_, ?_⟩; rotate_left; show execHitget m f s = _; unfold execHitget; with_reducible rfl
  case hitacc m f => refine fun s => ⟨?_, ?_⟩; rotate_left; show execHitacc m f s = _; unfold execHitacc; with_reducible rfl
  case rast m f => refine fun s => ⟨?_, ?_⟩; rotate_left; show execRast m f s = _; unfold execRast; with_reducible rfl
  case qdiff m f => refine fun s => ⟨?_, ?_⟩; rotate_left; show execQdiff m f s = _; unfold execQdiff; with_reducible rfl
  case resid m f => refine fun s => ⟨?_, ?_⟩; rotate_left; show execResid m f s = _; unfold execResid; with_reducible rfl
  case folddef m f => refine fun s => ⟨?_, ?_⟩; rotate_left; show execFolddef m f s = _; unfold execFolddef; with_reducible rfl
  case fold m f => refine fun s => ⟨?_, ?_⟩; rotate_left; show execFold m f s = _; unfold execFold; with_reducible rfl
  case foldf m f => refine fun s => ⟨?_, ?_⟩; rotate_left; show execFoldf m f s = _; unfold execFoldf; with_reducible rfl
  case blend m f => refine fun s => ⟨?_, ?_⟩; rotate_left; show execBlend m f s = _; unfold execBlend; with_reducible rfl
  case brand m f => refine fun s => ⟨?_, ?_⟩; rotate_left; show execBrand m f s = _; unfold execBrand; with_reducible rfl
  case phase m f => refine fun s => ⟨?_, ?_⟩; rotate_left; show execPhase m f s = _; unfold execPhase; with_reducible rfl
  case emit m f => refine fun s => ⟨?_, ?_⟩; rotate_left; show execEmit m f s = _; unfold execEmit; with_reducible rfl
  case pubv m f => refine fun s => ⟨?_, ?_⟩; rotate_left; show execPubv m f s = _; unfold execPubv; with_reducible rfl
  case vwait m f => refine fun s => ⟨?_, ?_⟩; rotate_left; show execVwait m f s = _; unfold execVwait; with_reducible rfl
  case vchk m f => refine fun s => ⟨?_, ?_⟩; rotate_left; show execVchk m f s = _; unfold execVchk; with_reducible rfl
  case vstop m f => refine fun s => ⟨?_, ?_⟩; rotate_left; show execVstop m f s = _; unfold execVstop; with_reducible rfl
  case vget m f => refine fun s => ⟨?_, ?_⟩; rotate_left; show execVget m f s = _; unfold execVget; with_reducible rfl
  case lnch m f => refine fun s => ⟨?_, ?_⟩; rotate_left; show execLnch m f s = _; unfold execLnch; with_reducible rfl
  all_goals exact absurd rfl h

end Sys2Proof.Machine
end

