-- ==== Sys2Proof/Laws/Lists.lean ====
section
/-!
SUPPORT. Register lists and lane masks: what `rd` reads after `wr`, `wrs` and a rebuild of all lanes, and which lanes a mask holds.
-/
namespace Sys2Proof.Machine
open Sys2Proof

section Registers
variable {α : Type} [Inhabited α]

@[simp] theorem rd_nil (i : Nat) : rd ([] : List α) i = default := by simp [rd]
@[simp] theorem rd_cons_zero (a : α) (l : List α) : rd (a :: l) 0 = a := by simp [rd]
@[simp] theorem rd_cons_succ (a : α) (l : List α) (i : Nat) : rd (a :: l) (i + 1) = rd l i := by simp [rd]

/-- Reading after one write. -/
theorem rd_wr (l : List α) (i j : Nat) (x : α) : rd (wr l i x) j = if i = j then x else rd l j := by
  induction l generalizing i j with
  | nil =>
    induction i generalizing j with
    | zero => cases j <;> simp [wr]
    | succ n ih => cases j <;> simp [wr, ih]
  | cons a t ih =>
    cases i <;> cases j <;> simp [wr, ih]

/-- Reading after a list of writes. -/
theorem rd_wrs_word (l : List Word) (ws : List (Nat × Word)) (r : Nat) :
    rd (wrs l ws) r = ws.foldl (fun x w => if w.1 = r then w.2 else x) (rd l r) := by
  unfold wrs
  induction ws generalizing l with
  | nil => rfl
  | cons w t ih => rw [List.foldl_cons, ih, rd_wr]; rfl

/-- A list rebuilt from 0 to n - 1. -/
theorem rd_map_range (n : Nat) (f : Nat → α) (i : Nat) : rd ((List.range n).map f) i = if i < n then f i else default := by
  unfold rd
  by_cases h : i < n <;> simp [List.getD_eq_getElem?_getD, h]

@[simp] theorem wrs_nil (l : List α) : wrs l [] = l := rfl

end Registers

section Lanes

/-- A mapped group's lanes, one by one. -/
theorem rd_mapLanes (g : Group) (m : BitVec 32) (f : Nat → Lane → Lane) (l : Nat) (h : l < 32) :
    rd (g.mapLanes m f).lanes l = if inMask m l then f l (rd g.lanes l) else rd g.lanes l := by
  unfold Group.mapLanes; rw [rd_map_range]; simp [h]

/-- Mapping lanes changes no other part of a group. -/
theorem mapLanes_eq (g : Group) (m : BitVec 32) (f : Nat → Lane → Lane) :
    g.mapLanes m f = { g with lanes := (g.mapLanes m f).lanes } := rfl

theorem getLsbD_setAt (p : Nat → Bool) (n : Nat) (hn : n ≤ 32) (l : Nat) :
    ((List.range n).foldl (fun (m : BitVec 32) l => if p l then m ||| (1#32 <<< l) else m) 0).getLsbD l = (decide (l < n) && p l) := by
  induction n with
  | zero => simp
  | succ k ih =>
    rw [List.range_succ, List.foldl_append, List.foldl_cons, List.foldl_nil]
    have ih := ih (by omega)
    have h1 : (1#32 <<< k).getLsbD l = decide (l = k) := by
      by_cases hl : l = k
      · subst hl; simp; omega
      · simp [BitVec.getLsbD_shiftLeft, BitVec.getLsbD_one, hl]; omega
    have h2 : decide (l < k + 1) = (decide (l < k) || decide (l = k)) := by rw [← Bool.decide_or, decide_eq_decide]; omega
    rw [h2]
    split
    · rename_i hp
      rw [BitVec.getLsbD_or, ih, h1]
      by_cases hl : l = k
      · subst hl; simp [hp]
      · simp [hl]
    · rename_i hp
      rw [ih]
      by_cases hl : l = k
      · subst hl; simp [hp]
      · simp [hl]

/-- The lanes of a computed mask. -/
@[simp] theorem inMask_maskOf (p : Nat → Bool) (l : Nat) : inMask (maskOf p) l = (decide (l < 32) && p l) :=
  getLsbD_setAt p 32 (Nat.le_refl _) l

/-- The lanes that a mask lists are the lanes in it. -/
theorem mem_lanesOf (m : BitVec 32) (l : Nat) : l ∈ lanesOf m ↔ l < 32 ∧ inMask m l = true := by
  simp [lanesOf]

end Lanes

end Sys2Proof.Machine
end

