-- ==== Sys2Proof/Laws/State.lean ====
section
/-!
SUPPORT. What each named update of the state leaves of each field, and what the look-ups read after it.
-/
namespace Sys2Proof.Machine
open Sys2Proof

section Fields
variable (s : State)

@[simp] theorem State.modTeam_cores (id : Nat) (f : Team → Team) : (s.modTeam id f).cores = s.cores := rfl
@[simp] theorem State.modTeam_launches (id : Nat) (f : Team → Team) : (s.modTeam id f).launches = s.launches := rfl
@[simp] theorem State.modTeam_mem (id : Nat) (f : Team → Team) : (s.modTeam id f).mem = s.mem := rfl
@[simp] theorem State.modTeam_entries (id : Nat) (f : Team → Team) : (s.modTeam id f).entries = s.entries := rfl
@[simp] theorem State.modTeam_tiles (id : Nat) (f : Team → Team) : (s.modTeam id f).tiles = s.tiles := rfl
@[simp] theorem State.modTeam_flights (id : Nat) (f : Team → Team) : (s.modTeam id f).flights = s.flights := rfl
@[simp] theorem State.modTeam_fq (id : Nat) (f : Team → Team) : (s.modTeam id f).fq = s.fq := rfl
@[simp] theorem State.modTeam_errLines (id : Nat) (f : Team → Team) : (s.modTeam id f).errLines = s.errLines := rfl
@[simp] theorem State.modTeam_errPages (id : Nat) (f : Team → Team) : (s.modTeam id f).errPages = s.errPages := rfl
@[simp] theorem State.modTeam_retired (id : Nat) (f : Team → Team) : (s.modTeam id f).retired = s.retired := rfl
@[simp] theorem State.modTeam_decoded (id : Nat) (f : Team → Team) : (s.modTeam id f).decoded = s.decoded := rfl
@[simp] theorem State.modTeam_fmtRegs (id : Nat) (f : Team → Team) : (s.modTeam id f).fmtRegs = s.fmtRegs := rfl
@[simp] theorem State.modTeam_owner (id : Nat) (f : Team → Team) : (s.modTeam id f).owner = s.owner := rfl
@[simp] theorem State.modTeam_vdevs (id : Nat) (f : Team → Team) : (s.modTeam id f).vdevs = s.vdevs := rfl
@[simp] theorem State.modTeam_parts (id : Nat) (f : Team → Team) : (s.modTeam id f).parts = s.parts := rfl
@[simp] theorem State.modTeam_lent (id : Nat) (f : Team → Team) : (s.modTeam id f).lent = s.lent := rfl
@[simp] theorem State.modTeam_conns (id : Nat) (f : Team → Team) : (s.modTeam id f).conns = s.conns := rfl
@[simp] theorem State.modTeam_outbox (id : Nat) (f : Team → Team) : (s.modTeam id f).outbox = s.outbox := rfl
@[simp] theorem State.modTeam_feedback (id : Nat) (f : Team → Team) : (s.modTeam id f).feedback = s.feedback := rfl
@[simp] theorem State.modTeam_events (id : Nat) (f : Team → Team) : (s.modTeam id f).events = s.events := rfl
@[simp] theorem State.modTeam_eventSeq (id : Nat) (f : Team → Team) : (s.modTeam id f).eventSeq = s.eventSeq := rfl
@[simp] theorem State.modTeam_noted (id : Nat) (f : Team → Team) : (s.modTeam id f).noted = s.noted := rfl
@[simp] theorem State.modTeam_clocks (id : Nat) (f : Team → Team) : (s.modTeam id f).clocks = s.clocks := rfl
@[simp] theorem State.modTeam_errCounts (id : Nat) (f : Team → Team) : (s.modTeam id f).errCounts = s.errCounts := rfl
@[simp] theorem State.modTeam_keys (id : Nat) (f : Team → Team) : (s.modTeam id f).keys = s.keys := rfl
@[simp] theorem State.modTeam_resSeq (id : Nat) (f : Team → Team) : (s.modTeam id f).resSeq = s.resSeq := rfl
@[simp] theorem State.modTeam_portsUp (id : Nat) (f : Team → Team) : (s.modTeam id f).portsUp = s.portsUp := rfl
@[simp] theorem State.modTeam_power (id : Nat) (f : Team → Team) : (s.modTeam id f).power = s.power := rfl
@[simp] theorem State.modTeam_secVer (id : Nat) (f : Team → Team) : (s.modTeam id f).secVer = s.secVer := rfl
@[simp] theorem State.modTeam_minVer (id : Nat) (f : Team → Team) : (s.modTeam id f).minVer = s.minVer := rfl
@[simp] theorem State.modTeam_image (id : Nat) (f : Team → Team) : (s.modTeam id f).image = s.image := rfl
@[simp] theorem State.modTeam_recBuf (id : Nat) (f : Team → Team) : (s.modTeam id f).recBuf = s.recBuf := rfl
@[simp] theorem State.modTeam_nextId (id : Nat) (f : Team → Team) : (s.modTeam id f).nextId = s.nextId := rfl
@[simp] theorem State.modTeam_agenda (id : Nat) (f : Team → Team) : (s.modTeam id f).agenda = s.agenda := rfl
@[simp] theorem State.modTeam_tick (id : Nat) (f : Team → Team) : (s.modTeam id f).tick = s.tick := rfl
@[simp] theorem State.modTeam_cur (id : Nat) (f : Team → Team) : (s.modTeam id f).cur = s.cur := rfl

@[simp] theorem State.modGroup_cores (tm g : Nat) (f : Group → Group) : (s.modGroup tm g f).cores = s.cores := rfl
@[simp] theorem State.modGroup_launches (tm g : Nat) (f : Group → Group) : (s.modGroup tm g f).launches = s.launches := rfl
@[simp] theorem State.modGroup_mem (tm g : Nat) (f : Group → Group) : (s.modGroup tm g f).mem = s.mem := rfl
@[simp] theorem State.modGroup_entries (tm g : Nat) (f : Group → Group) : (s.modGroup tm g f).entries = s.entries := rfl
@[simp] theorem State.modGroup_tiles (tm g : Nat) (f : Group → Group) : (s.modGroup tm g f).tiles = s.tiles := rfl
@[simp] theorem State.modGroup_flights (tm g : Nat) (f : Group → Group) : (s.modGroup tm g f).flights = s.flights := rfl
@[simp] theorem State.modGroup_fq (tm g : Nat) (f : Group → Group) : (s.modGroup tm g f).fq = s.fq := rfl
@[simp] theorem State.modGroup_errLines (tm g : Nat) (f : Group → Group) : (s.modGroup tm g f).errLines = s.errLines := rfl
@[simp] theorem State.modGroup_errPages (tm g : Nat) (f : Group → Group) : (s.modGroup tm g f).errPages = s.errPages := rfl
@[simp] theorem State.modGroup_retired (tm g : Nat) (f : Group → Group) : (s.modGroup tm g f).retired = s.retired := rfl
@[simp] theorem State.modGroup_decoded (tm g : Nat) (f : Group → Group) : (s.modGroup tm g f).decoded = s.decoded := rfl
@[simp] theorem State.modGroup_fmtRegs (tm g : Nat) (f : Group → Group) : (s.modGroup tm g f).fmtRegs = s.fmtRegs := rfl
@[simp] theorem State.modGroup_owner (tm g : Nat) (f : Group → Group) : (s.modGroup tm g f).owner = s.owner := rfl
@[simp] theorem State.modGroup_vdevs (tm g : Nat) (f : Group → Group) : (s.modGroup tm g f).vdevs = s.vdevs := rfl
@[simp] theorem State.modGroup_parts (tm g : Nat) (f : Group → Group) : (s.modGroup tm g f).parts = s.parts := rfl
@[simp] theorem State.modGroup_lent (tm g : Nat) (f : Group → Group) : (s.modGroup tm g f).lent = s.lent := rfl
@[simp] theorem State.modGroup_conns (tm g : Nat) (f : Group → Group) : (s.modGroup tm g f).conns = s.conns := rfl
@[simp] theorem State.modGroup_outbox (tm g : Nat) (f : Group → Group) : (s.modGroup tm g f).outbox = s.outbox := rfl
@[simp] theorem State.modGroup_feedback (tm g : Nat) (f : Group → Group) : (s.modGroup tm g f).feedback = s.feedback := rfl
@[simp] theorem State.modGroup_events (tm g : Nat) (f : Group → Group) : (s.modGroup tm g f).events = s.events := rfl
@[simp] theorem State.modGroup_eventSeq (tm g : Nat) (f : Group → Group) : (s.modGroup tm g f).eventSeq = s.eventSeq := rfl
@[simp] theorem State.modGroup_noted (tm g : Nat) (f : Group → Group) : (s.modGroup tm g f).noted = s.noted := rfl
@[simp] theorem State.modGroup_clocks (tm g : Nat) (f : Group → Group) : (s.modGroup tm g f).clocks = s.clocks := rfl
@[simp] theorem State.modGroup_errCounts (tm g : Nat) (f : Group → Group) : (s.modGroup tm g f).errCounts = s.errCounts := rfl
@[simp] theorem State.modGroup_keys (tm g : Nat) (f : Group → Group) : (s.modGroup tm g f).keys = s.keys := rfl
@[simp] theorem State.modGroup_resSeq (tm g : Nat) (f : Group → Group) : (s.modGroup tm g f).resSeq = s.resSeq := rfl
@[simp] theorem State.modGroup_portsUp (tm g : Nat) (f : Group → Group) : (s.modGroup tm g f).portsUp = s.portsUp := rfl
@[simp] theorem State.modGroup_power (tm g : Nat) (f : Group → Group) : (s.modGroup tm g f).power = s.power := rfl
@[simp] theorem State.modGroup_secVer (tm g : Nat) (f : Group → Group) : (s.modGroup tm g f).secVer = s.secVer := rfl
@[simp] theorem State.modGroup_minVer (tm g : Nat) (f : Group → Group) : (s.modGroup tm g f).minVer = s.minVer := rfl
@[simp] theorem State.modGroup_image (tm g : Nat) (f : Group → Group) : (s.modGroup tm g f).image = s.image := rfl
@[simp] theorem State.modGroup_recBuf (tm g : Nat) (f : Group → Group) : (s.modGroup tm g f).recBuf = s.recBuf := rfl
@[simp] theorem State.modGroup_nextId (tm g : Nat) (f : Group → Group) : (s.modGroup tm g f).nextId = s.nextId := rfl
@[simp] theorem State.modGroup_agenda (tm g : Nat) (f : Group → Group) : (s.modGroup tm g f).agenda = s.agenda := rfl
@[simp] theorem State.modGroup_tick (tm g : Nat) (f : Group → Group) : (s.modGroup tm g f).tick = s.tick := rfl
@[simp] theorem State.modGroup_cur (tm g : Nat) (f : Group → Group) : (s.modGroup tm g f).cur = s.cur := rfl

@[simp] theorem State.mapLanes_cores (tm g : Nat) (m : BitVec 32) (f : Nat → Lane → Lane) : (s.mapLanes tm g m f).cores = s.cores := rfl
@[simp] theorem State.mapLanes_launches (tm g : Nat) (m : BitVec 32) (f : Nat → Lane → Lane) : (s.mapLanes tm g m f).launches = s.launches := rfl
@[simp] theorem State.mapLanes_mem (tm g : Nat) (m : BitVec 32) (f : Nat → Lane → Lane) : (s.mapLanes tm g m f).mem = s.mem := rfl
@[simp] theorem State.mapLanes_entries (tm g : Nat) (m : BitVec 32) (f : Nat → Lane → Lane) : (s.mapLanes tm g m f).entries = s.entries := rfl
@[simp] theorem State.mapLanes_tiles (tm g : Nat) (m : BitVec 32) (f : Nat → Lane → Lane) : (s.mapLanes tm g m f).tiles = s.tiles := rfl
@[simp] theorem State.mapLanes_flights (tm g : Nat) (m : BitVec 32) (f : Nat → Lane → Lane) : (s.mapLanes tm g m f).flights = s.flights := rfl
@[simp] theorem State.mapLanes_fq (tm g : Nat) (m : BitVec 32) (f : Nat → Lane → Lane) : (s.mapLanes tm g m f).fq = s.fq := rfl
@[simp] theorem State.mapLanes_errLines (tm g : Nat) (m : BitVec 32) (f : Nat → Lane → Lane) : (s.mapLanes tm g m f).errLines = s.errLines := rfl
@[simp] theorem State.mapLanes_errPages (tm g : Nat) (m : BitVec 32) (f : Nat → Lane → Lane) : (s.mapLanes tm g m f).errPages = s.errPages := rfl
@[simp] theorem State.mapLanes_retired (tm g : Nat) (m : BitVec 32) (f : Nat → Lane → Lane) : (s.mapLanes tm g m f).retired = s.retired := rfl
@[simp] theorem State.mapLanes_decoded (tm g : Nat) (m : BitVec 32) (f : Nat → Lane → Lane) : (s.mapLanes tm g m f).decoded = s.decoded := rfl
@[simp] theorem State.mapLanes_fmtRegs (tm g : Nat) (m : BitVec 32) (f : Nat → Lane → Lane) : (s.mapLanes tm g m f).fmtRegs = s.fmtRegs := rfl
@[simp] theorem State.mapLanes_owner (tm g : Nat) (m : BitVec 32) (f : Nat → Lane → Lane) : (s.mapLanes tm g m f).owner = s.owner := rfl
@[simp] theorem State.mapLanes_vdevs (tm g : Nat) (m : BitVec 32) (f : Nat → Lane → Lane) : (s.mapLanes tm g m f).vdevs = s.vdevs := rfl
@[simp] theorem State.mapLanes_parts (tm g : Nat) (m : BitVec 32) (f : Nat → Lane → Lane) : (s.mapLanes tm g m f).parts = s.parts := rfl
@[simp] theorem State.mapLanes_lent (tm g : Nat) (m : BitVec 32) (f : Nat → Lane → Lane) : (s.mapLanes tm g m f).lent = s.lent := rfl
@[simp] theorem State.mapLanes_conns (tm g : Nat) (m : BitVec 32) (f : Nat → Lane → Lane) : (s.mapLanes tm g m f).conns = s.conns := rfl
@[simp] theorem State.mapLanes_outbox (tm g : Nat) (m : BitVec 32) (f : Nat → Lane → Lane) : (s.mapLanes tm g m f).outbox = s.outbox := rfl
@[simp] theorem State.mapLanes_feedback (tm g : Nat) (m : BitVec 32) (f : Nat → Lane → Lane) : (s.mapLanes tm g m f).feedback = s.feedback := rfl
@[simp] theorem State.mapLanes_events (tm g : Nat) (m : BitVec 32) (f : Nat → Lane → Lane) : (s.mapLanes tm g m f).events = s.events := rfl
@[simp] theorem State.mapLanes_eventSeq (tm g : Nat) (m : BitVec 32) (f : Nat → Lane → Lane) : (s.mapLanes tm g m f).eventSeq = s.eventSeq := rfl
@[simp] theorem State.mapLanes_noted (tm g : Nat) (m : BitVec 32) (f : Nat → Lane → Lane) : (s.mapLanes tm g m f).noted = s.noted := rfl
@[simp] theorem State.mapLanes_clocks (tm g : Nat) (m : BitVec 32) (f : Nat → Lane → Lane) : (s.mapLanes tm g m f).clocks = s.clocks := rfl
@[simp] theorem State.mapLanes_errCounts (tm g : Nat) (m : BitVec 32) (f : Nat → Lane → Lane) : (s.mapLanes tm g m f).errCounts = s.errCounts := rfl
@[simp] theorem State.mapLanes_keys (tm g : Nat) (m : BitVec 32) (f : Nat → Lane → Lane) : (s.mapLanes tm g m f).keys = s.keys := rfl
@[simp] theorem State.mapLanes_resSeq (tm g : Nat) (m : BitVec 32) (f : Nat → Lane → Lane) : (s.mapLanes tm g m f).resSeq = s.resSeq := rfl
@[simp] theorem State.mapLanes_portsUp (tm g : Nat) (m : BitVec 32) (f : Nat → Lane → Lane) : (s.mapLanes tm g m f).portsUp = s.portsUp := rfl
@[simp] theorem State.mapLanes_power (tm g : Nat) (m : BitVec 32) (f : Nat → Lane → Lane) : (s.mapLanes tm g m f).power = s.power := rfl
@[simp] theorem State.mapLanes_secVer (tm g : Nat) (m : BitVec 32) (f : Nat → Lane → Lane) : (s.mapLanes tm g m f).secVer = s.secVer := rfl
@[simp] theorem State.mapLanes_minVer (tm g : Nat) (m : BitVec 32) (f : Nat → Lane → Lane) : (s.mapLanes tm g m f).minVer = s.minVer := rfl
@[simp] theorem State.mapLanes_image (tm g : Nat) (m : BitVec 32) (f : Nat → Lane → Lane) : (s.mapLanes tm g m f).image = s.image := rfl
@[simp] theorem State.mapLanes_recBuf (tm g : Nat) (m : BitVec 32) (f : Nat → Lane → Lane) : (s.mapLanes tm g m f).recBuf = s.recBuf := rfl
@[simp] theorem State.mapLanes_nextId (tm g : Nat) (m : BitVec 32) (f : Nat → Lane → Lane) : (s.mapLanes tm g m f).nextId = s.nextId := rfl
@[simp] theorem State.mapLanes_agenda (tm g : Nat) (m : BitVec 32) (f : Nat → Lane → Lane) : (s.mapLanes tm g m f).agenda = s.agenda := rfl
@[simp] theorem State.mapLanes_tick (tm g : Nat) (m : BitVec 32) (f : Nat → Lane → Lane) : (s.mapLanes tm g m f).tick = s.tick := rfl
@[simp] theorem State.mapLanes_cur (tm g : Nat) (m : BitVec 32) (f : Nat → Lane → Lane) : (s.mapLanes tm g m f).cur = s.cur := rfl

@[simp] theorem State.applyFx_cores (tm g : Nat) (m : BitVec 32) (fx : Nat → Fx) : (s.applyFx tm g m fx).cores = s.cores := rfl
@[simp] theorem State.applyFx_launches (tm g : Nat) (m : BitVec 32) (fx : Nat → Fx) : (s.applyFx tm g m fx).launches = s.launches := rfl
@[simp] theorem State.applyFx_mem (tm g : Nat) (m : BitVec 32) (fx : Nat → Fx) : (s.applyFx tm g m fx).mem = s.mem := rfl
@[simp] theorem State.applyFx_entries (tm g : Nat) (m : BitVec 32) (fx : Nat → Fx) : (s.applyFx tm g m fx).entries = s.entries := rfl
@[simp] theorem State.applyFx_tiles (tm g : Nat) (m : BitVec 32) (fx : Nat → Fx) : (s.applyFx tm g m fx).tiles = s.tiles := rfl
@[simp] theorem State.applyFx_flights (tm g : Nat) (m : BitVec 32) (fx : Nat → Fx) : (s.applyFx tm g m fx).flights = s.flights := rfl
@[simp] theorem State.applyFx_fq (tm g : Nat) (m : BitVec 32) (fx : Nat → Fx) : (s.applyFx tm g m fx).fq = s.fq := rfl
@[simp] theorem State.applyFx_errLines (tm g : Nat) (m : BitVec 32) (fx : Nat → Fx) : (s.applyFx tm g m fx).errLines = s.errLines := rfl
@[simp] theorem State.applyFx_errPages (tm g : Nat) (m : BitVec 32) (fx : Nat → Fx) : (s.applyFx tm g m fx).errPages = s.errPages := rfl
@[simp] theorem State.applyFx_retired (tm g : Nat) (m : BitVec 32) (fx : Nat → Fx) : (s.applyFx tm g m fx).retired = s.retired := rfl
@[simp] theorem State.applyFx_decoded (tm g : Nat) (m : BitVec 32) (fx : Nat → Fx) : (s.applyFx tm g m fx).decoded = s.decoded := rfl
@[simp] theorem State.applyFx_fmtRegs (tm g : Nat) (m : BitVec 32) (fx : Nat → Fx) : (s.applyFx tm g m fx).fmtRegs = s.fmtRegs := rfl
@[simp] theorem State.applyFx_owner (tm g : Nat) (m : BitVec 32) (fx : Nat → Fx) : (s.applyFx tm g m fx).owner = s.owner := rfl
@[simp] theorem State.applyFx_vdevs (tm g : Nat) (m : BitVec 32) (fx : Nat → Fx) : (s.applyFx tm g m fx).vdevs = s.vdevs := rfl
@[simp] theorem State.applyFx_parts (tm g : Nat) (m : BitVec 32) (fx : Nat → Fx) : (s.applyFx tm g m fx).parts = s.parts := rfl
@[simp] theorem State.applyFx_lent (tm g : Nat) (m : BitVec 32) (fx : Nat → Fx) : (s.applyFx tm g m fx).lent = s.lent := rfl
@[simp] theorem State.applyFx_conns (tm g : Nat) (m : BitVec 32) (fx : Nat → Fx) : (s.applyFx tm g m fx).conns = s.conns := rfl
@[simp] theorem State.applyFx_outbox (tm g : Nat) (m : BitVec 32) (fx : Nat → Fx) : (s.applyFx tm g m fx).outbox = s.outbox := rfl
@[simp] theorem State.applyFx_feedback (tm g : Nat) (m : BitVec 32) (fx : Nat → Fx) : (s.applyFx tm g m fx).feedback = s.feedback := rfl
@[simp] theorem State.applyFx_events (tm g : Nat) (m : BitVec 32) (fx : Nat → Fx) : (s.applyFx tm g m fx).events = s.events := rfl
@[simp] theorem State.applyFx_eventSeq (tm g : Nat) (m : BitVec 32) (fx : Nat → Fx) : (s.applyFx tm g m fx).eventSeq = s.eventSeq := rfl
@[simp] theorem State.applyFx_noted (tm g : Nat) (m : BitVec 32) (fx : Nat → Fx) : (s.applyFx tm g m fx).noted = s.noted := rfl
@[simp] theorem State.applyFx_clocks (tm g : Nat) (m : BitVec 32) (fx : Nat → Fx) : (s.applyFx tm g m fx).clocks = s.clocks := rfl
@[simp] theorem State.applyFx_errCounts (tm g : Nat) (m : BitVec 32) (fx : Nat → Fx) : (s.applyFx tm g m fx).errCounts = s.errCounts := rfl
@[simp] theorem State.applyFx_keys (tm g : Nat) (m : BitVec 32) (fx : Nat → Fx) : (s.applyFx tm g m fx).keys = s.keys := rfl
@[simp] theorem State.applyFx_resSeq (tm g : Nat) (m : BitVec 32) (fx : Nat → Fx) : (s.applyFx tm g m fx).resSeq = s.resSeq := rfl
@[simp] theorem State.applyFx_portsUp (tm g : Nat) (m : BitVec 32) (fx : Nat → Fx) : (s.applyFx tm g m fx).portsUp = s.portsUp := rfl
@[simp] theorem State.applyFx_power (tm g : Nat) (m : BitVec 32) (fx : Nat → Fx) : (s.applyFx tm g m fx).power = s.power := rfl
@[simp] theorem State.applyFx_secVer (tm g : Nat) (m : BitVec 32) (fx : Nat → Fx) : (s.applyFx tm g m fx).secVer = s.secVer := rfl
@[simp] theorem State.applyFx_minVer (tm g : Nat) (m : BitVec 32) (fx : Nat → Fx) : (s.applyFx tm g m fx).minVer = s.minVer := rfl
@[simp] theorem State.applyFx_image (tm g : Nat) (m : BitVec 32) (fx : Nat → Fx) : (s.applyFx tm g m fx).image = s.image := rfl
@[simp] theorem State.applyFx_recBuf (tm g : Nat) (m : BitVec 32) (fx : Nat → Fx) : (s.applyFx tm g m fx).recBuf = s.recBuf := rfl
@[simp] theorem State.applyFx_nextId (tm g : Nat) (m : BitVec 32) (fx : Nat → Fx) : (s.applyFx tm g m fx).nextId = s.nextId := rfl
@[simp] theorem State.applyFx_agenda (tm g : Nat) (m : BitVec 32) (fx : Nat → Fx) : (s.applyFx tm g m fx).agenda = s.agenda := rfl
@[simp] theorem State.applyFx_tick (tm g : Nat) (m : BitVec 32) (fx : Nat → Fx) : (s.applyFx tm g m fx).tick = s.tick := rfl
@[simp] theorem State.applyFx_cur (tm g : Nat) (m : BitVec 32) (fx : Nat → Fx) : (s.applyFx tm g m fx).cur = s.cur := rfl

@[simp] theorem State.settle_cores (c : Cur) : (s.settle c).cores = s.cores := rfl
@[simp] theorem State.settle_launches (c : Cur) : (s.settle c).launches = s.launches := rfl
@[simp] theorem State.settle_mem (c : Cur) : (s.settle c).mem = s.mem := rfl
@[simp] theorem State.settle_entries (c : Cur) : (s.settle c).entries = s.entries := rfl
@[simp] theorem State.settle_tiles (c : Cur) : (s.settle c).tiles = s.tiles := rfl
@[simp] theorem State.settle_flights (c : Cur) : (s.settle c).flights = s.flights := rfl
@[simp] theorem State.settle_fq (c : Cur) : (s.settle c).fq = s.fq := rfl
@[simp] theorem State.settle_errLines (c : Cur) : (s.settle c).errLines = s.errLines := rfl
@[simp] theorem State.settle_errPages (c : Cur) : (s.settle c).errPages = s.errPages := rfl
@[simp] theorem State.settle_retired (c : Cur) : (s.settle c).retired = s.retired := rfl
@[simp] theorem State.settle_decoded (c : Cur) : (s.settle c).decoded = s.decoded := rfl
@[simp] theorem State.settle_fmtRegs (c : Cur) : (s.settle c).fmtRegs = s.fmtRegs := rfl
@[simp] theorem State.settle_owner (c : Cur) : (s.settle c).owner = s.owner := rfl
@[simp] theorem State.settle_vdevs (c : Cur) : (s.settle c).vdevs = s.vdevs := rfl
@[simp] theorem State.settle_parts (c : Cur) : (s.settle c).parts = s.parts := rfl
@[simp] theorem State.settle_lent (c : Cur) : (s.settle c).lent = s.lent := rfl
@[simp] theorem State.settle_conns (c : Cur) : (s.settle c).conns = s.conns := rfl
@[simp] theorem State.settle_outbox (c : Cur) : (s.settle c).outbox = s.outbox := rfl
@[simp] theorem State.settle_feedback (c : Cur) : (s.settle c).feedback = s.feedback := rfl
@[simp] theorem State.settle_events (c : Cur) : (s.settle c).events = s.events := rfl
@[simp] theorem State.settle_eventSeq (c : Cur) : (s.settle c).eventSeq = s.eventSeq := rfl
@[simp] theorem State.settle_noted (c : Cur) : (s.settle c).noted = s.noted := rfl
@[simp] theorem State.settle_clocks (c : Cur) : (s.settle c).clocks = s.clocks := rfl
@[simp] theorem State.settle_errCounts (c : Cur) : (s.settle c).errCounts = s.errCounts := rfl
@[simp] theorem State.settle_keys (c : Cur) : (s.settle c).keys = s.keys := rfl
@[simp] theorem State.settle_resSeq (c : Cur) : (s.settle c).resSeq = s.resSeq := rfl
@[simp] theorem State.settle_portsUp (c : Cur) : (s.settle c).portsUp = s.portsUp := rfl
@[simp] theorem State.settle_power (c : Cur) : (s.settle c).power = s.power := rfl
@[simp] theorem State.settle_secVer (c : Cur) : (s.settle c).secVer = s.secVer := rfl
@[simp] theorem State.settle_minVer (c : Cur) : (s.settle c).minVer = s.minVer := rfl
@[simp] theorem State.settle_image (c : Cur) : (s.settle c).image = s.image := rfl
@[simp] theorem State.settle_recBuf (c : Cur) : (s.settle c).recBuf = s.recBuf := rfl
@[simp] theorem State.settle_nextId (c : Cur) : (s.settle c).nextId = s.nextId := rfl
@[simp] theorem State.settle_agenda (c : Cur) : (s.settle c).agenda = s.agenda := rfl
@[simp] theorem State.settle_tick (c : Cur) : (s.settle c).tick = s.tick := rfl
@[simp] theorem State.settle_cur (c : Cur) : (s.settle c).cur = s.cur := rfl

@[simp] theorem State.modLaunch_cores (k : Nat) (f : Launch → Launch) : (s.modLaunch k f).cores = s.cores := rfl
@[simp] theorem State.modLaunch_teams (k : Nat) (f : Launch → Launch) : (s.modLaunch k f).teams = s.teams := rfl
@[simp] theorem State.modLaunch_mem (k : Nat) (f : Launch → Launch) : (s.modLaunch k f).mem = s.mem := rfl
@[simp] theorem State.modLaunch_entries (k : Nat) (f : Launch → Launch) : (s.modLaunch k f).entries = s.entries := rfl
@[simp] theorem State.modLaunch_tiles (k : Nat) (f : Launch → Launch) : (s.modLaunch k f).tiles = s.tiles := rfl
@[simp] theorem State.modLaunch_flights (k : Nat) (f : Launch → Launch) : (s.modLaunch k f).flights = s.flights := rfl
@[simp] theorem State.modLaunch_fq (k : Nat) (f : Launch → Launch) : (s.modLaunch k f).fq = s.fq := rfl
@[simp] theorem State.modLaunch_errLines (k : Nat) (f : Launch → Launch) : (s.modLaunch k f).errLines = s.errLines := rfl
@[simp] theorem State.modLaunch_errPages (k : Nat) (f : Launch → Launch) : (s.modLaunch k f).errPages = s.errPages := rfl
@[simp] theorem State.modLaunch_retired (k : Nat) (f : Launch → Launch) : (s.modLaunch k f).retired = s.retired := rfl
@[simp] theorem State.modLaunch_decoded (k : Nat) (f : Launch → Launch) : (s.modLaunch k f).decoded = s.decoded := rfl
@[simp] theorem State.modLaunch_fmtRegs (k : Nat) (f : Launch → Launch) : (s.modLaunch k f).fmtRegs = s.fmtRegs := rfl
@[simp] theorem State.modLaunch_owner (k : Nat) (f : Launch → Launch) : (s.modLaunch k f).owner = s.owner := rfl
@[simp] theorem State.modLaunch_vdevs (k : Nat) (f : Launch → Launch) : (s.modLaunch k f).vdevs = s.vdevs := rfl
@[simp] theorem State.modLaunch_parts (k : Nat) (f : Launch → Launch) : (s.modLaunch k f).parts = s.parts := rfl
@[simp] theorem State.modLaunch_lent (k : Nat) (f : Launch → Launch) : (s.modLaunch k f).lent = s.lent := rfl
@[simp] theorem State.modLaunch_conns (k : Nat) (f : Launch → Launch) : (s.modLaunch k f).conns = s.conns := rfl
@[simp] theorem State.modLaunch_outbox (k : Nat) (f : Launch → Launch) : (s.modLaunch k f).outbox = s.outbox := rfl
@[simp] theorem State.modLaunch_feedback (k : Nat) (f : Launch → Launch) : (s.modLaunch k f).feedback = s.feedback := rfl
@[simp] theorem State.modLaunch_events (k : Nat) (f : Launch → Launch) : (s.modLaunch k f).events = s.events := rfl
@[simp] theorem State.modLaunch_eventSeq (k : Nat) (f : Launch → Launch) : (s.modLaunch k f).eventSeq = s.eventSeq := rfl
@[simp] theorem State.modLaunch_noted (k : Nat) (f : Launch → Launch) : (s.modLaunch k f).noted = s.noted := rfl
@[simp] theorem State.modLaunch_clocks (k : Nat) (f : Launch → Launch) : (s.modLaunch k f).clocks = s.clocks := rfl
@[simp] theorem State.modLaunch_errCounts (k : Nat) (f : Launch → Launch) : (s.modLaunch k f).errCounts = s.errCounts := rfl
@[simp] theorem State.modLaunch_keys (k : Nat) (f : Launch → Launch) : (s.modLaunch k f).keys = s.keys := rfl
@[simp] theorem State.modLaunch_resSeq (k : Nat) (f : Launch → Launch) : (s.modLaunch k f).resSeq = s.resSeq := rfl
@[simp] theorem State.modLaunch_portsUp (k : Nat) (f : Launch → Launch) : (s.modLaunch k f).portsUp = s.portsUp := rfl
@[simp] theorem State.modLaunch_power (k : Nat) (f : Launch → Launch) : (s.modLaunch k f).power = s.power := rfl
@[simp] theorem State.modLaunch_secVer (k : Nat) (f : Launch → Launch) : (s.modLaunch k f).secVer = s.secVer := rfl
@[simp] theorem State.modLaunch_minVer (k : Nat) (f : Launch → Launch) : (s.modLaunch k f).minVer = s.minVer := rfl
@[simp] theorem State.modLaunch_image (k : Nat) (f : Launch → Launch) : (s.modLaunch k f).image = s.image := rfl
@[simp] theorem State.modLaunch_recBuf (k : Nat) (f : Launch → Launch) : (s.modLaunch k f).recBuf = s.recBuf := rfl
@[simp] theorem State.modLaunch_nextId (k : Nat) (f : Launch → Launch) : (s.modLaunch k f).nextId = s.nextId := rfl
@[simp] theorem State.modLaunch_agenda (k : Nat) (f : Launch → Launch) : (s.modLaunch k f).agenda = s.agenda := rfl
@[simp] theorem State.modLaunch_tick (k : Nat) (f : Launch → Launch) : (s.modLaunch k f).tick = s.tick := rfl
@[simp] theorem State.modLaunch_cur (k : Nat) (f : Launch → Launch) : (s.modLaunch k f).cur = s.cur := rfl

@[simp] theorem State.modVdev_cores (v : Nat) (f : Vdev → Vdev) : (s.modVdev v f).cores = s.cores := rfl
@[simp] theorem State.modVdev_teams (v : Nat) (f : Vdev → Vdev) : (s.modVdev v f).teams = s.teams := rfl
@[simp] theorem State.modVdev_launches (v : Nat) (f : Vdev → Vdev) : (s.modVdev v f).launches = s.launches := rfl
@[simp] theorem State.modVdev_mem (v : Nat) (f : Vdev → Vdev) : (s.modVdev v f).mem = s.mem := rfl
@[simp] theorem State.modVdev_entries (v : Nat) (f : Vdev → Vdev) : (s.modVdev v f).entries = s.entries := rfl
@[simp] theorem State.modVdev_tiles (v : Nat) (f : Vdev → Vdev) : (s.modVdev v f).tiles = s.tiles := rfl
@[simp] theorem State.modVdev_flights (v : Nat) (f : Vdev → Vdev) : (s.modVdev v f).flights = s.flights := rfl
@[simp] theorem State.modVdev_fq (v : Nat) (f : Vdev → Vdev) : (s.modVdev v f).fq = s.fq := rfl
@[simp] theorem State.modVdev_errLines (v : Nat) (f : Vdev → Vdev) : (s.modVdev v f).errLines = s.errLines := rfl
@[simp] theorem State.modVdev_errPages (v : Nat) (f : Vdev → Vdev) : (s.modVdev v f).errPages = s.errPages := rfl
@[simp] theorem State.modVdev_retired (v : Nat) (f : Vdev → Vdev) : (s.modVdev v f).retired = s.retired := rfl
@[simp] theorem State.modVdev_decoded (v : Nat) (f : Vdev → Vdev) : (s.modVdev v f).decoded = s.decoded := rfl
@[simp] theorem State.modVdev_fmtRegs (v : Nat) (f : Vdev → Vdev) : (s.modVdev v f).fmtRegs = s.fmtRegs := rfl
@[simp] theorem State.modVdev_owner (v : Nat) (f : Vdev → Vdev) : (s.modVdev v f).owner = s.owner := rfl
@[simp] theorem State.modVdev_parts (v : Nat) (f : Vdev → Vdev) : (s.modVdev v f).parts = s.parts := rfl
@[simp] theorem State.modVdev_lent (v : Nat) (f : Vdev → Vdev) : (s.modVdev v f).lent = s.lent := rfl
@[simp] theorem State.modVdev_conns (v : Nat) (f : Vdev → Vdev) : (s.modVdev v f).conns = s.conns := rfl
@[simp] theorem State.modVdev_outbox (v : Nat) (f : Vdev → Vdev) : (s.modVdev v f).outbox = s.outbox := rfl
@[simp] theorem State.modVdev_feedback (v : Nat) (f : Vdev → Vdev) : (s.modVdev v f).feedback = s.feedback := rfl
@[simp] theorem State.modVdev_events (v : Nat) (f : Vdev → Vdev) : (s.modVdev v f).events = s.events := rfl
@[simp] theorem State.modVdev_eventSeq (v : Nat) (f : Vdev → Vdev) : (s.modVdev v f).eventSeq = s.eventSeq := rfl
@[simp] theorem State.modVdev_noted (v : Nat) (f : Vdev → Vdev) : (s.modVdev v f).noted = s.noted := rfl
@[simp] theorem State.modVdev_clocks (v : Nat) (f : Vdev → Vdev) : (s.modVdev v f).clocks = s.clocks := rfl
@[simp] theorem State.modVdev_errCounts (v : Nat) (f : Vdev → Vdev) : (s.modVdev v f).errCounts = s.errCounts := rfl
@[simp] theorem State.modVdev_keys (v : Nat) (f : Vdev → Vdev) : (s.modVdev v f).keys = s.keys := rfl
@[simp] theorem State.modVdev_resSeq (v : Nat) (f : Vdev → Vdev) : (s.modVdev v f).resSeq = s.resSeq := rfl
@[simp] theorem State.modVdev_portsUp (v : Nat) (f : Vdev → Vdev) : (s.modVdev v f).portsUp = s.portsUp := rfl
@[simp] theorem State.modVdev_power (v : Nat) (f : Vdev → Vdev) : (s.modVdev v f).power = s.power := rfl
@[simp] theorem State.modVdev_secVer (v : Nat) (f : Vdev → Vdev) : (s.modVdev v f).secVer = s.secVer := rfl
@[simp] theorem State.modVdev_minVer (v : Nat) (f : Vdev → Vdev) : (s.modVdev v f).minVer = s.minVer := rfl
@[simp] theorem State.modVdev_image (v : Nat) (f : Vdev → Vdev) : (s.modVdev v f).image = s.image := rfl
@[simp] theorem State.modVdev_recBuf (v : Nat) (f : Vdev → Vdev) : (s.modVdev v f).recBuf = s.recBuf := rfl
@[simp] theorem State.modVdev_nextId (v : Nat) (f : Vdev → Vdev) : (s.modVdev v f).nextId = s.nextId := rfl
@[simp] theorem State.modVdev_agenda (v : Nat) (f : Vdev → Vdev) : (s.modVdev v f).agenda = s.agenda := rfl
@[simp] theorem State.modVdev_tick (v : Nat) (f : Vdev → Vdev) : (s.modVdev v f).tick = s.tick := rfl
@[simp] theorem State.modVdev_cur (v : Nat) (f : Vdev → Vdev) : (s.modVdev v f).cur = s.cur := rfl

@[simp] theorem State.setCore_teams (k : Core) : (s.setCore k).teams = s.teams := by unfold State.setCore; split <;> rfl
@[simp] theorem State.setCore_launches (k : Core) : (s.setCore k).launches = s.launches := by unfold State.setCore; split <;> rfl
@[simp] theorem State.setCore_mem (k : Core) : (s.setCore k).mem = s.mem := by unfold State.setCore; split <;> rfl
@[simp] theorem State.setCore_entries (k : Core) : (s.setCore k).entries = s.entries := by unfold State.setCore; split <;> rfl
@[simp] theorem State.setCore_tiles (k : Core) : (s.setCore k).tiles = s.tiles := by unfold State.setCore; split <;> rfl
@[simp] theorem State.setCore_flights (k : Core) : (s.setCore k).flights = s.flights := by unfold State.setCore; split <;> rfl
@[simp] theorem State.setCore_fq (k : Core) : (s.setCore k).fq = s.fq := by unfold State.setCore; split <;> rfl
@[simp] theorem State.setCore_errLines (k : Core) : (s.setCore k).errLines = s.errLines := by unfold State.setCore; split <;> rfl
@[simp] theorem State.setCore_errPages (k : Core) : (s.setCore k).errPages = s.errPages := by unfold State.setCore; split <;> rfl
@[simp] theorem State.setCore_retired (k : Core) : (s.setCore k).retired = s.retired := by unfold State.setCore; split <;> rfl
@[simp] theorem State.setCore_decoded (k : Core) : (s.setCore k).decoded = s.decoded := by unfold State.setCore; split <;> rfl
@[simp] theorem State.setCore_fmtRegs (k : Core) : (s.setCore k).fmtRegs = s.fmtRegs := by unfold State.setCore; split <;> rfl
@[simp] theorem State.setCore_owner (k : Core) : (s.setCore k).owner = s.owner := by unfold State.setCore; split <;> rfl
@[simp] theorem State.setCore_vdevs (k : Core) : (s.setCore k).vdevs = s.vdevs := by unfold State.setCore; split <;> rfl
@[simp] theorem State.setCore_parts (k : Core) : (s.setCore k).parts = s.parts := by unfold State.setCore; split <;> rfl
@[simp] theorem State.setCore_lent (k : Core) : (s.setCore k).lent = s.lent := by unfold State.setCore; split <;> rfl
@[simp] theorem State.setCore_conns (k : Core) : (s.setCore k).conns = s.conns := by unfold State.setCore; split <;> rfl
@[simp] theorem State.setCore_outbox (k : Core) : (s.setCore k).outbox = s.outbox := by unfold State.setCore; split <;> rfl
@[simp] theorem State.setCore_feedback (k : Core) : (s.setCore k).feedback = s.feedback := by unfold State.setCore; split <;> rfl
@[simp] theorem State.setCore_events (k : Core) : (s.setCore k).events = s.events := by unfold State.setCore; split <;> rfl
@[simp] theorem State.setCore_eventSeq (k : Core) : (s.setCore k).eventSeq = s.eventSeq := by unfold State.setCore; split <;> rfl
@[simp] theorem State.setCore_noted (k : Core) : (s.setCore k).noted = s.noted := by unfold State.setCore; split <;> rfl
@[simp] theorem State.setCore_clocks (k : Core) : (s.setCore k).clocks = s.clocks := by unfold State.setCore; split <;> rfl
@[simp] theorem State.setCore_errCounts (k : Core) : (s.setCore k).errCounts = s.errCounts := by unfold State.setCore; split <;> rfl
@[simp] theorem State.setCore_keys (k : Core) : (s.setCore k).keys = s.keys := by unfold State.setCore; split <;> rfl
@[simp] theorem State.setCore_resSeq (k : Core) : (s.setCore k).resSeq = s.resSeq := by unfold State.setCore; split <;> rfl
@[simp] theorem State.setCore_portsUp (k : Core) : (s.setCore k).portsUp = s.portsUp := by unfold State.setCore; split <;> rfl
@[simp] theorem State.setCore_power (k : Core) : (s.setCore k).power = s.power := by unfold State.setCore; split <;> rfl
@[simp] theorem State.setCore_secVer (k : Core) : (s.setCore k).secVer = s.secVer := by unfold State.setCore; split <;> rfl
@[simp] theorem State.setCore_minVer (k : Core) : (s.setCore k).minVer = s.minVer := by unfold State.setCore; split <;> rfl
@[simp] theorem State.setCore_image (k : Core) : (s.setCore k).image = s.image := by unfold State.setCore; split <;> rfl
@[simp] theorem State.setCore_recBuf (k : Core) : (s.setCore k).recBuf = s.recBuf := by unfold State.setCore; split <;> rfl
@[simp] theorem State.setCore_nextId (k : Core) : (s.setCore k).nextId = s.nextId := by unfold State.setCore; split <;> rfl
@[simp] theorem State.setCore_agenda (k : Core) : (s.setCore k).agenda = s.agenda := by unfold State.setCore; split <;> rfl
@[simp] theorem State.setCore_tick (k : Core) : (s.setCore k).tick = s.tick := by unfold State.setCore; split <;> rfl
@[simp] theorem State.setCore_cur (k : Core) : (s.setCore k).cur = s.cur := by unfold State.setCore; split <;> rfl

@[simp] theorem State.modCore_teams (c : Nat) (f : Core → Core) : (s.modCore c f).teams = s.teams := by unfold State.modCore; simp
@[simp] theorem State.modCore_launches (c : Nat) (f : Core → Core) : (s.modCore c f).launches = s.launches := by unfold State.modCore; simp
@[simp] theorem State.modCore_mem (c : Nat) (f : Core → Core) : (s.modCore c f).mem = s.mem := by unfold State.modCore; simp
@[simp] theorem State.modCore_entries (c : Nat) (f : Core → Core) : (s.modCore c f).entries = s.entries := by unfold State.modCore; simp
@[simp] theorem State.modCore_tiles (c : Nat) (f : Core → Core) : (s.modCore c f).tiles = s.tiles := by unfold State.modCore; simp
@[simp] theorem State.modCore_flights (c : Nat) (f : Core → Core) : (s.modCore c f).flights = s.flights := by unfold State.modCore; simp
@[simp] theorem State.modCore_fq (c : Nat) (f : Core → Core) : (s.modCore c f).fq = s.fq := by unfold State.modCore; simp
@[simp] theorem State.modCore_errLines (c : Nat) (f : Core → Core) : (s.modCore c f).errLines = s.errLines := by unfold State.modCore; simp
@[simp] theorem State.modCore_errPages (c : Nat) (f : Core → Core) : (s.modCore c f).errPages = s.errPages := by unfold State.modCore; simp
@[simp] theorem State.modCore_retired (c : Nat) (f : Core → Core) : (s.modCore c f).retired = s.retired := by unfold State.modCore; simp
@[simp] theorem State.modCore_decoded (c : Nat) (f : Core → Core) : (s.modCore c f).decoded = s.decoded := by unfold State.modCore; simp
@[simp] theorem State.modCore_fmtRegs (c : Nat) (f : Core → Core) : (s.modCore c f).fmtRegs = s.fmtRegs := by unfold State.modCore; simp
@[simp] theorem State.modCore_owner (c : Nat) (f : Core → Core) : (s.modCore c f).owner = s.owner := by unfold State.modCore; simp
@[simp] theorem State.modCore_vdevs (c : Nat) (f : Core → Core) : (s.modCore c f).vdevs = s.vdevs := by unfold State.modCore; simp
@[simp] theorem State.modCore_parts (c : Nat) (f : Core → Core) : (s.modCore c f).parts = s.parts := by unfold State.modCore; simp
@[simp] theorem State.modCore_lent (c : Nat) (f : Core → Core) : (s.modCore c f).lent = s.lent := by unfold State.modCore; simp
@[simp] theorem State.modCore_conns (c : Nat) (f : Core → Core) : (s.modCore c f).conns = s.conns := by unfold State.modCore; simp
@[simp] theorem State.modCore_outbox (c : Nat) (f : Core → Core) : (s.modCore c f).outbox = s.outbox := by unfold State.modCore; simp
@[simp] theorem State.modCore_feedback (c : Nat) (f : Core → Core) : (s.modCore c f).feedback = s.feedback := by unfold State.modCore; simp
@[simp] theorem State.modCore_events (c : Nat) (f : Core → Core) : (s.modCore c f).events = s.events := by unfold State.modCore; simp
@[simp] theorem State.modCore_eventSeq (c : Nat) (f : Core → Core) : (s.modCore c f).eventSeq = s.eventSeq := by unfold State.modCore; simp
@[simp] theorem State.modCore_noted (c : Nat) (f : Core → Core) : (s.modCore c f).noted = s.noted := by unfold State.modCore; simp
@[simp] theorem State.modCore_clocks (c : Nat) (f : Core → Core) : (s.modCore c f).clocks = s.clocks := by unfold State.modCore; simp
@[simp] theorem State.modCore_errCounts (c : Nat) (f : Core → Core) : (s.modCore c f).errCounts = s.errCounts := by unfold State.modCore; simp
@[simp] theorem State.modCore_keys (c : Nat) (f : Core → Core) : (s.modCore c f).keys = s.keys := by unfold State.modCore; simp
@[simp] theorem State.modCore_resSeq (c : Nat) (f : Core → Core) : (s.modCore c f).resSeq = s.resSeq := by unfold State.modCore; simp
@[simp] theorem State.modCore_portsUp (c : Nat) (f : Core → Core) : (s.modCore c f).portsUp = s.portsUp := by unfold State.modCore; simp
@[simp] theorem State.modCore_power (c : Nat) (f : Core → Core) : (s.modCore c f).power = s.power := by unfold State.modCore; simp
@[simp] theorem State.modCore_secVer (c : Nat) (f : Core → Core) : (s.modCore c f).secVer = s.secVer := by unfold State.modCore; simp
@[simp] theorem State.modCore_minVer (c : Nat) (f : Core → Core) : (s.modCore c f).minVer = s.minVer := by unfold State.modCore; simp
@[simp] theorem State.modCore_image (c : Nat) (f : Core → Core) : (s.modCore c f).image = s.image := by unfold State.modCore; simp
@[simp] theorem State.modCore_recBuf (c : Nat) (f : Core → Core) : (s.modCore c f).recBuf = s.recBuf := by unfold State.modCore; simp
@[simp] theorem State.modCore_nextId (c : Nat) (f : Core → Core) : (s.modCore c f).nextId = s.nextId := by unfold State.modCore; simp
@[simp] theorem State.modCore_agenda (c : Nat) (f : Core → Core) : (s.modCore c f).agenda = s.agenda := by unfold State.modCore; simp
@[simp] theorem State.modCore_tick (c : Nat) (f : Core → Core) : (s.modCore c f).tick = s.tick := by unfold State.modCore; simp
@[simp] theorem State.modCore_cur (c : Nat) (f : Core → Core) : (s.modCore c f).cur = s.cur := by unfold State.modCore; simp

@[simp] theorem State.log_cores (u : Nat) (cy : BitVec 64) (k : Nat) (v : Option Nat) (d : List Word) : (s.log u cy k v d).cores = s.cores := rfl
@[simp] theorem State.log_teams (u : Nat) (cy : BitVec 64) (k : Nat) (v : Option Nat) (d : List Word) : (s.log u cy k v d).teams = s.teams := rfl
@[simp] theorem State.log_launches (u : Nat) (cy : BitVec 64) (k : Nat) (v : Option Nat) (d : List Word) : (s.log u cy k v d).launches = s.launches := rfl
@[simp] theorem State.log_mem (u : Nat) (cy : BitVec 64) (k : Nat) (v : Option Nat) (d : List Word) : (s.log u cy k v d).mem = s.mem := rfl
@[simp] theorem State.log_entries (u : Nat) (cy : BitVec 64) (k : Nat) (v : Option Nat) (d : List Word) : (s.log u cy k v d).entries = s.entries := rfl
@[simp] theorem State.log_tiles (u : Nat) (cy : BitVec 64) (k : Nat) (v : Option Nat) (d : List Word) : (s.log u cy k v d).tiles = s.tiles := rfl
@[simp] theorem State.log_flights (u : Nat) (cy : BitVec 64) (k : Nat) (v : Option Nat) (d : List Word) : (s.log u cy k v d).flights = s.flights := rfl
@[simp] theorem State.log_fq (u : Nat) (cy : BitVec 64) (k : Nat) (v : Option Nat) (d : List Word) : (s.log u cy k v d).fq = s.fq := rfl
@[simp] theorem State.log_errLines (u : Nat) (cy : BitVec 64) (k : Nat) (v : Option Nat) (d : List Word) : (s.log u cy k v d).errLines = s.errLines := rfl
@[simp] theorem State.log_errPages (u : Nat) (cy : BitVec 64) (k : Nat) (v : Option Nat) (d : List Word) : (s.log u cy k v d).errPages = s.errPages := rfl
@[simp] theorem State.log_retired (u : Nat) (cy : BitVec 64) (k : Nat) (v : Option Nat) (d : List Word) : (s.log u cy k v d).retired = s.retired := rfl
@[simp] theorem State.log_decoded (u : Nat) (cy : BitVec 64) (k : Nat) (v : Option Nat) (d : List Word) : (s.log u cy k v d).decoded = s.decoded := rfl
@[simp] theorem State.log_fmtRegs (u : Nat) (cy : BitVec 64) (k : Nat) (v : Option Nat) (d : List Word) : (s.log u cy k v d).fmtRegs = s.fmtRegs := rfl
@[simp] theorem State.log_owner (u : Nat) (cy : BitVec 64) (k : Nat) (v : Option Nat) (d : List Word) : (s.log u cy k v d).owner = s.owner := rfl
@[simp] theorem State.log_vdevs (u : Nat) (cy : BitVec 64) (k : Nat) (v : Option Nat) (d : List Word) : (s.log u cy k v d).vdevs = s.vdevs := rfl
@[simp] theorem State.log_parts (u : Nat) (cy : BitVec 64) (k : Nat) (v : Option Nat) (d : List Word) : (s.log u cy k v d).parts = s.parts := rfl
@[simp] theorem State.log_lent (u : Nat) (cy : BitVec 64) (k : Nat) (v : Option Nat) (d : List Word) : (s.log u cy k v d).lent = s.lent := rfl
@[simp] theorem State.log_conns (u : Nat) (cy : BitVec 64) (k : Nat) (v : Option Nat) (d : List Word) : (s.log u cy k v d).conns = s.conns := rfl
@[simp] theorem State.log_outbox (u : Nat) (cy : BitVec 64) (k : Nat) (v : Option Nat) (d : List Word) : (s.log u cy k v d).outbox = s.outbox := rfl
@[simp] theorem State.log_feedback (u : Nat) (cy : BitVec 64) (k : Nat) (v : Option Nat) (d : List Word) : (s.log u cy k v d).feedback = s.feedback := rfl
@[simp] theorem State.log_events (u : Nat) (cy : BitVec 64) (k : Nat) (v : Option Nat) (d : List Word) : (s.log u cy k v d).events = s.events := rfl
@[simp] theorem State.log_eventSeq (u : Nat) (cy : BitVec 64) (k : Nat) (v : Option Nat) (d : List Word) : (s.log u cy k v d).eventSeq = s.eventSeq := rfl
@[simp] theorem State.log_clocks (u : Nat) (cy : BitVec 64) (k : Nat) (v : Option Nat) (d : List Word) : (s.log u cy k v d).clocks = s.clocks := rfl
@[simp] theorem State.log_errCounts (u : Nat) (cy : BitVec 64) (k : Nat) (v : Option Nat) (d : List Word) : (s.log u cy k v d).errCounts = s.errCounts := rfl
@[simp] theorem State.log_keys (u : Nat) (cy : BitVec 64) (k : Nat) (v : Option Nat) (d : List Word) : (s.log u cy k v d).keys = s.keys := rfl
@[simp] theorem State.log_resSeq (u : Nat) (cy : BitVec 64) (k : Nat) (v : Option Nat) (d : List Word) : (s.log u cy k v d).resSeq = s.resSeq := rfl
@[simp] theorem State.log_portsUp (u : Nat) (cy : BitVec 64) (k : Nat) (v : Option Nat) (d : List Word) : (s.log u cy k v d).portsUp = s.portsUp := rfl
@[simp] theorem State.log_power (u : Nat) (cy : BitVec 64) (k : Nat) (v : Option Nat) (d : List Word) : (s.log u cy k v d).power = s.power := rfl
@[simp] theorem State.log_secVer (u : Nat) (cy : BitVec 64) (k : Nat) (v : Option Nat) (d : List Word) : (s.log u cy k v d).secVer = s.secVer := rfl
@[simp] theorem State.log_minVer (u : Nat) (cy : BitVec 64) (k : Nat) (v : Option Nat) (d : List Word) : (s.log u cy k v d).minVer = s.minVer := rfl
@[simp] theorem State.log_image (u : Nat) (cy : BitVec 64) (k : Nat) (v : Option Nat) (d : List Word) : (s.log u cy k v d).image = s.image := rfl
@[simp] theorem State.log_recBuf (u : Nat) (cy : BitVec 64) (k : Nat) (v : Option Nat) (d : List Word) : (s.log u cy k v d).recBuf = s.recBuf := rfl
@[simp] theorem State.log_nextId (u : Nat) (cy : BitVec 64) (k : Nat) (v : Option Nat) (d : List Word) : (s.log u cy k v d).nextId = s.nextId := rfl
@[simp] theorem State.log_agenda (u : Nat) (cy : BitVec 64) (k : Nat) (v : Option Nat) (d : List Word) : (s.log u cy k v d).agenda = s.agenda := rfl
@[simp] theorem State.log_tick (u : Nat) (cy : BitVec 64) (k : Nat) (v : Option Nat) (d : List Word) : (s.log u cy k v d).tick = s.tick := rfl
@[simp] theorem State.log_cur (u : Nat) (cy : BitVec 64) (k : Nat) (v : Option Nat) (d : List Word) : (s.log u cy k v d).cur = s.cur := rfl

@[simp] theorem State.record_cores (e : Event) : (s.record e).cores = s.cores := by unfold State.record; rfl
@[simp] theorem State.record_teams (e : Event) : (s.record e).teams = s.teams := by unfold State.record; rfl
@[simp] theorem State.record_launches (e : Event) : (s.record e).launches = s.launches := by unfold State.record; rfl
@[simp] theorem State.record_mem (e : Event) : (s.record e).mem = s.mem := by unfold State.record; rfl
@[simp] theorem State.record_entries (e : Event) : (s.record e).entries = s.entries := by unfold State.record; rfl
@[simp] theorem State.record_tiles (e : Event) : (s.record e).tiles = s.tiles := by unfold State.record; rfl
@[simp] theorem State.record_flights (e : Event) : (s.record e).flights = s.flights := by unfold State.record; rfl
@[simp] theorem State.record_fq (e : Event) : (s.record e).fq = s.fq := by unfold State.record; rfl
@[simp] theorem State.record_errLines (e : Event) : (s.record e).errLines = s.errLines := by unfold State.record; rfl
@[simp] theorem State.record_errPages (e : Event) : (s.record e).errPages = s.errPages := by unfold State.record; rfl
@[simp] theorem State.record_retired (e : Event) : (s.record e).retired = s.retired := by unfold State.record; rfl
@[simp] theorem State.record_decoded (e : Event) : (s.record e).decoded = s.decoded := by unfold State.record; rfl
@[simp] theorem State.record_fmtRegs (e : Event) : (s.record e).fmtRegs = s.fmtRegs := by unfold State.record; rfl
@[simp] theorem State.record_owner (e : Event) : (s.record e).owner = s.owner := by unfold State.record; rfl
@[simp] theorem State.record_vdevs (e : Event) : (s.record e).vdevs = s.vdevs := by unfold State.record; rfl
@[simp] theorem State.record_parts (e : Event) : (s.record e).parts = s.parts := by unfold State.record; rfl
@[simp] theorem State.record_lent (e : Event) : (s.record e).lent = s.lent := by unfold State.record; rfl
@[simp] theorem State.record_conns (e : Event) : (s.record e).conns = s.conns := by unfold State.record; rfl
@[simp] theorem State.record_outbox (e : Event) : (s.record e).outbox = s.outbox := by unfold State.record; rfl
@[simp] theorem State.record_feedback (e : Event) : (s.record e).feedback = s.feedback := by unfold State.record; rfl
@[simp] theorem State.record_noted (e : Event) : (s.record e).noted = s.noted := by unfold State.record; rfl
@[simp] theorem State.record_clocks (e : Event) : (s.record e).clocks = s.clocks := by unfold State.record; rfl
@[simp] theorem State.record_errCounts (e : Event) : (s.record e).errCounts = s.errCounts := by unfold State.record; rfl
@[simp] theorem State.record_keys (e : Event) : (s.record e).keys = s.keys := by unfold State.record; rfl
@[simp] theorem State.record_resSeq (e : Event) : (s.record e).resSeq = s.resSeq := by unfold State.record; rfl
@[simp] theorem State.record_portsUp (e : Event) : (s.record e).portsUp = s.portsUp := by unfold State.record; rfl
@[simp] theorem State.record_power (e : Event) : (s.record e).power = s.power := by unfold State.record; rfl
@[simp] theorem State.record_secVer (e : Event) : (s.record e).secVer = s.secVer := by unfold State.record; rfl
@[simp] theorem State.record_minVer (e : Event) : (s.record e).minVer = s.minVer := by unfold State.record; rfl
@[simp] theorem State.record_image (e : Event) : (s.record e).image = s.image := by unfold State.record; rfl
@[simp] theorem State.record_recBuf (e : Event) : (s.record e).recBuf = s.recBuf := by unfold State.record; rfl
@[simp] theorem State.record_nextId (e : Event) : (s.record e).nextId = s.nextId := by unfold State.record; rfl
@[simp] theorem State.record_agenda (e : Event) : (s.record e).agenda = s.agenda := by unfold State.record; rfl
@[simp] theorem State.record_tick (e : Event) : (s.record e).tick = s.tick := by unfold State.record; rfl
@[simp] theorem State.record_cur (e : Event) : (s.record e).cur = s.cur := by unfold State.record; rfl

@[simp] theorem State.modConn_cores (id : Nat) (f : Conn → Conn) : (s.modConn id f).cores = s.cores := rfl
@[simp] theorem State.modConn_teams (id : Nat) (f : Conn → Conn) : (s.modConn id f).teams = s.teams := rfl
@[simp] theorem State.modConn_launches (id : Nat) (f : Conn → Conn) : (s.modConn id f).launches = s.launches := rfl
@[simp] theorem State.modConn_mem (id : Nat) (f : Conn → Conn) : (s.modConn id f).mem = s.mem := rfl
@[simp] theorem State.modConn_entries (id : Nat) (f : Conn → Conn) : (s.modConn id f).entries = s.entries := rfl
@[simp] theorem State.modConn_tiles (id : Nat) (f : Conn → Conn) : (s.modConn id f).tiles = s.tiles := rfl
@[simp] theorem State.modConn_flights (id : Nat) (f : Conn → Conn) : (s.modConn id f).flights = s.flights := rfl
@[simp] theorem State.modConn_fq (id : Nat) (f : Conn → Conn) : (s.modConn id f).fq = s.fq := rfl
@[simp] theorem State.modConn_errLines (id : Nat) (f : Conn → Conn) : (s.modConn id f).errLines = s.errLines := rfl
@[simp] theorem State.modConn_errPages (id : Nat) (f : Conn → Conn) : (s.modConn id f).errPages = s.errPages := rfl
@[simp] theorem State.modConn_retired (id : Nat) (f : Conn → Conn) : (s.modConn id f).retired = s.retired := rfl
@[simp] theorem State.modConn_decoded (id : Nat) (f : Conn → Conn) : (s.modConn id f).decoded = s.decoded := rfl
@[simp] theorem State.modConn_fmtRegs (id : Nat) (f : Conn → Conn) : (s.modConn id f).fmtRegs = s.fmtRegs := rfl
@[simp] theorem State.modConn_owner (id : Nat) (f : Conn → Conn) : (s.modConn id f).owner = s.owner := rfl
@[simp] theorem State.modConn_vdevs (id : Nat) (f : Conn → Conn) : (s.modConn id f).vdevs = s.vdevs := rfl
@[simp] theorem State.modConn_parts (id : Nat) (f : Conn → Conn) : (s.modConn id f).parts = s.parts := rfl
@[simp] theorem State.modConn_lent (id : Nat) (f : Conn → Conn) : (s.modConn id f).lent = s.lent := rfl
@[simp] theorem State.modConn_outbox (id : Nat) (f : Conn → Conn) : (s.modConn id f).outbox = s.outbox := rfl
@[simp] theorem State.modConn_feedback (id : Nat) (f : Conn → Conn) : (s.modConn id f).feedback = s.feedback := rfl
@[simp] theorem State.modConn_events (id : Nat) (f : Conn → Conn) : (s.modConn id f).events = s.events := rfl
@[simp] theorem State.modConn_eventSeq (id : Nat) (f : Conn → Conn) : (s.modConn id f).eventSeq = s.eventSeq := rfl
@[simp] theorem State.modConn_noted (id : Nat) (f : Conn → Conn) : (s.modConn id f).noted = s.noted := rfl
@[simp] theorem State.modConn_clocks (id : Nat) (f : Conn → Conn) : (s.modConn id f).clocks = s.clocks := rfl
@[simp] theorem State.modConn_errCounts (id : Nat) (f : Conn → Conn) : (s.modConn id f).errCounts = s.errCounts := rfl
@[simp] theorem State.modConn_keys (id : Nat) (f : Conn → Conn) : (s.modConn id f).keys = s.keys := rfl
@[simp] theorem State.modConn_resSeq (id : Nat) (f : Conn → Conn) : (s.modConn id f).resSeq = s.resSeq := rfl
@[simp] theorem State.modConn_portsUp (id : Nat) (f : Conn → Conn) : (s.modConn id f).portsUp = s.portsUp := rfl
@[simp] theorem State.modConn_power (id : Nat) (f : Conn → Conn) : (s.modConn id f).power = s.power := rfl
@[simp] theorem State.modConn_secVer (id : Nat) (f : Conn → Conn) : (s.modConn id f).secVer = s.secVer := rfl
@[simp] theorem State.modConn_minVer (id : Nat) (f : Conn → Conn) : (s.modConn id f).minVer = s.minVer := rfl
@[simp] theorem State.modConn_image (id : Nat) (f : Conn → Conn) : (s.modConn id f).image = s.image := rfl
@[simp] theorem State.modConn_recBuf (id : Nat) (f : Conn → Conn) : (s.modConn id f).recBuf = s.recBuf := rfl
@[simp] theorem State.modConn_nextId (id : Nat) (f : Conn → Conn) : (s.modConn id f).nextId = s.nextId := rfl
@[simp] theorem State.modConn_agenda (id : Nat) (f : Conn → Conn) : (s.modConn id f).agenda = s.agenda := rfl
@[simp] theorem State.modConn_tick (id : Nat) (f : Conn → Conn) : (s.modConn id f).tick = s.tick := rfl
@[simp] theorem State.modConn_cur (id : Nat) (f : Conn → Conn) : (s.modConn id f).cur = s.cur := rfl
end Fields

section Lookups
variable (s : State)

/-- A team after an update of a team that keeps its id. -/
theorem team?_modTeam (id k : Nat) (f : Team → Team) (hf : ∀ t, (f t).id = t.id) :
    (s.modTeam id f).team? k = if k = id then (s.team? k).map f else s.team? k := by
  unfold State.team? State.modTeam
  simp only
  induction s.teams with
  | nil => simp
  | cons t ts ih =>
    have key : (fun t : Team => if t.id == id then f t else t) t = if t.id == id then f t else t := rfl
    by_cases ht : t.id = k
    · by_cases hk : k = id
      · subst hk; simp [ht, hf]
      · have : ¬ t.id = id := by omega
        simp [ht, hk]
    · have hid : ((if t.id == id then f t else t).id == k) = false := by split <;> simp [hf, ht]
      rw [List.map_cons, List.find?_cons, hid, List.find?_cons]
      simp only [beq_eq_false_iff_ne.mpr ht]
      exact ih

@[simp] theorem Team.modGroup_id (t : Team) (g : Nat) (f : Group → Group) : (t.modGroup g f).id = t.id := rfl
@[simp] theorem Team.modGroup_twins (t : Team) (g : Nat) (f : Group → Group) : (t.modGroup g f).twins = t.twins := rfl
@[simp] theorem Team.modGroup_sp (t : Team) (g : Nat) (f : Group → Group) : (t.modGroup g f).sp = t.sp := rfl
@[simp] theorem Team.modGroup_body (t : Team) (g : Nat) (f : Group → Group) : (t.modGroup g f).body = t.body := rfl
@[simp] theorem Team.modGroup_twinOf (t : Team) (g k : Nat) (f : Group → Group) : (t.modGroup g f).twinOf k = t.twinOf k := rfl

/-- A group of a team after an update of one group. -/
theorem rd_groups_modGroup (t : Team) (g k : Nat) (f : Group → Group) :
    rd (t.modGroup g f).groups k = if g = k then f (rd t.groups g) else rd t.groups k := by
  unfold Team.modGroup; simp only [rd_wr]

end Lookups

end Sys2Proof.Machine
end

