-- ==== Sys2Proof/Laws/Registers.lean ====
section
/-!
SUPPORT. What the shared write of registers (`Team.applyFx`) leaves: the registers it lists, in the lanes of its mask, and for a
twin's v56-v63 the pair's registers (R54, R103, R104).
-/
namespace Sys2Proof.Machine
open Sys2Proof

section Twins

theorem find?_zip_set {α β : Type} (p : Nat × α → Bool) (q : α → β) (l : List α) (b j : Nat) (y : α)
    (hp : ∀ n m x x', q x = q x' → p (n, x) = p (m, x')) (hy : ∀ x, l[j]? = some x → q x = q y) :
    ((List.range' b l.length).zip (l.set j y)).find? p =
      (((List.range' b l.length).zip l).find? p).map fun r => if r.1 = b + j then (r.1, y) else r := by
  induction l generalizing b j with
  | nil => simp
  | cons a t ih =>
    rw [List.length_cons, List.range'_succ]
    cases j with
    | zero =>
      have hq : q a = q y := hy a (by simp)
      rw [List.set_cons_zero, List.zip_cons_cons, List.zip_cons_cons, List.find?_cons, List.find?_cons, ← hp b b a y hq]
      cases h : p (b, a) with
      | true => simp
      | false =>
        simp only
        cases hf : List.find? p ((List.range' (b + 1) t.length).zip t) with
        | none => rfl
        | some r =>
          have hm := List.mem_of_find?_eq_some hf
          have h1 := (List.of_mem_zip (show (r.1, r.2) ∈ _ from hm)).1
          rw [List.mem_range'_1] at h1
          have : r.1 ≠ b := by omega
          simp [this]
    | succ n =>
      rw [List.set_cons_succ, List.zip_cons_cons, List.zip_cons_cons, List.find?_cons, List.find?_cons]
      cases h : p (b, a) with
      | true => simp
      | false =>
        simp only
        rw [ih (b + 1) n (by intro x hx; exact hy x (by simpa using hx))]
        have : b + 1 + n = b + (n + 1) := by omega
        rw [this]

/-- A pair's place holds it. -/
theorem twinOf_get {t : Team} {g k : Nat} {tw : Twin} (h : t.twinOf g = some (k, tw)) : t.twins[k]? = some tw := by
  unfold Team.twinOf at h
  have hm := List.mem_of_find?_eq_some h
  obtain ⟨i, hi, he⟩ := List.getElem_of_mem hm
  simp at he hi
  obtain ⟨rfl, rfl⟩ := he
  simp [hi]

/-- The pairs after one pair's registers have changed. -/
theorem twinOf_set (t : Team) (g k : Nat) (tw tw' : Twin) (h : t.twins[k]? = some tw) (hp : tw'.prod = tw.prod) (hc : tw'.cons = tw.cons) :
    ({ t with twins := t.twins.set k tw' }).twinOf g = (t.twinOf g).map fun r => if r.1 = k then (k, tw') else r := by
  unfold Team.twinOf
  simp only [List.length_set, List.range_eq_range']
  rw [find?_zip_set (q := fun x : Twin => (x.prod, x.cons))]
  · cases List.find? (fun p : Nat × Twin => p.2.prod == g || p.2.cons == g) ((List.range' 0 t.twins.length).zip t.twins) with
    | none => rfl
    | some r => simp only [Option.map_some, Nat.zero_add]; split <;> simp_all
  · intro n m x x' hx; simp only [Prod.mk.injEq] at hx; simp [hx.1, hx.2]
  · intro x hx; rw [h] at hx; cases hx; simp [hp, hc]

@[simp] theorem Twin.act_prod (tw : Twin) (b : Bool) (f : List TwinReg → List TwinReg) : (tw.act b f).prod = tw.prod := rfl
@[simp] theorem Twin.act_cons (tw : Twin) (b : Bool) (f : List TwinReg → List TwinReg) : (tw.act b f).cons = tw.cons := rfl
@[simp] theorem Twin.act_regs (tw : Twin) (b : Bool) (f : List TwinReg → List TwinReg) : (tw.act b f).regs = f tw.regs := rfl

theorem TwinReg.write_val (r : TwinReg) (w : Writer) (x : Word) (st : List Nat) : (r.write w x st).val = x := by
  unfold TwinReg.write; split <;> rfl

theorem twinRegs_foldl (ws : List (Nat × Word)) (rs : List TwinReg) (w : Writer) (st : List Nat) (l l' k : Nat)
    (hw : ∀ x ∈ ws, x.1 < 64) (hk : k < 8) :
    (rd (ws.foldl (fun rs x => wr rs (twinIx l (x.1 - 56)) ((rd rs (twinIx l (x.1 - 56))).write w x.2 st)) rs) (twinIx l' k)).val =
      if l = l' then ws.foldl (fun y x => if x.1 - 56 = k then x.2 else y) (rd rs (twinIx l' k)).val else (rd rs (twinIx l' k)).val := by
  induction ws generalizing rs with
  | nil => simp
  | cons x t ih =>
    have hx := hw x (by simp)
    rw [List.foldl_cons, ih _ (fun y hy => hw y (by simp [hy]))]
    by_cases hl : l = l'
    · subst hl
      simp only [if_true, List.foldl_cons, rd_wr]
      congr 1
      unfold twinIx
      by_cases hxk : x.1 - 56 = k
      · simp [hxk, TwinReg.write_val]
      · have : ¬ 8 * l + (x.1 - 56) = 8 * l + k := by omega
        simp [hxk]
    · simp only [hl, if_false, rd_wr]
      unfold twinIx
      have : ¬ 8 * l + (x.1 - 56) = 8 * l' + k := by omega
      simp [this]

/-- A twin pair's value after the lanes of a mask have written. -/
theorem twinWrite_val (regs : List TwinReg) (w : Writer) (m : BitVec 32) (fx : Nat → Fx) (st : List Nat) (l r : Nat)
    (hl : l < 32) (hr : 56 ≤ r) (hr' : r < 64) :
    (rd (twinWrites w m fx st regs) (twinIx l (r - 56))).val =
      if inMask m l then written (fx l).v r (rd regs (twinIx l (r - 56))).val else (rd regs (twinIx l (r - 56))).val := by
  have key : ∀ (ls : List Nat) (rs : List TwinReg), ls.Nodup → (∀ x ∈ ls, x < 32) →
      (rd (ls.foldl (fun rs l => ((fx l).v.filter fun x => decide (56 ≤ x.1 ∧ x.1 < 64)).foldl (fun rs x =>
        wr rs (twinIx l (x.1 - 56)) ((rd rs (twinIx l (x.1 - 56))).write w x.2 st)) rs) rs) (twinIx l (r - 56))).val =
      if l ∈ ls then ((fx l).v.filter fun x => decide (56 ≤ x.1 ∧ x.1 < 64)).foldl (fun y x => if x.1 - 56 = r - 56 then x.2 else y)
        (rd rs (twinIx l (r - 56))).val else (rd rs (twinIx l (r - 56))).val := by
    intro ls
    induction ls with
    | nil => intro rs _ _; simp
    | cons a t ih =>
      intro rs hn hb
      rw [List.foldl_cons, ih _ (List.nodup_cons.mp hn).2 (fun x hx => hb x (by simp [hx])),
        twinRegs_foldl _ _ _ _ _ _ _ (fun x hx => (of_decide_eq_true (List.mem_filter.mp hx).2).2) (by omega)]
      have hna := (List.nodup_cons.mp hn).1
      by_cases hal : a = l
      · subst hal; simp [hna]
      · have : ¬ l = a := fun h => hal h.symm
        simp [hal, this]
  have hfold : ∀ (ws : List (Nat × Word)) (y : Word), (ws.filter fun x => decide (56 ≤ x.1 ∧ x.1 < 64)).foldl
      (fun y x => if x.1 - 56 = r - 56 then x.2 else y) y = written ws r y := by
    intro ws
    induction ws with
    | nil => intro y; rfl
    | cons a t ih =>
      intro y
      unfold written
      rw [List.foldl_cons, List.filter_cons]
      by_cases h : 56 ≤ a.1 ∧ a.1 < 64
      · have h2 : (a.1 - 56 = r - 56) ↔ a.1 = r := by omega
        rw [if_pos (decide_eq_true h)]; simp only [List.foldl_cons, h2]; exact ih _
      · have : a.1 ≠ r := by omega
        rw [if_neg (by simpa using h)]; simp only [this, if_false]; exact ih _
  unfold twinWrites
  rw [key _ _ (by unfold lanesOf; exact List.Nodup.filter _ List.nodup_range) (by intro x hx; exact ((mem_lanesOf _ _).mp hx).1)]
  simp only [mem_lanesOf, hl, true_and, hfold]

/-- A twin register that no lane of the mask writes stands as it is. -/
theorem twinWrites_other (regs : List TwinReg) (w : Writer) (m : BitVec 32) (fx : Nat → Fx) (st : List Nat) (l k : Nat)
    (hk : k < 8) (h : inMask m l = false ∨ ∀ x ∈ (fx l).v, x.1 ≠ 56 + k) :
    rd (twinWrites w m fx st regs) (twinIx l k) = rd regs (twinIx l k) := by
  have one : ∀ (a : Nat) (ws : List (Nat × Word)) (rs : List TwinReg), (∀ x ∈ ws, 56 ≤ x.1 ∧ x.1 < 64) → (a = l → ∀ x ∈ ws, x.1 ≠ 56 + k) →
      rd (ws.foldl (fun rs x => wr rs (twinIx a (x.1 - 56)) ((rd rs (twinIx a (x.1 - 56))).write w x.2 st)) rs) (twinIx l k) =
        rd rs (twinIx l k) := by
    intro a ws
    induction ws with
    | nil => intro rs _ _; rfl
    | cons y t ih =>
      intro rs hb ha
      have hy := hb y (by simp)
      have : ¬ twinIx a (y.1 - 56) = twinIx l k := by
        unfold twinIx
        intro e
        have hal : a = l := by omega
        have := ha hal y (by simp)
        omega
      rw [List.foldl_cons, ih _ (fun x hx => hb x (by simp [hx])) (fun e x hx => ha e x (by simp [hx])), rd_wr, if_neg this]
  unfold twinWrites
  suffices ∀ ls : List Nat, (∀ a ∈ ls, inMask m a = true) → ∀ rs : List TwinReg,
      rd (ls.foldl (fun rs l => ((fx l).v.filter fun x => decide (56 ≤ x.1 ∧ x.1 < 64)).foldl (fun rs x =>
        wr rs (twinIx l (x.1 - 56)) ((rd rs (twinIx l (x.1 - 56))).write w x.2 st)) rs) rs) (twinIx l k) = rd rs (twinIx l k) from
    this _ (fun a ha => ((mem_lanesOf _ _).mp ha).2) regs
  intro ls
  induction ls with
  | nil => intro _ rs; rfl
  | cons a t ih =>
    intro hm rs
    rw [List.foldl_cons, ih (fun b hb => hm b (by simp [hb]))]
    refine one a _ rs (fun x hx => of_decide_eq_true (List.mem_filter.mp hx).2) ?_
    intro e x hx
    subst e
    rcases h with h | h
    · rw [hm a (by simp)] at h; exact absurd h (by simp)
    · exact h x (List.mem_filter.mp hx).1

end Twins

section Lanes

@[simp] theorem applyFx_id (t : Team) (g : Nat) (m : BitVec 32) (fx : Nat → Fx) : (t.applyFx g m fx).id = t.id := by
  unfold Team.applyFx; split <;> rfl
@[simp] theorem applyFx_sp (t : Team) (g : Nat) (m : BitVec 32) (fx : Nat → Fx) : (t.applyFx g m fx).sp = t.sp := by
  unfold Team.applyFx; split <;> rfl
@[simp] theorem applyFx_body (t : Team) (g : Nat) (m : BitVec 32) (fx : Nat → Fx) : (t.applyFx g m fx).body = t.body := by
  unfold Team.applyFx; split <;> rfl

/-- The groups after a write of registers. -/
theorem applyFx_group (t : Team) (g k : Nat) (m : BitVec 32) (fx : Nat → Fx) : rd (t.applyFx g m fx).groups k =
    if g = k then (rd t.groups g).mapLanes m fun l ln => (fx l).onLane (t.twinOf g).isSome ln else rd t.groups k := by
  unfold Team.applyFx
  cases h : t.twinOf g <;> simp only [Option.isSome] <;> exact rd_groups_modGroup t g k _

/-- The twin pairs after a write of registers: the writer's own pair has changed, and only its registers. -/
theorem applyFx_twinOf (t : Team) (g k : Nat) (m : BitVec 32) (fx : Nat → Fx) : (t.applyFx g m fx).twinOf k =
    (t.twinOf k).map fun r =>
      if (t.twinOf g).any (fun q => q.1 == r.1) then
        (r.1, r.2.act (rd t.groups g).handling (twinWrites (if r.2.prod == g then .producer else .consumer) m fx ((rd t.groups g).sq.map fun e => e.id))) else r := by
  unfold Team.applyFx
  cases h : t.twinOf g with
  | none => cases hk : t.twinOf k <;> simp [hk]
  | some q =>
    obtain ⟨n, tw⟩ := q
    simp only
    rw [show (({ t.modGroup g (fun gr => gr.mapLanes m fun l ln => (fx l).onLane true ln) with
        twins := t.twins.set n (tw.act (rd t.groups g).handling (twinWrites (if tw.prod == g then .producer else .consumer) m fx ((rd t.groups g).sq.map fun e => e.id))) } : Team).twinOf k)
      = ({ t with twins := t.twins.set n (tw.act (rd t.groups g).handling (twinWrites (if tw.prod == g then .producer else .consumer) m fx ((rd t.groups g).sq.map fun e => e.id))) } : Team).twinOf k from rfl]
    rw [twinOf_set t k n tw (tw.act (rd t.groups g).handling (twinWrites (if tw.prod == g then .producer else .consumer) m fx ((rd t.groups g).sq.map fun e => e.id)))
      (twinOf_get h) (Twin.act_prod ..) (Twin.act_cons ..)]
    cases hk : t.twinOf k with
    | none => rfl
    | some r =>
      obtain ⟨n', tw'⟩ := r
      simp only [Option.map_some, Option.any_some]
      by_cases hn : n' = n
      · subst hn
        have e : tw' = tw := by
          have h1 := twinOf_get h; have h2 := twinOf_get hk
          rw [h1] at h2; cases h2; rfl
        subst e; simp
      · have hn' : ¬ n = n' := fun h => hn h.symm
        simp [hn, hn']

/-- A write of registers leaves every twin register alone, with what its pair's muster frame holds of it, that it does not write. -/
theorem applyFx_twinReg (t : Team) (g g' : Nat) (m : BitVec 32) (fx : Nat → Fx) (l k : Nat) (hk : k < 8)
    (h : (match t.twinOf g', t.twinOf g with | some p, some q => p.1 == q.1 | _, _ => false) = false ∨ inMask m l = false ∨
      ∀ x ∈ (fx l).v, x.1 ≠ 56 + k) :
    ((t.applyFx g m fx).twinOf g').map (fun p => (rd p.2.regs (twinIx l k), p.2.frame.map fun fs => rd fs (twinIx l k))) =
      (t.twinOf g').map fun p => (rd p.2.regs (twinIx l k), p.2.frame.map fun fs => rd fs (twinIx l k)) := by
  rw [applyFx_twinOf]
  cases h1 : t.twinOf g' with
  | none => rfl
  | some p =>
    simp only [Option.map_some]
    split
    · rename_i hq
      have h2 : inMask m l = false ∨ ∀ x ∈ (fx l).v, x.1 ≠ 56 + k := by
        rcases h with h | h
        · cases h3 : t.twinOf g with
          | none => simp [h3] at hq
          | some q =>
            rw [h1, h3] at h; rw [h3] at hq
            simp only [Option.any_some, beq_iff_eq] at hq
            simp only [beq_eq_false_iff_ne] at h
            exact absurd hq.symm h
        · exact h
      have f : ∀ w st rs, rd (twinWrites w m fx st rs) (twinIx l k) = rd rs (twinIx l k) :=
        fun w st rs => twinWrites_other rs w m fx st l k hk h2
      simp only [Twin.act_regs, f]
      unfold Twin.act
      cases p.2.frame <;> simp only [Option.map_none, ite_self] <;> split <;> simp [f]
    · rfl

/-- EVERYTHING A WRITE OF REGISTERS DOES TO VECTOR REGISTERS: the writer's own, and a twin's to both of the pair. -/
theorem applyFx_rdV (t : Team) (g l r : Nat) (m : BitVec 32) (fx : Nat → Fx) (hl : l < 32) (hr : r < 64)
    (hv : ∀ ln, ((fx l).other ln).v = ln.v) :
    (t.applyFx g m fx).rdV g l r = if inMask m l then written (fx l).v r (t.rdV g l r) else t.rdV g l r := by
  have flt : ∀ (b : Bool) (ws : List (Nat × Word)) (old : List Word), (b = true → r < 56) →
      rd (wrs old (ws.filter fun w => !(b && decide (56 ≤ w.1)))) r = written ws r (rd old r) := by
    intro b ws old hb
    rw [rd_wrs_word]
    unfold written
    generalize rd old r = y
    induction ws generalizing y with
    | nil => rfl
    | cons a tl ih =>
      rw [List.foldl_cons, List.filter_cons]
      by_cases ha : 56 ≤ a.1
      · cases b with
        | false => simp only [Bool.false_and, Bool.not_false, if_true, List.foldl_cons]; exact ih _
        | true =>
          have : a.1 ≠ r := by have := hb rfl; omega
          simp only [ha, decide_true, Bool.and_self, Bool.not_true, Bool.false_eq_true, if_false, this]; exact ih _
      · simp only [ha, decide_false, Bool.and_false, Bool.not_false, if_true, List.foldl_cons]; exact ih _
  unfold Team.rdV
  rw [applyFx_twinOf, applyFx_group]
  simp only [if_true]
  have own : ∀ b : Bool, (b = true → r < 56) → b = (t.twinOf g).isSome →
      rd (rd ((rd t.groups g).mapLanes m fun l ln => (fx l).onLane (t.twinOf g).isSome ln).lanes l).v r =
      if inMask m l then written (fx l).v r (rd (rd (rd t.groups g).lanes l).v r) else rd (rd (rd t.groups g).lanes l).v r := by
    intro b hb he
    rw [rd_mapLanes _ _ _ _ hl, ← he]
    by_cases hm : inMask m l = true
    · simp only [hm, if_true]
      unfold Fx.onLane
      rw [hv, flt b _ _ hb]
    · simp [hm]
  by_cases h56 : 56 ≤ r
  · simp only [h56, if_true]
    cases ht : t.twinOf g with
    | none => simpa [ht] using own false (by simp) (by simp [ht])
    | some q =>
      simp only [Option.map_some, Option.any_some, BEq.rfl, if_true]
      exact twinWrite_val _ _ _ _ _ _ _ hl h56 hr
  · simp only [h56, if_false]
    cases hq : (t.twinOf g).isSome with
    | false => simpa [hq] using own false (by simp) (by simp [hq])
    | true => simpa [hq] using own true (by intro _; omega) (by simp [hq])

/-- Another group's registers stand, but for the twin registers that it shares with the writer. -/
theorem applyFx_rdV_other (t : Team) (g k l r : Nat) (m : BitVec 32) (fx : Nat → Fx) (hk : k ≠ g)
    (hs : r < 56 ∨ (t.twinOf g).any (fun q => (t.twinOf k).any fun p => p.1 == q.1) = false) :
    (t.applyFx g m fx).rdV k l r = t.rdV k l r := by
  have hgk : ¬ g = k := fun h => hk h.symm
  unfold Team.rdV
  rw [applyFx_twinOf, applyFx_group]
  simp only [hgk, if_false]
  by_cases h56 : 56 ≤ r
  · simp only [h56, if_true]
    cases ht : t.twinOf k with
    | none => rfl
    | some p =>
      have : (t.twinOf g).any (fun q => q.1 == p.1) = false := by
        rcases hs with h | h
        · omega
        · rw [ht] at h
          cases hg : t.twinOf g with
          | none => rfl
          | some q =>
            rw [hg] at h
            simp only [Option.any_some] at h ⊢
            rw [beq_eq_false_iff_ne] at h ⊢
            exact fun e => h e.symm
      simp [this]
  · simp only [h56, if_false]

end Lanes

end Sys2Proof.Machine
end

