-- ==== Sys2Proof/Laws/Issue.lean ====
section
/-!
SUPPORT. The frame of issue: what `issue` answers, what settling a group after a movement of PCs leaves, and the frame of an
instruction that only computes (`Computed`).
-/
namespace Sys2Proof.Machine
open Sys2Proof

section Frame

/-- With an issue in progress every lane instruction answers a next state. -/
theorem issue_next (i : Instr) (s : State) (body : Cur → State → Act) (h : s.cur ≠ none) : ∃ t, issue i s body = .next t := by
  unfold issue
  cases hc : s.cur with
  | none => exact absurd hc h
  | some c =>
    simp only
    split
    · exact ⟨_, rfl⟩
    · split
      · exact ⟨_, rfl⟩
      · split
        · exact ⟨_, rfl⟩
        · split
          · exact ⟨_, rfl⟩
          · split
            · exact ⟨_, rfl⟩
            · split <;> exact ⟨_, rfl⟩

/-- An instruction that is ready acts by its own body. -/
theorem issue_ready {i : Instr} {s s1 : State} {c : Cur} (body : Cur → State → Act) (h : Ready s i c s1) :
    issue i s body = .next ((body c s1).finish i c s) := by
  obtain ⟨c0, t, hc, ht, hb, hp, h⟩ := h
  unfold issue
  rcases h with ⟨htw, rfl, rfl⟩ | ⟨htw, hm, hr, rfl, rfl⟩
  · simp [hc, ht, hb, hp, htw]
  · have : t.twins.isEmpty = false := by cases h : t.twins <;> simp_all
    simp [hc, ht, hb, hp, this, hm, hr]

@[simp] theorem twinTake_id (t : Team) (g : Nat) (rs : List (Nat × Nat)) : (t.twinTake g rs).id = t.id := by
  unfold Team.twinTake; split <;> rfl

/-- The team of an issue that is ready exists after its twin reads. -/
theorem Ready.team {i : Instr} {s s1 : State} {c : Cur} (h : Ready s i c s1) : ∃ t, s1.team? c.team = some t := by
  obtain ⟨c0, t, hc, ht, hb, hp, h⟩ := h
  rcases h with ⟨htw, rfl, rfl⟩ | ⟨htw, hm, hr, rfl, rfl⟩
  · exact ⟨t, ht⟩
  · simp only
    rw [team?_modTeam _ _ _ _ fun x => by rw [twinTake_id]]; simp [ht]

end Frame

section Settling

/-- A lane's copy after releases and merges is its own or that of a lane that it has met. -/
def Settled (g g' : Group) (l : Nat) : Prop :=
  ∃ h o s, rd g'.lanes l = { rd g.lanes l with held := h, owesDiv := o, s := s } ∧
    (s = (rd g.lanes l).s ∨ ∃ k < 32, (rd g.lanes k).samePath (rd g.lanes l) = true ∧ s = (rd g.lanes k).s)

theorem Settled.refl (g : Group) (l : Nat) : Settled g g l := ⟨(rd g.lanes l).held, (rd g.lanes l).owesDiv, (rd g.lanes l).s, rfl, .inl rfl⟩

theorem release_lane (g : Group) (l : Nat) (hl : l < 32) : ∃ h, rd g.release.lanes l = { rd g.lanes l with held := h } := by
  unfold Group.release
  simp only
  rw [rd_mapLanes _ _ _ _ hl]
  split
  · exact ⟨false, rfl⟩
  · exact ⟨_, rfl⟩

theorem lowest_mem {m : BitVec 32} (h : lanesOf m ≠ []) : lowest m ∈ lanesOf m := by
  unfold lowest
  cases hm : lanesOf m with
  | nil => exact absurd hm h
  | cons a t => simp

theorem merge_settled (g : Group) (b : Bool) (l : Nat) (hl : l < 32) : Settled g (g.merge b) l := by
  unfold Group.merge
  simp only
  split
  · exact Settled.refl g l
  · unfold Settled
    rw [rd_mapLanes _ _ _ _ hl]
    split
    · rename_i h
      refine ⟨_, _, _, rfl, .inr ⟨lowest (g.path l), ?_⟩⟩
      rw [inMask_maskOf, Bool.and_eq_true, Bool.and_eq_true, List.any_eq_true] at h
      obtain ⟨x, hx, -⟩ := h.2.2
      have hm := (mem_lanesOf _ _).mp (lowest_mem (List.ne_nil_of_mem hx))
      refine ⟨hm.1, ?_, rfl⟩
      have h2 := hm.2
      generalize lowest (g.path l) = k at h2
      unfold Group.path at h2
      rw [inMask_maskOf] at h2
      simp only [Bool.and_eq_true] at h2
      exact h2.2.2
    · exact Settled.refl g l

/-- EVERYTHING SETTLING DOES TO A LANE: its held mark, the debt of a divergent merge, and its copy of the uniform registers. -/
theorem settle_settled (g : Group) (act : BitVec 32) (b : Bool) (l : Nat) (hl : l < 32) : Settled g (g.settle act b) l := by
  unfold Group.settle
  simp only
  split
  · have base : ∀ k < 32, (rd g.release.lanes k).s = (rd g.lanes k).s ∧ (rd g.release.lanes k).pc = (rd g.lanes k).pc ∧
        (rd g.release.lanes k).repi = (rd g.lanes k).repi := by
      intro k hk; obtain ⟨h, e⟩ := release_lane g k hk; rw [e]; exact ⟨rfl, rfl, rfl⟩
    obtain ⟨h, e⟩ := release_lane g l hl
    obtain ⟨h', o, s, e', hs⟩ := merge_settled g.release b l hl
    refine ⟨h', o, s, ?_, ?_⟩
    · show rd (g.release.merge b).lanes l = _
      rw [e', e]
    · rcases hs with hs | ⟨k, hk, hp, hs⟩
      · exact .inl (by rw [hs]; exact (base l hl).1)
      · refine .inr ⟨k, hk, ?_, by rw [hs]; exact (base k hk).1⟩
        unfold Lane.samePath at hp ⊢
        rw [(base k hk).2.1, (base l hl).2.1, (base k hk).2.2, (base l hl).2.2] at hp
        exact hp
  · exact Settled.refl g l

theorem settle_body (g : Group) (act : BitVec 32) (b : Bool) : (g.settle act b).body = g.body := by
  unfold Group.settle Group.merge
  simp only
  split
  · split <;> rfl
  · rfl

theorem merge_run (g : Group) (b : Bool) : (g.merge b).runPos = g.runPos := by
  unfold Group.merge
  simp only
  split <;> rfl

theorem release_run (g : Group) : g.release.runPos = 0 ∨ g.release.runPos = g.runPos := by
  unfold Group.release
  simp only
  split <;> simp

theorem settle_run (g : Group) (act : BitVec 32) (b : Bool) : (g.settle act b).runPos = 0 ∨ (g.settle act b).runPos = g.runPos := by
  unfold Group.settle
  simp only [Group.keepPres]
  split
  · rw [merge_run]; exact release_run g
  · exact .inr rfl

theorem keepLane_slice (g : Group) (act : BitVec 32) (sl : Nat) : g.keepLane act sl = rd g.pres sl ∨ g.keepLane act sl / 4 = sl := by
  unfold Group.keepLane
  split
  · exact .inl rfl
  · cases h : (((List.range 4).map fun k => 4 * sl + k).find? fun l => inMask act l && (rd g.lanes l).live) with
    | none => exact .inl rfl
    | some x =>
      have := List.mem_of_find?_eq_some h
      simp only [List.mem_map, List.mem_range] at this
      obtain ⟨k, hk, rfl⟩ := this
      exact .inr (by simp only [Option.getD_some]; omega)

theorem settle_pres (g : Group) (act : BitVec 32) (b : Bool) (sl : Nat) (h : sl < 8) :
    rd (g.settle act b).pres sl = rd g.pres sl ∨ rd (g.settle act b).pres sl / 4 = sl := by
  have key : ∀ g1 : Group, g1.pres = g.pres → rd (g1.keepPres act).pres sl = rd g.pres sl ∨ rd (g1.keepPres act).pres sl / 4 = sl := by
    intro g1 e
    have : rd (g1.keepPres act).pres sl = g1.keepLane act sl := by simp [Group.keepPres, rd, h]
    rw [this, ← e]
    exact keepLane_slice g1 act sl
  unfold Group.settle
  refine key _ ?_
  unfold Group.merge
  split
  · simp only
    split <;> rfl
  · rfl

end Settling

section Moving

/-- The one team that the movement of an issue changes. -/
theorem modGroup_team? (s : State) (tm g k : Nat) (f : Group → Group) :
    (s.modGroup tm g f).team? k = if k = tm then (s.team? k).map (fun t => t.modGroup g f) else s.team? k :=
  team?_modTeam s tm k _ (fun _ => rfl)

theorem applyFx_team? (s : State) (tm g k : Nat) (m : BitVec 32) (fx : Nat → Fx) :
    (s.applyFx tm g m fx).team? k = if k = tm then (s.team? k).map (fun t => t.applyFx g m fx) else s.team? k :=
  team?_modTeam s tm k _ (fun t => applyFx_id t g m fx)

theorem group_of_team {s : State} {tm g : Nat} {t : Team} (h : s.team? tm = some t) : s.group tm g = rd t.groups g := by
  unfold State.group; rw [h]
theorem rdV_of_team {s : State} {tm g l r : Nat} {t : Team} (h : s.team? tm = some t) : s.rdV tm g l r = t.rdV g l r := by
  unfold State.rdV; rw [h]

/-- A lane's movement: to an address, or to the next repeat. -/
def Lane.arrive (l : Lane) (rep : Nat) (tgt : Option Code) : Lane :=
  match tgt with
  | some a => l.goto a
  | none => { l with repi := rep + 1, wait := none }

/-- The run position counts an instruction (R106). -/
def Group.counted (g : Group) : Group := { g with runPos := g.runPos + 1 }

/-- The group of the issue after its lanes have moved; a repeat does not settle it. -/
def Group.arrived (g : Group) (c : Cur) (tgt : Nat → Option Code) (b : Option Bool) : Group :=
  let g1 := g.mapLanes c.act fun k l => l.arrive c.rep (tgt k)
  match b with
  | some strict => g1.counted.settle c.act strict
  | none => g1

/-- Two changes of one group are one. -/
theorem modGroup_modGroup (s : State) (tm g : Nat) (f h : Group → Group) :
    (s.modGroup tm g f).modGroup tm g h = s.modGroup tm g fun x => h (f x) := by
  unfold State.modGroup State.modTeam
  simp only [List.map_map]
  congr 1
  apply List.map_congr_left
  intro t _
  simp only [Function.comp]
  by_cases ht : (t.id == tm) = true
  · simp only [ht, if_true, Team.modGroup_id]
    unfold Team.modGroup
    simp only [rd_wr, if_true]
    congr 1
    clear ht
    generalize t.groups = gs
    induction gs generalizing g with
    | nil => induction g with
      | zero => simp [wr]
      | succ n ih => simpa [wr] using ih
    | cons a tl ih => cases g with
      | zero => simp [wr]
      | succ n => simpa [wr] using ih n
  · simp only [ht, Bool.false_eq_true, if_false]

/-- EVERYTHING ARRIVING DOES: the group's lanes move, its run position counts the instruction, and the group settles. -/
theorem arrive_eq (s : State) (c : Cur) (f : Nat → Lane → Lane) : ∃ b, s.arrive c f =
    s.modGroup c.team c.group fun g => (g.mapLanes c.act f).counted.settle c.act b := by
  unfold State.arrive State.settle State.mapLanes
  rw [modGroup_modGroup, modGroup_modGroup]
  exact ⟨_, rfl⟩

/-- EVERYTHING `advance` DOES: the group of the issue moves, and the issue is done. -/
theorem advance_eq (s : State) (i : Instr) (c : Cur) : ∃ b, s.advance i c =
    { (s.modGroup c.team c.group fun g => g.arrived c (fun _ => if c.rep < i.lastRep then none else some c.next) b) with
      cur := some { c with out := .done } } := by
  unfold State.advance
  split
  · exact ⟨none, rfl⟩
  · obtain ⟨b, h⟩ := arrive_eq s c fun _ l => l.goto c.next
    rw [h]
    exact ⟨some b, rfl⟩

/-- EVERYTHING `jumpTo` DOES: the group of the issue moves, and the issue is done or has diverged. -/
theorem jumpTo_eq (s : State) (c : Cur) (tgt : Nat → Code) (d : Bool) : ∃ b, s.jumpTo c tgt d =
    { (s.modGroup c.team c.group fun g => g.arrived c (fun l => some (tgt l)) b) with
      cur := some { c with out := if d then .diverged else .done } } := by
  unfold State.jumpTo
  obtain ⟨b, h⟩ := arrive_eq s c fun k l => l.goto (tgt k)
  rw [h]
  exact ⟨some b, rfl⟩

section Arriving
variable (l : Lane) (rep : Nat) (tgt : Option Code)

theorem arrive_body : (l.arrive rep tgt).body = l.body := by
  unfold Lane.arrive Lane.goto Lane.body; repeat' split
  all_goals rfl
theorem arrive_s : (l.arrive rep tgt).s = l.s := by
  unfold Lane.arrive Lane.goto; repeat' split
  all_goals rfl
theorem arrive_v : (l.arrive rep tgt).v = l.v := by
  unfold Lane.arrive Lane.goto; repeat' split
  all_goals rfl
theorem arrive_preds : (l.arrive rep tgt).preds = l.preds := by
  unfold Lane.arrive Lane.goto; repeat' split
  all_goals rfl
theorem arrive_exited : (l.arrive rep tgt).exited = l.exited := by
  unfold Lane.arrive Lane.goto; repeat' split
  all_goals simp_all
theorem arrive_moved (h : l.exited = false) : (l.arrive rep tgt).wait = none ∧
    match tgt with
    | some a => (l.arrive rep tgt).pc = a ∧ (l.arrive rep tgt).repi = 0
    | none => (l.arrive rep tgt).pc = l.pc ∧ (l.arrive rep tgt).repi = rep + 1 := by
  unfold Lane.arrive Lane.goto
  cases tgt <;> simp [h]

end Arriving

/-- A lane of the issue's group after its lanes have moved. -/
theorem arrived_lane (g : Group) (c : Cur) (tgt : Nat → Option Code) (b : Option Bool) (l : Nat) (hl : l < 32) :
    ∃ h o s, rd (g.arrived c tgt b).lanes l =
        { (if inMask c.act l then (rd g.lanes l).arrive c.rep (tgt l) else rd g.lanes l) with held := h, owesDiv := o, s := s } ∧
      ∃ k < 32, (k = l ∨ (rd (g.arrived c tgt b).lanes k).samePath (rd (g.arrived c tgt b).lanes l) = true) ∧ s = (rd g.lanes k).s := by
  have pre : ∀ k < 32, rd (g.mapLanes c.act fun k l => l.arrive c.rep (tgt k)).lanes k =
      if inMask c.act k then (rd g.lanes k).arrive c.rep (tgt k) else rd g.lanes k := fun k hk => rd_mapLanes _ _ _ _ hk
  have hs : ∀ k < 32, (if inMask c.act k then (rd g.lanes k).arrive c.rep (tgt k) else rd g.lanes k).s = (rd g.lanes k).s := by
    intro k _; split
    · exact arrive_s ..
    · rfl
  unfold Group.arrived
  cases b with
  | none =>
    simp only
    rw [pre l hl]
    exact ⟨_, _, _, rfl, l, hl, .inl rfl, hs l hl⟩
  | some b =>
    simp only
    obtain ⟨h, o, s, e, hk⟩ : Settled (g.mapLanes c.act fun k l => l.arrive c.rep (tgt k)) _ l := settle_settled (g.mapLanes c.act fun k l => l.arrive c.rep (tgt k)).counted c.act b l hl
    refine ⟨h, o, s, by rw [e, pre l hl], ?_⟩
    rcases hk with hk | ⟨k, hk, hp, hks⟩
    · exact ⟨l, hl, .inl rfl, by rw [hk, pre l hl, hs l hl]⟩
    · refine ⟨k, hk, .inr ?_, by rw [hks, pre k hk, hs k hk]⟩
      obtain ⟨h', o', s', e', -⟩ : Settled (g.mapLanes c.act fun k l => l.arrive c.rep (tgt k)) _ k := settle_settled (g.mapLanes c.act fun k l => l.arrive c.rep (tgt k)).counted c.act b k hk
      rw [e, e']
      exact hp

theorem arrived_body (g : Group) (c : Cur) (tgt : Nat → Option Code) (b : Option Bool) : (g.arrived c tgt b).body = g.body := by
  unfold Group.arrived
  cases b with
  | none => rfl
  | some b => exact settle_body ..

theorem arrived_run (g : Group) (c : Cur) (tgt : Nat → Option Code) (b : Option Bool) :
    (g.arrived c tgt b).runPos = 0 ∨ (g.arrived c tgt b).runPos = g.runPos ∨ (g.arrived c tgt b).runPos = g.runPos + 1 := by
  unfold Group.arrived
  cases b with
  | none => exact .inr (.inl rfl)
  | some b => rcases settle_run (g.mapLanes c.act fun k l => l.arrive c.rep (tgt k)).counted c.act b with h | h
              · exact .inl h
              · exact .inr (.inr h)

theorem arrived_pres (g : Group) (c : Cur) (tgt : Nat → Option Code) (b : Option Bool) (sl : Nat) (h : sl < 8) :
    rd (g.arrived c tgt b).pres sl = rd g.pres sl ∨ rd (g.arrived c tgt b).pres sl / 4 = sl := by
  unfold Group.arrived
  cases b with
  | none => exact .inl rfl
  | some b => exact settle_pres (g.mapLanes c.act fun k l => l.arrive c.rep (tgt k)).counted c.act b sl h

end Moving

section Computing

/-- The changes of a lane that leave alone what `Did` speaks of elsewhere. -/
structure Fx.plain (f : Fx) : Prop where
  v : ∀ ln, (f.other ln).v = ln.v
  preds : ∀ ln, (f.other ln).preds = ln.preds
  s : ∀ ln, (f.other ln).s = ln.s
  pc : ∀ ln, (f.other ln).pc = ln.pc
  repi : ∀ ln, (f.other ln).repi = ln.repi
  free : ∀ ln v' s' p', { (f.other { ln with v := v', s := s', preds := p' }).body with v := [], preds := 0 } =
    { (f.other ln).body with v := [], preds := 0 }

theorem Fx.plain_id (v s : List (Nat × Word)) (p : List (Nat × Bool)) : Fx.plain { v := v, s := s, p := p } :=
  ⟨fun _ => rfl, fun _ => rfl, fun _ => rfl, fun _ => rfl, fun _ => rfl, fun _ _ _ _ => rfl⟩

/-- THE FRAME of a write of registers after which the lanes of the splinter move: see `Did`. -/
theorem did_of_arrived {s fin : State} {t : Team} (c : Cur) (m : BitVec 32) (fx : Nat → Fx) (tgt : Nat → Option Code)
    (out : Out) (b : Option Bool) (ht : s.team? c.team = some t) (hf : ∀ l, (fx l).plain)
    (he : fin = { ((s.applyFx c.team c.group m fx).modGroup c.team c.group fun g => g.arrived c tgt b) with
      cur := some { c with out := out } }) : Did s fin c m fx tgt out := by
  have h1 : ∀ k, fin.team? k =
      if k = c.team then (s.team? k).map (fun t => (t.applyFx c.group m fx).modGroup c.group fun g => g.arrived c tgt b) else s.team? k := by
    intro k
    rw [he]
    show ((s.applyFx c.team c.group m fx).modGroup c.team c.group fun g => g.arrived c tgt b).team? k = _
    rw [modGroup_team?, applyFx_team?]
    split
    · rw [Option.map_map]; rfl
    · rfl
  have hT : fin.team? c.team =
      some ((t.applyFx c.group m fx).modGroup c.group fun g => g.arrived c tgt b) := by rw [h1]; simp [ht]
  -- the group and lanes at the end
  let g0 := rd t.groups c.group
  let g1 := g0.mapLanes m fun l ln => (fx l).onLane (t.twinOf c.group).isSome ln
  have hG : fin.group c.team c.group = g1.arrived c tgt b := by
    rw [group_of_team hT, rd_groups_modGroup, applyFx_group]; simp only [if_true]; rfl
  have hG0 : s.group c.team c.group = g0 := group_of_team ht
  have lane1 : ∀ l < 32, rd g1.lanes l = if inMask m l then (fx l).onLane (t.twinOf c.group).isSome (rd g0.lanes l) else rd g0.lanes l :=
    fun l hl => rd_mapLanes _ _ _ _ hl
  have laneF : ∀ l, fin.lane c.team c.group l = rd (g1.arrived c tgt b).lanes l := by intro l; unfold State.lane; rw [hG]
  have laneS : ∀ l, s.lane c.team c.group l = rd g0.lanes l := by intro l; unfold State.lane; rw [hG0]
  have pc1 : ∀ l < 32, (rd g1.lanes l).pc = (rd g0.lanes l).pc ∧ (rd g1.lanes l).repi = (rd g0.lanes l).repi := by
    intro l hl
    rw [lane1 l hl]
    split
    · unfold Fx.onLane; rw [(hf l).pc, (hf l).repi]; exact ⟨rfl, rfl⟩
    · exact ⟨rfl, rfl⟩
  have vF : ∀ g l r, l < 32 → fin.rdV c.team g l r = (t.applyFx c.group m fx).rdV g l r := by
    intro g l r hl
    rw [rdV_of_team hT]
    unfold Team.rdV
    simp only [Team.modGroup_twinOf, rd_groups_modGroup]
    by_cases hg : c.group = g
    · subst hg
      simp only [if_true]
      have : (rd ((rd (t.applyFx c.group m fx).groups c.group).arrived c tgt b).lanes l).v =
          (rd (rd (t.applyFx c.group m fx).groups c.group).lanes l).v := by
        obtain ⟨h, o, s', e, -⟩ := arrived_lane (rd (t.applyFx c.group m fx).groups c.group) c tgt b l hl
        rw [e]; simp only; split
        · exact arrive_v ..
        · rfl
      rw [this]
    · simp only [hg, if_false]
  refine ⟨?_, ?_, ?_, ?_, ?_, ?_, ?_, ?_, ?_, ?_, ?_, ?_, ?_, ?_, ?_, ?_, ?_⟩
  · intro a; rw [he]; rfl
  · intro tm a
    unfold State.spByte
    rw [h1]
    by_cases h : tm = c.team
    · subst h; simp [ht]
    · simp only [h, if_false]
  · rw [he]; rfl
  · intro tm h; rw [h1, if_neg h]
  · rw [hT, ht]; simp
  · intro g hg
    have hg' : ¬ c.group = g := fun h => hg h.symm
    rw [group_of_team hT, group_of_team ht, rd_groups_modGroup, if_neg hg', applyFx_group, if_neg hg']
  · rw [hG, hG0, arrived_body]; rfl
  · rw [hG, hG0]; exact arrived_run g1 c tgt b
  · rw [hG, hG0]; exact arrived_pres g1 c tgt b
  · intro l hl r hr
    rw [vF _ _ _ hl, rdV_of_team ht]
    exact applyFx_rdV _ _ _ _ _ _ hl hr (hf l).v
  · intro tm g l r hl hr hne h
    by_cases htm : tm = c.team
    · subst htm
      have hg : g ≠ c.group := fun h => hne (by rw [h])
      rw [vF _ _ _ hl, rdV_of_team ht]
      refine applyFx_rdV_other _ _ _ _ _ _ _ hg ?_
      rcases h with h | h | h
      · exact .inl h
      · exact absurd rfl h
      · refine .inr ?_
        unfold State.sharesTwin at h
        rw [ht] at h
        simp only at h
        cases hq : t.twinOf c.group with
        | none => rfl
        | some q => cases hk : t.twinOf g with
          | none => rfl
          | some p => rw [hq, hk] at h; simpa using h
    · unfold State.rdV; rw [h1, if_neg htm]
  · intro tm g l k hl hk h
    unfold State.twinReg
    rw [h1]
    by_cases htm : tm = c.team
    · subst htm
      simp only [if_true, ht, Option.map_some, Option.bind_some, Team.modGroup_twinOf]
      refine applyFx_twinReg t c.group g m fx l k hk ?_
      rcases h with h | h | h
      · exact absurd rfl h
      · left; unfold State.sharesTwin at h; rw [ht] at h; exact h
      · exact .inr h
    · rw [if_neg htm]
  · intro l hl
    rw [laneF, laneS]
    obtain ⟨h, o, s', e, -⟩ := arrived_lane g1 c tgt b l hl
    rw [e]
    have : (if inMask c.act l then (rd g1.lanes l).arrive c.rep (tgt l) else rd g1.lanes l).preds = (rd g1.lanes l).preds := by
      split
      · exact arrive_preds ..
      · rfl
    simp only
    rw [this, lane1 l hl]
    split
    · unfold Fx.onLane; rw [(hf l).preds]
    · rfl
  · intro l hl
    rw [laneF, laneS]
    obtain ⟨h, o, s', e, -⟩ := arrived_lane g1 c tgt b l hl
    have e1 : (rd (g1.arrived c tgt b).lanes l).body = (rd g1.lanes l).body := by
      rw [e]
      show Lane.body (if inMask c.act l then (rd g1.lanes l).arrive c.rep (tgt l) else rd g1.lanes l) = _
      split
      · exact arrive_body ..
      · rfl
    rw [e1, lane1 l hl]
    split
    · unfold Fx.onLane; exact (hf l).free ..
    · rfl
  · intro l hl
    rw [laneF]
    obtain ⟨h, o, s', e, k, hk, hkp, hks⟩ := arrived_lane g1 c tgt b l hl
    refine ⟨k, hk, ?_, ?_⟩
    · rw [laneF]; exact hkp
    · rw [e]
      simp only
      rw [hks, lane1 k hk, laneS]
      split
      · unfold Fx.onLane; rw [(hf k).s]
      · rfl
  · intro l hl hm hx
    rw [laneF] at hx ⊢
    rw [laneS]
    obtain ⟨h, o, s', e, -⟩ := arrived_lane g1 c tgt b l hl
    rw [e] at hx ⊢
    simp only [hm, if_true, arrive_exited] at hx ⊢
    rw [← (pc1 l hl).1]
    exact arrive_moved _ _ _ hx
  · intro l hl hm
    rw [laneF, laneS]
    obtain ⟨h, o, s', e, -⟩ := arrived_lane g1 c tgt b l hl
    rw [e]
    simp only [hm, Bool.false_eq_true, if_false]
    refine ⟨(pc1 l hl).1, (pc1 l hl).2, ?_⟩
    intro hn
    rw [lane1 l hl, hn]; rfl

/-- THE FRAME of a write of registers that advances. -/
theorem advance_computed {s : State} {t : Team} (i : Instr) (c : Cur) (m : BitVec 32) (fx : Nat → Fx)
    (ht : s.team? c.team = some t) (hf : ∀ l, (fx l).plain) :
    Computed s ((s.applyFx c.team c.group m fx).advance i c) i c m fx := by
  obtain ⟨b, he⟩ := advance_eq (s.applyFx c.team c.group m fx) i c
  exact did_of_arrived c m fx _ _ b ht hf he

/-- THE FRAME of a write of registers that jumps. -/
theorem jumpTo_did {s : State} {t : Team} (c : Cur) (m : BitVec 32) (fx : Nat → Fx) (tgt : Nat → Code) (d : Bool)
    (ht : s.team? c.team = some t) (hf : ∀ l, (fx l).plain) :
    Did s ((s.applyFx c.team c.group m fx).jumpTo c tgt d) c m fx (fun l => some (tgt l)) (if d then .diverged else .done) := by
  obtain ⟨b, he⟩ := jumpTo_eq (s.applyFx c.team c.group m fx) c tgt d
  exact did_of_arrived c m fx _ _ b ht hf he

end Computing

end Sys2Proof.Machine
end

