-- ==== Sys2Proof/Laws/PerInstr.lean ====
section
/-!
SUPPORT. The per-instruction family `Naming`: the opcode map names every instruction, and no two the same.
-/
namespace Sys2Proof.Laws.Naming
open Sys2Proof

/-- The instruction has no words (an event), or the opcode map read at its place names it (R49, R62). -/
def Statement (i : Instr) : Prop := i.raw = .event ∨ Instr.ofRaw i.raw = some i

theorem bra : ∀ m f, Statement (.bra m f) := fun _ _ => .inr rfl
theorem call : ∀ m f, Statement (.call m f) := fun _ _ => .inr rfl
theorem brx : ∀ m f, Statement (.brx m f) := fun _ _ => .inr rfl
theorem callx : ∀ m f, Statement (.callx m f) := fun _ _ => .inr rfl
theorem ret : ∀ m f, Statement (.ret m f) := fun _ _ => .inr rfl
theorem exit : ∀ m f, Statement (.exit m f) := fun _ _ => .inr rfl
theorem yield : ∀ m f, Statement (.yield m f) := fun _ _ => .inr rfl
theorem nop : ∀ m f, Statement (.nop m f) := fun _ _ => .inr rfl
theorem trap : ∀ m f, Statement (.trap m f) := fun _ _ => .inr rfl
theorem bkpt : ∀ m f, Statement (.bkpt m f) := fun _ _ => .inr rfl
theorem tret : ∀ m f, Statement (.tret m f) := fun _ _ => .inr rfl
theorem mdone : ∀ m f, Statement (.mdone m f) := fun _ _ => .inr rfl
theorem invd : ∀ m f, Statement (.invd m f) := fun _ _ => .inr rfl
theorem meet : ∀ m f, Statement (.meet m f) := fun _ _ => .inr rfl
theorem meetr : ∀ m f, Statement (.meetr m f) := fun _ _ => .inr rfl
theorem vote : ∀ m f, Statement (.vote m f) := fun _ _ => .inr rfl
theorem shfl : ∀ m f, Statement (.shfl m f) := fun _ _ => .inr rfl
theorem srd : ∀ m f, Statement (.srd m f) := fun _ _ => .inr rfl
theorem swr : ∀ m f, Statement (.swr m f) := fun _ _ => .inr rfl
theorem iadd : ∀ m f, Statement (.iadd m f) := fun _ _ => .inr rfl
theorem isub : ∀ m f, Statement (.isub m f) := fun _ _ => .inr rfl
theorem iand : ∀ m f, Statement (.iand m f) := fun _ _ => .inr rfl
theorem ior : ∀ m f, Statement (.ior m f) := fun _ _ => .inr rfl
theorem ixor : ∀ m f, Statement (.ixor m f) := fun _ _ => .inr rfl
theorem imin : ∀ m f, Statement (.imin m f) := fun _ _ => .inr rfl
theorem imax : ∀ m f, Statement (.imax m f) := fun _ _ => .inr rfl
theorem isel : ∀ m f, Statement (.isel m f) := fun _ _ => .inr rfl
theorem shl : ∀ m f, Statement (.shl m f) := fun _ _ => .inr rfl
theorem shrl : ∀ m f, Statement (.shrl m f) := fun _ _ => .inr rfl
theorem shra : ∀ m f, Statement (.shra m f) := fun _ _ => .inr rfl
theorem rot : ∀ m f, Statement (.rot m f) := fun _ _ => .inr rfl
theorem bfx : ∀ m f, Statement (.bfx m f) := fun _ _ => .inr rfl
theorem bfi : ∀ m f, Statement (.bfi m f) := fun _ _ => .inr rfl
theorem popc : ∀ m f, Statement (.popc m f) := fun _ _ => .inr rfl
theorem clz : ∀ m f, Statement (.clz m f) := fun _ _ => .inr rfl
theorem imul : ∀ m f, Statement (.imul m f) := fun _ _ => .inr rfl
theorem imulh : ∀ m f, Statement (.imulh m f) := fun _ _ => .inr rfl
theorem imad : ∀ m f, Statement (.imad m f) := fun _ _ => .inr rfl
theorem iaddc : ∀ m f, Statement (.iaddc m f) := fun _ _ => .inr rfl
theorem lea : ∀ m f, Statement (.lea m f) := fun _ _ => .inr rfl
theorem brev : ∀ m f, Statement (.brev m f) := fun _ _ => .inr rfl
theorem iabs : ∀ m f, Statement (.iabs m f) := fun _ _ => .inr rfl
theorem ineg : ∀ m f, Statement (.ineg m f) := fun _ _ => .inr rfl
theorem iaddi : ∀ m f, Statement (.iaddi m f) := fun _ _ => .inr rfl
theorem mov : ∀ m f, Statement (.mov m f) := fun _ _ => .inr rfl
theorem inot : ∀ m f, Statement (.inot m f) := fun _ _ => .inr rfl
theorem ext : ∀ m f, Statement (.ext m f) := fun _ _ => .inr rfl
theorem iset : ∀ m f, Statement (.iset m f) := fun _ _ => .inr rfl
theorem plop : ∀ m f, Statement (.plop m f) := fun _ _ => .inr rfl
theorem movi : ∀ m f, Statement (.movi m f) := fun _ _ => .inr rfl
theorem iaddU : ∀ m f, Statement (.iaddU m f) := fun _ _ => .inr rfl
theorem isubU : ∀ m f, Statement (.isubU m f) := fun _ _ => .inr rfl
theorem iandU : ∀ m f, Statement (.iandU m f) := fun _ _ => .inr rfl
theorem iorU : ∀ m f, Statement (.iorU m f) := fun _ _ => .inr rfl
theorem ixorU : ∀ m f, Statement (.ixorU m f) := fun _ _ => .inr rfl
theorem iminU : ∀ m f, Statement (.iminU m f) := fun _ _ => .inr rfl
theorem imaxU : ∀ m f, Statement (.imaxU m f) := fun _ _ => .inr rfl
theorem shlU : ∀ m f, Statement (.shlU m f) := fun _ _ => .inr rfl
theorem shrlU : ∀ m f, Statement (.shrlU m f) := fun _ _ => .inr rfl
theorem shraU : ∀ m f, Statement (.shraU m f) := fun _ _ => .inr rfl
theorem rotU : ∀ m f, Statement (.rotU m f) := fun _ _ => .inr rfl
theorem bfxU : ∀ m f, Statement (.bfxU m f) := fun _ _ => .inr rfl
theorem bfiU : ∀ m f, Statement (.bfiU m f) := fun _ _ => .inr rfl
theorem popcU : ∀ m f, Statement (.popcU m f) := fun _ _ => .inr rfl
theorem clzU : ∀ m f, Statement (.clzU m f) := fun _ _ => .inr rfl
theorem imulU : ∀ m f, Statement (.imulU m f) := fun _ _ => .inr rfl
theorem imulhU : ∀ m f, Statement (.imulhU m f) := fun _ _ => .inr rfl
theorem imadU : ∀ m f, Statement (.imadU m f) := fun _ _ => .inr rfl
theorem iaddcU : ∀ m f, Statement (.iaddcU m f) := fun _ _ => .inr rfl
theorem leaU : ∀ m f, Statement (.leaU m f) := fun _ _ => .inr rfl
theorem brevU : ∀ m f, Statement (.brevU m f) := fun _ _ => .inr rfl
theorem iabsU : ∀ m f, Statement (.iabsU m f) := fun _ _ => .inr rfl
theorem inegU : ∀ m f, Statement (.inegU m f) := fun _ _ => .inr rfl
theorem iaddiU : ∀ m f, Statement (.iaddiU m f) := fun _ _ => .inr rfl
theorem movU : ∀ m f, Statement (.movU m f) := fun _ _ => .inr rfl
theorem inotU : ∀ m f, Statement (.inotU m f) := fun _ _ => .inr rfl
theorem extU : ∀ m f, Statement (.extU m f) := fun _ _ => .inr rfl
theorem isetU : ∀ m f, Statement (.isetU m f) := fun _ _ => .inr rfl
theorem moviU : ∀ m f, Statement (.moviU m f) := fun _ _ => .inr rfl
theorem movW16 : ∀ f, Statement (.movW16 f) := fun _ => .inr rfl
theorem iaddW16 : ∀ f, Statement (.iaddW16 f) := fun _ => .inr rfl
theorem isubW16 : ∀ f, Statement (.isubW16 f) := fun _ => .inr rfl
theorem iandW16 : ∀ f, Statement (.iandW16 f) := fun _ => .inr rfl
theorem iorW16 : ∀ f, Statement (.iorW16 f) := fun _ => .inr rfl
theorem ixorW16 : ∀ f, Statement (.ixorW16 f) := fun _ => .inr rfl
theorem shlW16 : ∀ f, Statement (.shlW16 f) := fun _ => .inr rfl
theorem shrlW16 : ∀ f, Statement (.shrlW16 f) := fun _ => .inr rfl
theorem shraW16 : ∀ f, Statement (.shraW16 f) := fun _ => .inr rfl
theorem imulW16 : ∀ f, Statement (.imulW16 f) := fun _ => .inr rfl
theorem faddW16 : ∀ f, Statement (.faddW16 f) := fun _ => .inr rfl
theorem fsubW16 : ∀ f, Statement (.fsubW16 f) := fun _ => .inr rfl
theorem fmulW16 : ∀ f, Statement (.fmulW16 f) := fun _ => .inr rfl
theorem fminW16 : ∀ f, Statement (.fminW16 f) := fun _ => .inr rfl
theorem fmaxW16 : ∀ f, Statement (.fmaxW16 f) := fun _ => .inr rfl
theorem iaddiW16 : ∀ f, Statement (.iaddiW16 f) := fun _ => .inr rfl
theorem fadd : ∀ m f, Statement (.fadd m f) := fun _ _ => .inr rfl
theorem fsub : ∀ m f, Statement (.fsub m f) := fun _ _ => .inr rfl
theorem fmul : ∀ m f, Statement (.fmul m f) := fun _ _ => .inr rfl
theorem fmin : ∀ m f, Statement (.fmin m f) := fun _ _ => .inr rfl
theorem fmax : ∀ m f, Statement (.fmax m f) := fun _ _ => .inr rfl
theorem fma : ∀ m f, Statement (.fma m f) := fun _ _ => .inr rfl
theorem frnd : ∀ m f, Statement (.frnd m f) := fun _ _ => .inr rfl
theorem fclass : ∀ m f, Statement (.fclass m f) := fun _ _ => .inr rfl
theorem fset : ∀ m f, Statement (.fset m f) := fun _ _ => .inr rfl
theorem cvt : ∀ m f, Statement (.cvt m f) := fun _ _ => .inr rfl
theorem cvti : ∀ m f, Statement (.cvti m f) := fun _ _ => .inr rfl
theorem cvtf : ∀ m f, Statement (.cvtf m f) := fun _ _ => .inr rfl
theorem pack : ∀ m f, Statement (.pack m f) := fun _ _ => .inr rfl
theorem unpk : ∀ m f, Statement (.unpk m f) := fun _ _ => .inr rfl
theorem dot2 : ∀ m f, Statement (.dot2 m f) := fun _ _ => .inr rfl
theorem dot4 : ∀ m f, Statement (.dot4 m f) := fun _ _ => .inr rfl
theorem dot8 : ∀ m f, Statement (.dot8 m f) := fun _ _ => .inr rfl
theorem rcp : ∀ m f, Statement (.rcp m f) := fun _ _ => .inr rfl
theorem rcpa : ∀ m f, Statement (.rcpa m f) := fun _ _ => .inr rfl
theorem rsq : ∀ m f, Statement (.rsq m f) := fun _ _ => .inr rfl
theorem sqrt : ∀ m f, Statement (.sqrt m f) := fun _ _ => .inr rfl
theorem exp2 : ∀ m f, Statement (.exp2 m f) := fun _ _ => .inr rfl
theorem log2 : ∀ m f, Statement (.log2 m f) := fun _ _ => .inr rfl
theorem sincos : ∀ m f, Statement (.sincos m f) := fun _ _ => .inr rfl
theorem erf : ∀ m f, Statement (.erf m f) := fun _ _ => .inr rfl
theorem rngkey : ∀ m f, Statement (.rngkey m f) := fun _ _ => .inr rfl
theorem rngpos : ∀ m f, Statement (.rngpos m f) := fun _ _ => .inr rfl
theorem rng : ∀ m f, Statement (.rng m f) := fun _ _ => .inr rfl
theorem rngf : ∀ m f, Statement (.rngf m f) := fun _ _ => .inr rfl
theorem rngn : ∀ m f, Statement (.rngn m f) := fun _ _ => .inr rfl
theorem ld : ∀ m f, Statement (.ld m f) := fun _ _ => .inr rfl
theorem st : ∀ m f, Statement (.st m f) := fun _ _ => .inr rfl
theorem lds : ∀ m f, Statement (.lds m f) := fun _ _ => .inr rfl
theorem sts : ∀ m f, Statement (.sts m f) := fun _ _ => .inr rfl
theorem pref : ∀ m f, Statement (.pref m f) := fun _ _ => .inr rfl
theorem atomAdd : ∀ m f, Statement (.atomAdd m f) := fun _ _ => .inr rfl
theorem atomMin : ∀ m f, Statement (.atomMin m f) := fun _ _ => .inr rfl
theorem atomMax : ∀ m f, Statement (.atomMax m f) := fun _ _ => .inr rfl
theorem atomAnd : ∀ m f, Statement (.atomAnd m f) := fun _ _ => .inr rfl
theorem atomOr : ∀ m f, Statement (.atomOr m f) := fun _ _ => .inr rfl
theorem atomXor : ∀ m f, Statement (.atomXor m f) := fun _ _ => .inr rfl
theorem atomXchg : ∀ m f, Statement (.atomXchg m f) := fun _ _ => .inr rfl
theorem atomFadd : ∀ m f, Statement (.atomFadd m f) := fun _ _ => .inr rfl
theorem cas : ∀ m f, Statement (.cas m f) := fun _ _ => .inr rfl
theorem red : ∀ m f, Statement (.red m f) := fun _ _ => .inr rfl
theorem fence : ∀ m f, Statement (.fence m f) := fun _ _ => .inr rfl
theorem xfence : ∀ m f, Statement (.xfence m f) := fun _ _ => .inr rfl
theorem hinit : ∀ m f, Statement (.hinit m f) := fun _ _ => .inr rfl
theorem harv : ∀ m f, Statement (.harv m f) := fun _ _ => .inr rfl
theorem hexp : ∀ m f, Statement (.hexp m f) := fun _ _ => .inr rfl
theorem hwait : ∀ m f, Statement (.hwait m f) := fun _ _ => .inr rfl
theorem tagw : ∀ m f, Statement (.tagw m f) := fun _ _ => .inr rfl
theorem tagf : ∀ m f, Statement (.tagf m f) := fun _ _ => .inr rfl
theorem tagc : ∀ m f, Statement (.tagc m f) := fun _ _ => .inr rfl
theorem madd : ∀ m f, Statement (.madd m f) := fun _ _ => .inr rfl
theorem msub : ∀ m f, Statement (.msub m f) := fun _ _ => .inr rfl
theorem mmul : ∀ m f, Statement (.mmul m f) := fun _ _ => .inr rfl
theorem mscl : ∀ m f, Statement (.mscl m f) := fun _ _ => .inr rfl
theorem msamp : ∀ m f, Statement (.msamp m f) := fun _ _ => .inr rfl
theorem mrelu : ∀ m f, Statement (.mrelu m f) := fun _ _ => .inr rfl
theorem mexp : ∀ m f, Statement (.mexp m f) := fun _ _ => .inr rfl
theorem mcol : ∀ m f, Statement (.mcol m f) := fun _ _ => .inr rfl
theorem mmov : ∀ m f, Statement (.mmov m f) := fun _ _ => .inr rfl
theorem mspl : ∀ m f, Statement (.mspl m f) := fun _ _ => .inr rfl
theorem mmode : ∀ m f, Statement (.mmode m f) := fun _ _ => .inr rfl
theorem mld : ∀ m f, Statement (.mld m f) := fun _ _ => .inr rfl
theorem mst : ∀ m f, Statement (.mst m f) := fun _ _ => .inr rfl
theorem copy : ∀ m f, Statement (.copy m f) := fun _ _ => .inr rfl
theorem copyt : ∀ m f, Statement (.copyt m f) := fun _ _ => .inr rfl
theorem gath : ∀ m f, Statement (.gath m f) := fun _ _ => .inr rfl
theorem scat : ∀ m f, Statement (.scat m f) := fun _ _ => .inr rfl
theorem pushw : ∀ m f, Statement (.pushw m f) := fun _ _ => .inr rfl
theorem crem : ∀ m f, Statement (.crem m f) := fun _ _ => .inr rfl
theorem mma : ∀ m f, Statement (.mma m f) := fun _ _ => .inr rfl
theorem mmat : ∀ m f, Statement (.mmat m f) := fun _ _ => .inr rfl
theorem mmas : ∀ m f, Statement (.mmas m f) := fun _ _ => .inr rfl
theorem mmam : ∀ m f, Statement (.mmam m f) := fun _ _ => .inr rfl
theorem mwait : ∀ m f, Statement (.mwait m f) := fun _ _ => .inr rfl
theorem acrd : ∀ m f, Statement (.acrd m f) := fun _ _ => .inr rfl
theorem acwr : ∀ m f, Statement (.acwr m f) := fun _ _ => .inr rfl
theorem acst : ∀ m f, Statement (.acst m f) := fun _ _ => .inr rfl
theorem acz : ∀ m f, Statement (.acz m f) := fun _ _ => .inr rfl
theorem acrel : ∀ m f, Statement (.acrel m f) := fun _ _ => .inr rfl
theorem cclr : ∀ m f, Statement (.cclr m f) := fun _ _ => .inr rfl
theorem cfrm : ∀ m f, Statement (.cfrm m f) := fun _ _ => .inr rfl
theorem clobe : ∀ m f, Statement (.clobe m f) := fun _ _ => .inr rfl
theorem cmix : ∀ m f, Statement (.cmix m f) := fun _ _ => .inr rfl
theorem clay : ∀ m f, Statement (.clay m f) := fun _ _ => .inr rfl
theorem cnet : ∀ m f, Statement (.cnet m f) := fun _ _ => .inr rfl
theorem csmp : ∀ m f, Statement (.csmp m f) := fun _ _ => .inr rfl
theorem cevl : ∀ m f, Statement (.cevl m f) := fun _ _ => .inr rfl
theorem cpdf : ∀ m f, Statement (.cpdf m f) := fun _ _ => .inr rfl
theorem calb : ∀ m f, Statement (.calb m f) := fun _ _ => .inr rfl
theorem cspl : ∀ m f, Statement (.cspl m f) := fun _ _ => .inr rfl
theorem cfil : ∀ m f, Statement (.cfil m f) := fun _ _ => .inr rfl
theorem ldt : ∀ m f, Statement (.ldt m f) := fun _ _ => .inr rfl
theorem cfence : ∀ m f, Statement (.cfence m f) := fun _ _ => .inr rfl
theorem trace : ∀ m f, Statement (.trace m f) := fun _ _ => .inr rfl
theorem tstep : ∀ m f, Statement (.tstep m f) := fun _ _ => .inr rfl
theorem hitget : ∀ m f, Statement (.hitget m f) := fun _ _ => .inr rfl
theorem hitacc : ∀ m f, Statement (.hitacc m f) := fun _ _ => .inr rfl
theorem rast : ∀ m f, Statement (.rast m f) := fun _ _ => .inr rfl
theorem qdiff : ∀ m f, Statement (.qdiff m f) := fun _ _ => .inr rfl
theorem resid : ∀ m f, Statement (.resid m f) := fun _ _ => .inr rfl
theorem folddef : ∀ m f, Statement (.folddef m f) := fun _ _ => .inr rfl
theorem fold : ∀ m f, Statement (.fold m f) := fun _ _ => .inr rfl
theorem foldf : ∀ m f, Statement (.foldf m f) := fun _ _ => .inr rfl
theorem blend : ∀ m f, Statement (.blend m f) := fun _ _ => .inr rfl
theorem brand : ∀ m f, Statement (.brand m f) := fun _ _ => .inr rfl
theorem phase : ∀ m f, Statement (.phase m f) := fun _ _ => .inr rfl
theorem emit : ∀ m f, Statement (.emit m f) := fun _ _ => .inr rfl
theorem pubv : ∀ m f, Statement (.pubv m f) := fun _ _ => .inr rfl
theorem vwait : ∀ m f, Statement (.vwait m f) := fun _ _ => .inr rfl
theorem vchk : ∀ m f, Statement (.vchk m f) := fun _ _ => .inr rfl
theorem vstop : ∀ m f, Statement (.vstop m f) := fun _ _ => .inr rfl
theorem vget : ∀ m f, Statement (.vget m f) := fun _ _ => .inr rfl
theorem lnch : ∀ m f, Statement (.lnch m f) := fun _ _ => .inr rfl
theorem drain : ∀ team group, Statement (.drain team group) := fun _ _ => .inl rfl
theorem propagate : ∀ core line, Statement (.propagate core line) := fun _ _ => .inl rfl
theorem refresh : ∀ core line drop, Statement (.refresh core line drop) := fun _ _ _ => .inl rfl
theorem savedDrain : ∀ team group, Statement (.savedDrain team group) := fun _ _ => .inl rfl
theorem engineRead : ∀ entry key, Statement (.engineRead entry key) := fun _ _ => .inl rfl
theorem engineWrite : ∀ entry key, Statement (.engineWrite entry key) := fun _ _ => .inl rfl
theorem complete : ∀ entry, Statement (.complete entry) := fun _ => .inl rfl
theorem fill : ∀ core line, Statement (.fill core line) := fun _ _ => .inl rfl
theorem tableDrop : ∀ core line, Statement (.tableDrop core line) := fun _ _ => .inl rfl
theorem weightFill : ∀ core vdev addr, Statement (.weightFill core vdev addr) := fun _ _ _ => .inl rfl
theorem weightDrop : ∀ core vdev addr, Statement (.weightDrop core vdev addr) := fun _ _ _ => .inl rfl
theorem fabricDelivery : ∀ op, Statement (.fabricDelivery op) := fun _ => .inl rfl
theorem serialPhase : ∀ launch, Statement (.serialPhase launch) := fun _ => .inl rfl
theorem decode : ∀ line, Statement (.decode line) := fun _ => .inl rfl
theorem encode : ∀ line, Statement (.encode line) := fun _ => .inl rfl
theorem decodedLineDrop : ∀ line, Statement (.decodedLineDrop line) := fun _ => .inl rfl
theorem packedAccess : ∀ core line, Statement (.packedAccess core line) := fun _ _ => .inl rfl
theorem traceRead : ∀ flight line, Statement (.traceRead flight line) := fun _ _ => .inl rfl
theorem traversalComplete : ∀ flight, Statement (.traversalComplete flight) := fun _ => .inl rfl
theorem feedbackWrite : ∀ slot, Statement (.feedbackWrite slot) := fun _ => .inl rfl
theorem traversalUnitError : ∀ core unit, Statement (.traversalUnitError core unit) := fun _ _ => .inl rfl
theorem foldTimerExpiry : ∀ launch entry key, Statement (.foldTimerExpiry launch entry key) := fun _ _ _ => .inl rfl
theorem foldDrainFlush : ∀ launch, Statement (.foldDrainFlush launch) := fun _ => .inl rfl
theorem penTimerExpiry : ∀ launch pen, Statement (.penTimerExpiry launch pen) := fun _ _ => .inl rfl
theorem graphDrain : ∀ launch, Statement (.graphDrain launch) := fun _ => .inl rfl
theorem runGrant : ∀ core slot, Statement (.runGrant core slot) := fun _ _ => .inl rfl
theorem twinFull : ∀ team group, Statement (.twinFull team group) := fun _ _ => .inl rfl
theorem matrixGrant : ∀ cluster, Statement (.matrixGrant cluster) := fun _ => .inl rfl
theorem matrixPass : ∀ cluster, Statement (.matrixPass cluster) := fun _ => .inl rfl
theorem acstRowBlock : ∀ cluster, Statement (.acstRowBlock cluster) := fun _ => .inl rfl
theorem tileClaim : ∀ entry, Statement (.tileClaim entry) := fun _ => .inl rfl
theorem parkThresholdExpiry : ∀ team group, Statement (.parkThresholdExpiry team group) := fun _ _ => .inl rfl
theorem wake : ∀ team, Statement (.wake team) := fun _ => .inl rfl
theorem teamPlace : ∀ team core, Statement (.teamPlace team core) := fun _ _ => .inl rfl
theorem teamEnd : ∀ team, Statement (.teamEnd team) := fun _ => .inl rfl
theorem launchComplete : ∀ launch, Statement (.launchComplete launch) := fun _ => .inl rfl
theorem aged : ∀ team, Statement (.aged team) := fun _ => .inl rfl
theorem muster : ∀ team, Statement (.muster team) := fun _ => .inl rfl
theorem musterTrap : ∀ team group, Statement (.musterTrap team group) := fun _ _ => .inl rfl
theorem budgetOverrun : ∀ team group, Statement (.budgetOverrun team group) := fun _ _ => .inl rfl
theorem sliceEnd : ∀ vdev, Statement (.sliceEnd vdev) := fun _ => .inl rfl
theorem clusterReclaim : ∀ cluster, Statement (.clusterReclaim cluster) := fun _ => .inl rfl
theorem droveAck : ∀ launch, Statement (.droveAck launch) := fun _ => .inl rfl
theorem droveDecision : ∀ launch, Statement (.droveDecision launch) := fun _ => .inl rfl
theorem memoryErrorDetect : ∀ line, Statement (.memoryErrorDetect line) := fun _ => .inl rfl
theorem connectionSetup : ∀ conn asks, Statement (.connectionSetup conn asks) := fun _ _ => .inl rfl
theorem portFailure : ∀ port, Statement (.portFailure port) := fun _ => .inl rfl
theorem launch : ∀ h record, Statement (.launch h record) := fun _ _ => .inl rfl
theorem wmap : ∀ h body, Statement (.wmap h body) := fun _ _ => .inl rfl
theorem wunmap : ∀ h handle, Statement (.wunmap h handle) := fun _ _ => .inl rfl
theorem wwrite : ∀ h handle offset data, Statement (.wwrite h handle offset data) := fun _ _ _ _ => .inl rfl
theorem wread : ∀ h handle offset count, Statement (.wread h handle offset count) := fun _ _ _ _ => .inl rfl
theorem load : ∀ h chunk, Statement (.load h chunk) := fun _ _ => .inl rfl
theorem attest : ∀ h nonce, Statement (.attest h nonce) := fun _ _ => .inl rfl
theorem drove : ∀ h body, Statement (.drove h body) := fun _ _ => .inl rfl
theorem recover : ∀ h chunk last, Statement (.recover h chunk last) := fun _ _ _ => .inl rfl
theorem manageEndLaunch : ∀ h launch, Statement (.manageEndLaunch h launch) := fun _ _ => .inl rfl
theorem manageResolveFault : ∀ h entry maps, Statement (.manageResolveFault h entry maps) := fun _ _ _ => .inl rfl
theorem manageDenyFault : ∀ h entry, Statement (.manageDenyFault h entry) := fun _ _ => .inl rfl
theorem manageMusterTeam : ∀ h team, Statement (.manageMusterTeam h team) := fun _ _ => .inl rfl
theorem manageWritePartition : ∀ h index entry, Statement (.manageWritePartition h index entry) := fun _ _ _ => .inl rfl
theorem manageLendClusters : ∀ h cluster partition, Statement (.manageLendClusters h cluster partition) := fun _ _ _ => .inl rfl
theorem manageReclaimClusters : ∀ h cluster, Statement (.manageReclaimClusters h cluster) := fun _ _ => .inl rfl
theorem manageCreateVdev : ∀ h entry, Statement (.manageCreateVdev h entry) := fun _ _ => .inl rfl
theorem manageDeleteVdev : ∀ h, Statement (.manageDeleteVdev h) := fun _ => .inl rfl
theorem manageWriteFormatRegion : ∀ h controller index value, Statement (.manageWriteFormatRegion h controller index value) := fun _ _ _ _ => .inl rfl
theorem manageRetirePage : ∀ h page, Statement (.manageRetirePage h page) := fun _ _ => .inl rfl
theorem manageExportContext : ∀ h team, Statement (.manageExportContext h team) := fun _ _ => .inl rfl
theorem manageImportContext : ∀ h team image, Statement (.manageImportContext h team image) := fun _ _ _ => .inl rfl
theorem manageReadEvents : ∀ h, Statement (.manageReadEvents h) := fun _ => .inl rfl
theorem manageClearEvents : ∀ h, Statement (.manageClearEvents h) := fun _ => .inl rfl
theorem manageAttachDebugger : ∀ h, Statement (.manageAttachDebugger h) := fun _ => .inl rfl
theorem manageDetachDebugger : ∀ h, Statement (.manageDetachDebugger h) := fun _ => .inl rfl
theorem debuggerResume : ∀ team group, Statement (.debuggerResume team group) := fun _ _ => .inl rfl
theorem manageRaiseMinVersion : ∀ h version sig, Statement (.manageRaiseMinVersion h version sig) := fun _ _ _ => .inl rfl
theorem manageEnterRecovery : ∀ h sig, Statement (.manageEnterRecovery h sig) := fun _ _ => .inl rfl
theorem reset : Statement (.reset) := .inl rfl
theorem thermalTrip : Statement (.thermalTrip) := .inl rfl
theorem lobeOperationComplete : ∀ flight, Statement (.lobeOperationComplete flight) := fun _ => .inl rfl
theorem connectionClose : ∀ conn, Statement (.connectionClose conn) := fun _ => .inl rfl

end Sys2Proof.Laws.Naming
end

