-- ==== Sys2Proof/Laws/Words.lean ====
section
/-!
SUPPORT. Sub-elements of a word: what `sub` reads after `put` and `pack`.
-/
namespace Sys2Proof
open Machine

theorem Ty.slot_mul_count (t : Ty) : t.slot * t.count = 32 := by cases t <;> rfl
theorem Ty.width_le_slot (t : Ty) : t.width ≤ t.slot := by cases t <;> decide
theorem Ty.width_pos (t : Ty) : 0 < t.width := by cases t <;> decide

/-- Bit i of sub-element j. -/
theorem testBit_sub (t : Ty) (w : Word) (j i : Nat) : (sub t w j).testBit i = (decide (i < t.width) && w.getLsbD (t.slot * j + i)) := by
  unfold sub
  rw [Nat.testBit_mod_two_pow, Nat.testBit_shiftRight]
  rfl

/-- No value of a sub-element lies in the gaps. -/
theorem Ty.gap_sub (t : Ty) (k i : Nat) (hi : i < t.width) : t.gap.getLsbD (t.slot * k + i) = false := by
  have six : ∀ k < 4, ∀ i < 6, (0xC0C0C0C0#32).getLsbD (8 * k + i) = false := by decide
  have wide (h6 : i < 6) : (0xC0C0C0C0#32).getLsbD (8 * k + i) = false :=
    if hk : k < 4 then six k hk i h6 else BitVec.getLsbD_of_ge _ _ (by omega)
  cases t
  case e3m2 => exact wide hi
  case e2m3 => exact wide hi
  all_goals simp [Ty.gap]

/-- Bit i of a word in which sub-element j has been put. -/
theorem getLsbD_put (t : Ty) (w : Word) (j x i : Nat) (hj : j < t.count) : (put t w j x).getLsbD i =
    if t.slot * j ≤ i ∧ i < t.slot * j + t.slot then (decide (i - t.slot * j < t.width) && x.testBit (i - t.slot * j))
    else (w.getLsbD i && !t.gap.getLsbD i) := by
  have h32 : t.slot * j + t.slot ≤ 32 := by
    have h := Ty.slot_mul_count t
    calc t.slot * j + t.slot = t.slot * (j + 1) := by ring
      _ ≤ t.slot * t.count := Nat.mul_le_mul_left _ hj
      _ = 32 := h
  unfold put
  simp only [BitVec.getLsbD_or, BitVec.getLsbD_and, BitVec.getLsbD_not, BitVec.getLsbD_ofNat, Nat.testBit_shiftLeft,
    Nat.testBit_two_pow_sub_one, Nat.testBit_mod_two_pow]
  by_cases hi : i < 32
  · by_cases h : t.slot * j ≤ i ∧ i < t.slot * j + t.slot
    · obtain ⟨h1, h2⟩ := h
      have h3 : i - t.slot * j < t.slot := by omega
      simp [hi, h1, h2, h3]
    · by_cases h1 : t.slot * j ≤ i
      · have h2 : ¬ i - t.slot * j < t.slot := by omega
        have h3 : ¬ i < t.slot * j + t.slot := by omega
        have h4 : ¬ i - t.slot * j < t.width := by have := Ty.width_le_slot t; omega
        simp [hi, h1, h2, h3, h4]
      · simp [hi, h1]
  · have h : ¬ (t.slot * j ≤ i ∧ i < t.slot * j + t.slot) := by omega
    simp [hi, h, BitVec.getLsbD_of_ge w i (by omega)]

/-- Reading a sub-element after one has been put. -/
theorem sub_put (t : Ty) (w : Word) (j k x : Nat) (hj : j < t.count) :
    sub t (put t w j x) k = if k = j then x % 2 ^ t.width else sub t w k := by
  apply Nat.eq_of_testBit_eq
  intro i
  have hw := Ty.width_le_slot t
  rw [testBit_sub, getLsbD_put t w j x _ hj]
  by_cases hi : i < t.width
  · by_cases hk : k = j
    · subst hk
      have : t.slot * k + i < t.slot * k + t.slot := by omega
      simp [hi, this, Nat.testBit_mod_two_pow]
    · have : ¬ (t.slot * j ≤ t.slot * k + i ∧ t.slot * k + i < t.slot * j + t.slot) := by
        rintro ⟨h1, h2⟩
        rcases Nat.lt_or_gt_of_ne hk with h | h
        · have := Nat.mul_le_mul_left t.slot (show k + 1 ≤ j from h)
          rw [Nat.mul_add] at this; omega
        · have := Nat.mul_le_mul_left t.slot (show j + 1 ≤ k from h)
          rw [Nat.mul_add] at this; omega
      simp [hi, this, hk, testBit_sub, Ty.gap_sub t k i hi]
  · by_cases hk : k = j <;> simp [hi, hk, Nat.testBit_mod_two_pow, testBit_sub]

/-- Reading a sub-element of a packed word. -/
theorem sub_pack (t : Ty) (xs : List Nat) (k : Nat) (hx : xs.length = t.count) (hk : k < t.count) :
    sub t (pack t xs) k = xs.getD k 0 % 2 ^ t.width := by
  have key : ∀ n ≤ t.count, ∀ f : Nat → Nat, sub t (((List.range n).map fun i => (i, f i)).foldl (fun w p => put t w p.1 p.2) 0) k =
      if k < n then f k % 2 ^ t.width else sub t 0 k := by
    intro n hn f
    induction n with
    | zero => simp
    | succ n ih =>
      rw [List.range_succ, List.map_append, List.foldl_append]
      simp only [List.map_cons, List.map_nil, List.foldl_cons, List.foldl_nil]
      rw [sub_put t _ n k _ (by omega), ih (by omega)]
      by_cases h : k = n
      · subst h; simp
      · simp only [h, if_false]
        have : (k < n + 1) ↔ k < n := by omega
        simp only [this]
  unfold pack
  have hz : (List.range xs.length).zip xs = (List.range xs.length).map fun i => (i, xs.getD i 0) := by
    apply List.ext_getElem
    · simp
    · intro i h1 h2
      simp at h1
      simp [List.getD_eq_getElem?_getD, h1]
  rw [hz, key _ (by omega)]
  simp [hx, hk]

/-- Reading a sub-element of a word that is made element by element. -/
theorem sub_pack_map (t : Ty) (f : Nat → Nat) (k : Nat) (hk : k < t.count) :
    sub t (pack t ((List.range t.count).map f)) k = f k % 2 ^ t.width := by
  rw [sub_pack t _ k (by simp) hk]
  simp [List.getD_eq_getElem?_getD, hk]

end Sys2Proof
end

