-- ==== Sys2Proof/Tests/Slice0.lean ====
section
/-!
SUPPORT. The model's own tests: ill-formed instructions that WellFormed refuses, a word of every instruction written out from the
encoding tables, single steps with results taken from the spec, and for each statement with hypotheses a witness that meets them.
-/
namespace Sys2Proof.Machine
open Sys2Proof

section Probe

/-- The issue of the probes: slot 0 of core 0, group 0 of team 1, all 32 lanes, at 0x10000. -/
def probeCur : Cur := { core := 0, slot := 0, team := 1, group := 0, act := 0xFFFFFFFF, pc := 0x10000, len := 2, rep := 0 }

/-- A part on which one team of one group of 32 lanes runs, with an instruction in progress. -/
def probe : State := { State.reset.withFetchWord 0 0 with cur := some probeCur }

/-- R-form fields of the probes. -/
def f0 : RForm := { g := 0, e := false, d := 1, a := 2, b := 3 }

/-- Whether an instruction is ready on a part without twins. -/
def okReady (i : Instr) (s : State) (c : Cur) : Bool :=
  s.cur == some c && match s.team? c.team with
    | some t => t.twins.isEmpty && i.inBudget (s.budget c.team c.group) && (s.pendingOn c i).isEmpty
    | none => false

theorem ready_of_ok {i : Instr} {s : State} {c : Cur} (h : okReady i s c = true) : Ready s i c s := by
  unfold okReady at h
  rw [Bool.and_eq_true] at h
  obtain ⟨hc, h⟩ := h
  cases ht : s.team? c.team with
  | none => simp [ht] at h
  | some t =>
    simp only [ht, Bool.and_eq_true, List.isEmpty_iff] at h
    exact ⟨c, t, eq_of_beq hc, ht, h.1.2, h.2, .inl ⟨h.1.1, rfl, rfl⟩⟩

/-- The probe with values in vector registers: the same for every lane. -/
def probeV (vs : List (Nat × Word)) : State := probe.applyFx 1 0 0xFFFFFFFF fun _ => { v := vs }

/-- The probe with values in uniform registers. -/
def probeS (ss : List (Nat × Word)) : State := probe.applyFx 1 0 0xFFFFFFFF fun _ => { s := ss }

/-- What an outcome holds, read through f; the default where it is no next state. -/
def seen {α : Type} [Inhabited α] (r : Res) (f : State → α) : α := match r with | .next t => f t | _ => default

theorem noOne {α : Type} {o : Option α} {p : α → Prop} (h : o = none) : ∀ x, o = some x → p x := by
  intro x e; rw [h] at e; cases e

end Probe


section Words

/-- Major 0x00, each with its fields written out from the encoding tables. -/
theorem test_words_00 :
    decode (halves 0b001_000000000000001001101_000000_0_1) = .ok (.bra {} { g := 1, e := false, off := 77 }) 2 := by decide

/-- Major 0x01, each with its fields written out from the encoding tables. -/
theorem test_words_01 :
    decode (halves 0b010_000000000000001001101_000001_1_1) = .ok (.call {} { g := 2, e := true, off := 77 }) 2 := by decide

/-- Major 0x02, each with its fields written out from the encoding tables. -/
theorem test_words_02 :
    decode (halves 0b011_000_000000_001011_000000_000010_0_1) = .ok (.brx {} { g := 3, e := false, d := 0, a := 11, b := 0 }) 2 ∧
    decode (halves 0b100_001_000000_001100_000111_000010_1_1) = .ok (.callx {} { g := 4, e := true, d := 7, a := 12, b := 0 }) 2 ∧
    decode (halves 0b101_010_000000_001101_000000_000010_0_1) = .ok (.ret {} { g := 5, e := false, d := 0, a := 13, b := 0 }) 2 := by decide

/-- Major 0x03, each with its fields written out from the encoding tables. -/
theorem test_words_03 :
    decode (halves 0b110_000_000000_000000_000000_000011_1_1) = .ok (.exit {} { g := 6, e := true, d := 0, a := 0, b := 0 }) 2 ∧
    decode (halves 0b111_001_000000_000000_000000_000011_0_1) = .ok (.yield {} { g := 7, e := false, d := 0, a := 0, b := 0 }) 2 ∧
    decode (halves 0b001_010_000000_000000_000000_000011_1_1) = .ok (.nop {} { g := 1, e := true, d := 0, a := 0, b := 0 }) 2 ∧
    decode (halves 0b010_011_000000_000010_000000_000011_0_1) = .ok (.trap {} { g := 2, e := false, d := 0, a := 2, b := 0 }) 2 ∧
    decode (halves 0b000_100_000000_000000_000000_000011_1_1) = .ok (.bkpt {} { g := 0, e := true, d := 0, a := 0, b := 0 }) 2 ∧
    decode (halves 0b000_101_000000_000000_000000_000011_0_1) = .ok (.tret {} { g := 0, e := false, d := 0, a := 0, b := 0 }) 2 ∧
    decode (halves 0b000_110_000000_001110_000000_000011_1_1) = .ok (.mdone {} { g := 0, e := true, d := 0, a := 14, b := 0 }) 2 ∧
    decode (halves 0b000_111_000000_000000_000000_000011_0_1) = .ok (.invd {} { g := 0, e := false, d := 0, a := 0, b := 0 }) 2 := by decide

/-- Major 0x04, each with its fields written out from the encoding tables. -/
theorem test_words_04 :
    decode (halves 0b111_000_000001_001101_000111_000100_1_1) = .ok (.meet {} { g := 7, e := true, d := 7, a := 13, b := 1 }) 2 ∧
    decode (halves 0b001_001_000000_001011_000000_000100_0_1) = .ok (.meetr {} { g := 1, e := false, d := 0, a := 11, b := 0 }) 2 ∧
    decode (halves 0b010_010_000000_000101_000100_000100_1_1) = .ok (.vote {} { g := 2, e := true, d := 4, a := 5, b := 0 }) 2 ∧
    decode (halves 0b011_011_010011_001101_000101_000100_0_1) = .ok (.shfl {} { g := 3, e := false, d := 5, a := 13, b := 19 }) 2 ∧
    decode (halves 0b100_100_000000_000010_000110_000100_1_1) = .ok (.srd {} { g := 4, e := true, d := 6, a := 2, b := 0 }) 2 ∧
    decode (halves 0b101_101_000000_001001_001110_000100_0_1) = .ok (.swr {} { g := 5, e := false, d := 14, a := 9, b := 0 }) 2 := by decide

/-- Major 0x05, each with its fields written out from the encoding tables. -/
theorem test_words_05 :
    decode (halves 0b110_000_010110_001010_001000_000101_1_1) = .ok (.iadd {} { g := 6, e := true, d := 8, a := 10, b := 22 }) 2 ∧
    decode (halves 0b111_001_010111_001011_000100_000101_0_1) = .ok (.isub {} { g := 7, e := false, d := 4, a := 11, b := 23 }) 2 ∧
    decode (halves 0b001_010_010001_001100_000101_000101_1_1) = .ok (.iand {} { g := 1, e := true, d := 5, a := 12, b := 17 }) 2 ∧
    decode (halves 0b010_011_010010_001101_000110_000101_0_1) = .ok (.ior {} { g := 2, e := false, d := 6, a := 13, b := 18 }) 2 ∧
    decode (halves 0b011_100_010011_001110_000111_000101_1_1) = .ok (.ixor {} { g := 3, e := true, d := 7, a := 14, b := 19 }) 2 ∧
    decode (halves 0b100_101_010100_001001_001000_000101_0_1) = .ok (.imin {} { g := 4, e := false, d := 8, a := 9, b := 20 }) 2 ∧
    decode (halves 0b101_110_010101_001010_000100_000101_1_1) = .ok (.imax {} { g := 5, e := true, d := 4, a := 10, b := 21 }) 2 ∧
    decode (halves 0b110_111_010110_001011_000101_000101_0_1) = .ok (.isel {} { g := 6, e := false, d := 5, a := 11, b := 22 }) 2 := by decide

/-- Major 0x06, each with its fields written out from the encoding tables. -/
theorem test_words_06 :
    decode (halves 0b111_000_010111_001100_000110_000110_1_1) = .ok (.shl {} { g := 7, e := true, d := 6, a := 12, b := 23 }) 2 ∧
    decode (halves 0b001_001_010001_001101_000111_000110_0_1) = .ok (.shrl {} { g := 1, e := false, d := 7, a := 13, b := 17 }) 2 ∧
    decode (halves 0b010_010_010010_001110_001000_000110_1_1) = .ok (.shra {} { g := 2, e := true, d := 8, a := 14, b := 18 }) 2 ∧
    decode (halves 0b011_011_010011_001001_000100_000110_0_1) = .ok (.rot {} { g := 3, e := false, d := 4, a := 9, b := 19 }) 2 ∧
    decode (halves 0b100_100_010100_001010_000101_000110_1_1) = .ok (.bfx {} { g := 4, e := true, d := 5, a := 10, b := 20 }) 2 ∧
    decode (halves 0b101_101_010101_001011_000110_000110_0_1) = .ok (.bfi {} { g := 5, e := false, d := 6, a := 11, b := 21 }) 2 ∧
    decode (halves 0b110_110_000000_001100_000111_000110_1_1) = .ok (.popc {} { g := 6, e := true, d := 7, a := 12, b := 0 }) 2 ∧
    decode (halves 0b111_111_000000_001101_001000_000110_0_1) = .ok (.clz {} { g := 7, e := false, d := 8, a := 13, b := 0 }) 2 := by decide

/-- Major 0x07, each with its fields written out from the encoding tables. -/
theorem test_words_07 :
    decode (halves 0b001_000_010001_001110_000100_000111_1_1) = .ok (.imul {} { g := 1, e := true, d := 4, a := 14, b := 17 }) 2 ∧
    decode (halves 0b010_001_010010_001001_000101_000111_0_1) = .ok (.imulh {} { g := 2, e := false, d := 5, a := 9, b := 18 }) 2 ∧
    decode (halves 0b011_010_010011_001010_000110_000111_1_1) = .ok (.imad {} { g := 3, e := true, d := 6, a := 10, b := 19 }) 2 ∧
    decode (halves 0b100_011_010100_001011_000111_000111_0_1) =
      .ok (.iaddc {} { g := 4, e := false, d := 7, a := 11, b := 20 }) 2 ∧
    decode (halves 0b101_100_010101_001100_001000_000111_1_1) = .ok (.lea {} { g := 5, e := true, d := 8, a := 12, b := 21 }) 2 ∧
    decode (halves 0b110_101_000000_001101_000100_000111_0_1) = .ok (.brev {} { g := 6, e := false, d := 4, a := 13, b := 0 }) 2 ∧
    decode (halves 0b111_110_000000_001110_000101_000111_1_1) = .ok (.iabs {} { g := 7, e := true, d := 5, a := 14, b := 0 }) 2 ∧
    decode (halves 0b001_111_000000_001001_000110_000111_0_1) = .ok (.ineg {} { g := 1, e := false, d := 6, a := 9, b := 0 }) 2 := by decide

/-- Major 0x08, each with its fields written out from the encoding tables. -/
theorem test_words_08 :
    decode (halves 0b010_110100101_001010_000111_001000_1_1) =
      .ok (.iaddi {} { g := 2, e := true, d := 7, a := 10, imm := 421 }) 2 := by decide

/-- Major 0x09, each with its fields written out from the encoding tables. -/
theorem test_words_09 :
    decode (halves 0b011_000_000000_001011_001000_001001_0_1) = .ok (.mov {} { g := 3, e := false, d := 8, a := 11, b := 0 }) 2 ∧
    decode (halves 0b100_001_000000_001100_000100_001001_1_1) = .ok (.inot {} { g := 4, e := true, d := 4, a := 12, b := 0 }) 2 ∧
    decode (halves 0b000_000000000000001000_001_111111_0_1 ++ halves 0b101_010_000000_001101_000101_001001_0_1) =
      .ok (.ext { x := some { ty := .i16 } } { g := 5, e := false, d := 5, a := 13, b := 0 }) 4 ∧
    decode (halves 0b110_011_010110_001110_000110_001001_1_1) = .ok (.iset {} { g := 6, e := true, d := 6, a := 14, b := 22 }) 2 ∧
    decode (halves 0b111_100_000011_000010_000111_001001_0_1) = .ok (.plop {} { g := 7, e := false, d := 7, a := 2, b := 3 }) 2 := by decide

/-- Major 0x0A, each with its fields written out from the encoding tables. -/
theorem test_words_0A :
    decode (halves 0b001_110100101_000000_001000_001010_1_1) = .ok (.movi {} { g := 1, e := true, d := 8, a := 0, imm := 421 }) 2 := by decide

/-- Major 0x0B, each with its fields written out from the encoding tables. -/
theorem test_words_0B :
    decode (halves 0b000_000_010010_001011_000100_001011_0_1) =
      .ok (.iaddU {} { g := 0, e := false, d := 4, a := 11, b := 18 }) 2 ∧
    decode (halves 0b000_001_010011_001100_000101_001011_1_1) = .ok (.isubU {} { g := 0, e := true, d := 5, a := 12, b := 19 }) 2 ∧
    decode (halves 0b000_010_010100_001101_000110_001011_0_1) =
      .ok (.iandU {} { g := 0, e := false, d := 6, a := 13, b := 20 }) 2 ∧
    decode (halves 0b000_011_010101_001110_000111_001011_1_1) = .ok (.iorU {} { g := 0, e := true, d := 7, a := 14, b := 21 }) 2 ∧
    decode (halves 0b000_100_010110_001001_001000_001011_0_1) = .ok (.ixorU {} { g := 0, e := false, d := 8, a := 9, b := 22 }) 2 ∧
    decode (halves 0b000_101_010111_001010_000100_001011_1_1) = .ok (.iminU {} { g := 0, e := true, d := 4, a := 10, b := 23 }) 2 ∧
    decode (halves 0b000_110_010001_001011_000101_001011_0_1) =
      .ok (.imaxU {} { g := 0, e := false, d := 5, a := 11, b := 17 }) 2 := by decide

/-- Major 0x0C, each with its fields written out from the encoding tables. -/
theorem test_words_0C :
    decode (halves 0b000_000_010010_001100_000110_001100_1_1) = .ok (.shlU {} { g := 0, e := true, d := 6, a := 12, b := 18 }) 2 ∧
    decode (halves 0b000_001_010011_001101_000111_001100_0_1) =
      .ok (.shrlU {} { g := 0, e := false, d := 7, a := 13, b := 19 }) 2 ∧
    decode (halves 0b000_010_010100_001110_001000_001100_1_1) = .ok (.shraU {} { g := 0, e := true, d := 8, a := 14, b := 20 }) 2 ∧
    decode (halves 0b000_011_010101_001001_000100_001100_0_1) = .ok (.rotU {} { g := 0, e := false, d := 4, a := 9, b := 21 }) 2 ∧
    decode (halves 0b000_100_010110_001010_000101_001100_1_1) = .ok (.bfxU {} { g := 0, e := true, d := 5, a := 10, b := 22 }) 2 ∧
    decode (halves 0b000_101_010111_001011_000110_001100_0_1) = .ok (.bfiU {} { g := 0, e := false, d := 6, a := 11, b := 23 }) 2 ∧
    decode (halves 0b000_110_000000_001100_000111_001100_1_1) = .ok (.popcU {} { g := 0, e := true, d := 7, a := 12, b := 0 }) 2 ∧
    decode (halves 0b000_111_000000_001101_001000_001100_0_1) = .ok (.clzU {} { g := 0, e := false, d := 8, a := 13, b := 0 }) 2 := by decide

/-- Major 0x0D, each with its fields written out from the encoding tables. -/
theorem test_words_0D :
    decode (halves 0b000_000_010011_001110_000100_001101_1_1) = .ok (.imulU {} { g := 0, e := true, d := 4, a := 14, b := 19 }) 2 ∧
    decode (halves 0b000_001_010100_001001_000101_001101_0_1) =
      .ok (.imulhU {} { g := 0, e := false, d := 5, a := 9, b := 20 }) 2 ∧
    decode (halves 0b000_010_010101_001010_000110_001101_1_1) = .ok (.imadU {} { g := 0, e := true, d := 6, a := 10, b := 21 }) 2 ∧
    decode (halves 0b000_011_010110_001011_000111_001101_0_1) =
      .ok (.iaddcU {} { g := 0, e := false, d := 7, a := 11, b := 22 }) 2 ∧
    decode (halves 0b000_100_010111_001100_001000_001101_1_1) = .ok (.leaU {} { g := 0, e := true, d := 8, a := 12, b := 23 }) 2 ∧
    decode (halves 0b000_101_000000_001101_000100_001101_0_1) = .ok (.brevU {} { g := 0, e := false, d := 4, a := 13, b := 0 }) 2 ∧
    decode (halves 0b000_110_000000_001110_000101_001101_1_1) = .ok (.iabsU {} { g := 0, e := true, d := 5, a := 14, b := 0 }) 2 ∧
    decode (halves 0b000_111_000000_001001_000110_001101_0_1) = .ok (.inegU {} { g := 0, e := false, d := 6, a := 9, b := 0 }) 2 := by decide

/-- Major 0x0E, each with its fields written out from the encoding tables. -/
theorem test_words_0E :
    decode (halves 0b000_110100101_001010_000111_001110_1_1) =
      .ok (.iaddiU {} { g := 0, e := true, d := 7, a := 10, imm := 421 }) 2 := by decide

/-- Major 0x0F, each with its fields written out from the encoding tables. -/
theorem test_words_0F :
    decode (halves 0b000_000_000000_001011_001000_001111_0_1) = .ok (.movU {} { g := 0, e := false, d := 8, a := 11, b := 0 }) 2 ∧
    decode (halves 0b000_001_000000_001100_000100_001111_1_1) = .ok (.inotU {} { g := 0, e := true, d := 4, a := 12, b := 0 }) 2 ∧
    decode (halves 0b000_000000000000001000_001_111111_0_1 ++ halves 0b000_010_000000_001101_000101_001111_0_1) =
      .ok (.extU { x := some { ty := .i16 } } { g := 0, e := false, d := 5, a := 13, b := 0 }) 4 ∧
    decode (halves 0b000_011_010001_001110_000110_001111_1_1) = .ok (.isetU {} { g := 0, e := true, d := 6, a := 14, b := 17 }) 2 := by decide

/-- Major 0x10, each with its fields written out from the encoding tables. -/
theorem test_words_10 :
    decode (halves 0b000_110100101_000000_000111_010000_0_1) =
      .ok (.moviU {} { g := 0, e := false, d := 7, a := 0, imm := 421 }) 2 := by decide

/-- The 16-bit instructions, each with its fields written out from the encoding tables. -/
theorem test_words_half :
    decode ([0b01100_01000_0000_1_0]) = .ok (.movW16 { e := true, d := 8, s := 12 }) 1 ∧
    decode ([0b01101_00100_0001_0_0]) = .ok (.iaddW16 { e := false, d := 4, s := 13 }) 1 ∧
    decode ([0b00101_00101_0010_1_0]) = .ok (.isubW16 { e := true, d := 5, s := 5 }) 1 ∧
    decode ([0b00110_00110_0011_0_0]) = .ok (.iandW16 { e := false, d := 6, s := 6 }) 1 ∧
    decode ([0b00111_00111_0100_1_0]) = .ok (.iorW16 { e := true, d := 7, s := 7 }) 1 ∧
    decode ([0b01000_01000_0101_0_0]) = .ok (.ixorW16 { e := false, d := 8, s := 8 }) 1 ∧
    decode ([0b01001_00100_0110_1_0]) = .ok (.shlW16 { e := true, d := 4, s := 9 }) 1 ∧
    decode ([0b01010_00101_0111_0_0]) = .ok (.shrlW16 { e := false, d := 5, s := 10 }) 1 ∧
    decode ([0b01011_00110_1000_1_0]) = .ok (.shraW16 { e := true, d := 6, s := 11 }) 1 ∧
    decode ([0b01100_00111_1001_0_0]) = .ok (.imulW16 { e := false, d := 7, s := 12 }) 1 ∧
    decode ([0b01101_01000_1010_1_0]) = .ok (.faddW16 { e := true, d := 8, s := 13 }) 1 ∧
    decode ([0b00101_00100_1011_0_0]) = .ok (.fsubW16 { e := false, d := 4, s := 5 }) 1 ∧
    decode ([0b00110_00101_1100_1_0]) = .ok (.fmulW16 { e := true, d := 5, s := 6 }) 1 ∧
    decode ([0b00111_00110_1101_0_0]) = .ok (.fminW16 { e := false, d := 6, s := 7 }) 1 ∧
    decode ([0b01000_00111_1110_1_0]) = .ok (.fmaxW16 { e := true, d := 7, s := 8 }) 1 ∧
    decode ([0b10101_01000_1111_0_0]) = .ok (.iaddiW16 { e := false, d := 8, s := 21 }) 1 := by decide

/-- Major 0x11, each with its fields written out from the encoding tables. -/
theorem test_words_11 :
    decode (halves 0b101_000_010101_001110_000100_010001_1_1) = .ok (.fadd {} { g := 5, e := true, d := 4, a := 14, b := 21 }) 2 ∧
    decode (halves 0b110_001_010110_001001_000101_010001_0_1) = .ok (.fsub {} { g := 6, e := false, d := 5, a := 9, b := 22 }) 2 ∧
    decode (halves 0b111_010_010111_001010_000110_010001_1_1) = .ok (.fmul {} { g := 7, e := true, d := 6, a := 10, b := 23 }) 2 ∧
    decode (halves 0b001_011_010001_001011_000111_010001_0_1) = .ok (.fmin {} { g := 1, e := false, d := 7, a := 11, b := 17 }) 2 ∧
    decode (halves 0b010_100_010010_001100_001000_010001_1_1) = .ok (.fmax {} { g := 2, e := true, d := 8, a := 12, b := 18 }) 2 ∧
    decode (halves 0b011_101_010011_001101_000100_010001_0_1) = .ok (.fma {} { g := 3, e := false, d := 4, a := 13, b := 19 }) 2 ∧
    decode (halves 0b100_110_000000_001110_000101_010001_1_1) = .ok (.frnd {} { g := 4, e := true, d := 5, a := 14, b := 0 }) 2 ∧
    decode (halves 0b101_111_000000_001001_000110_010001_0_1) = .ok (.fclass {} { g := 5, e := false, d := 6, a := 9, b := 0 }) 2 := by decide

/-- Major 0x12, each with its fields written out from the encoding tables. -/
theorem test_words_12 :
    decode (halves 0b110_000_010110_001010_000111_010010_1_1) = .ok (.fset {} { g := 6, e := true, d := 7, a := 10, b := 22 }) 2 ∧
    decode (halves 0b111_001_000000_001011_001000_010010_0_1) = .ok (.cvt {} { g := 7, e := false, d := 8, a := 11, b := 0 }) 2 ∧
    decode (halves 0b001_010_000000_001100_000100_010010_1_1) = .ok (.cvti {} { g := 1, e := true, d := 4, a := 12, b := 0 }) 2 ∧
    decode (halves 0b010_000000000000000000_001_111111_0_1 ++ halves 0b010_011_000000_001101_000101_010010_0_1) =
      .ok (.cvtf { x := some { cls := 16 } } { g := 2, e := false, d := 5, a := 13, b := 0 }) 4 ∧
    decode (halves 0b000_000000000000000001_001_111111_0_1 ++ halves 0b011_100_000000_001110_000110_010010_1_1) =
      .ok (.pack { x := some { ty := .f16 } } { g := 3, e := true, d := 6, a := 14, b := 0 }) 4 ∧
    decode (halves 0b000_000000000000000001_001_111111_0_1 ++ halves 0b100_101_000000_001001_000111_010010_0_1) =
      .ok (.unpk { x := some { ty := .f16 } } { g := 4, e := false, d := 7, a := 9, b := 0 }) 4 := by decide

/-- Major 0x13, each with its fields written out from the encoding tables. -/
theorem test_words_13 :
    decode (halves 0b101_000_010101_001010_001000_010011_1_1) = .ok (.dot2 {} { g := 5, e := true, d := 8, a := 10, b := 21 }) 2 ∧
    decode (halves 0b110_001_010110_001011_000100_010011_0_1) = .ok (.dot4 {} { g := 6, e := false, d := 4, a := 11, b := 22 }) 2 ∧
    decode (halves 0b111_010_010111_001100_000101_010011_1_1) = .ok (.dot8 {} { g := 7, e := true, d := 5, a := 12, b := 23 }) 2 := by decide

/-- Major 0x14, each with its fields written out from the encoding tables. -/
theorem test_words_14 :
    decode (halves 0b001_000_000000_001101_000110_010100_0_1) = .ok (.rcp {} { g := 1, e := false, d := 6, a := 13, b := 0 }) 2 ∧
    decode (halves 0b010_001_000000_001110_000111_010100_1_1) = .ok (.rcpa {} { g := 2, e := true, d := 7, a := 14, b := 0 }) 2 ∧
    decode (halves 0b011_010_000000_001001_001000_010100_0_1) = .ok (.rsq {} { g := 3, e := false, d := 8, a := 9, b := 0 }) 2 ∧
    decode (halves 0b100_011_000000_001010_000100_010100_1_1) = .ok (.sqrt {} { g := 4, e := true, d := 4, a := 10, b := 0 }) 2 ∧
    decode (halves 0b101_100_000000_001011_000101_010100_0_1) = .ok (.exp2 {} { g := 5, e := false, d := 5, a := 11, b := 0 }) 2 ∧
    decode (halves 0b110_101_000000_001100_000110_010100_1_1) = .ok (.log2 {} { g := 6, e := true, d := 6, a := 12, b := 0 }) 2 ∧
    decode (halves 0b111_110_000000_001101_000111_010100_0_1) =
      .ok (.sincos {} { g := 7, e := false, d := 7, a := 13, b := 0 }) 2 ∧
    decode (halves 0b001_111_000000_001110_001000_010100_1_1) = .ok (.erf {} { g := 1, e := true, d := 8, a := 14, b := 0 }) 2 := by decide

/-- Major 0x15, each with its fields written out from the encoding tables. -/
theorem test_words_15 :
    decode (halves 0b010_000_000000_001001_000000_010101_0_1) = .ok (.rngkey {} { g := 2, e := false, d := 0, a := 9, b := 0 }) 2 ∧
    decode (halves 0b011_001_010011_001010_000000_010101_1_1) =
      .ok (.rngpos {} { g := 3, e := true, d := 0, a := 10, b := 19 }) 2 ∧
    decode (halves 0b100_010_000000_000000_000110_010101_0_1) = .ok (.rng {} { g := 4, e := false, d := 6, a := 0, b := 0 }) 2 ∧
    decode (halves 0b101_011_000000_000000_000111_010101_1_1) = .ok (.rngf {} { g := 5, e := true, d := 7, a := 0, b := 0 }) 2 ∧
    decode (halves 0b110_100_000000_000000_001000_010101_0_1) = .ok (.rngn {} { g := 6, e := false, d := 8, a := 0, b := 0 }) 2 := by decide

/-- Major 0x16, each with its fields written out from the encoding tables. -/
theorem test_words_16 :
    decode (halves 0b111_000_010111_001110_000100_010110_1_1) = .ok (.ld {} { g := 7, e := true, d := 4, a := 14, b := 23 }) 2 ∧
    decode (halves 0b001_001_010001_001001_000101_010110_0_1) = .ok (.st {} { g := 1, e := false, d := 5, a := 9, b := 17 }) 2 ∧
    decode (halves 0b010_010_010010_001010_000110_010110_1_1) = .ok (.lds {} { g := 2, e := true, d := 6, a := 10, b := 18 }) 2 ∧
    decode (halves 0b011_011_010011_001011_000111_010110_0_1) = .ok (.sts {} { g := 3, e := false, d := 7, a := 11, b := 19 }) 2 ∧
    decode (halves 0b100_100_010100_001100_000000_010110_1_1) = .ok (.pref {} { g := 4, e := true, d := 0, a := 12, b := 20 }) 2 := by decide

/-- Major 0x17, each with its fields written out from the encoding tables. -/
theorem test_words_17 :
    decode (halves 0b101_000_010101_001101_000100_010111_0_1) =
      .ok (.atomAdd {} { g := 5, e := false, d := 4, a := 13, b := 21 }) 2 ∧
    decode (halves 0b110_001_010110_001110_000101_010111_1_1) =
      .ok (.atomMin {} { g := 6, e := true, d := 5, a := 14, b := 22 }) 2 ∧
    decode (halves 0b111_010_010111_001001_000110_010111_0_1) =
      .ok (.atomMax {} { g := 7, e := false, d := 6, a := 9, b := 23 }) 2 ∧
    decode (halves 0b001_011_010001_001010_000111_010111_1_1) =
      .ok (.atomAnd {} { g := 1, e := true, d := 7, a := 10, b := 17 }) 2 ∧
    decode (halves 0b010_100_010010_001011_001000_010111_0_1) =
      .ok (.atomOr {} { g := 2, e := false, d := 8, a := 11, b := 18 }) 2 ∧
    decode (halves 0b011_101_010011_001100_000100_010111_1_1) =
      .ok (.atomXor {} { g := 3, e := true, d := 4, a := 12, b := 19 }) 2 ∧
    decode (halves 0b100_110_010100_001101_000101_010111_0_1) =
      .ok (.atomXchg {} { g := 4, e := false, d := 5, a := 13, b := 20 }) 2 ∧
    decode (halves 0b101_111_010101_001110_000110_010111_1_1) =
      .ok (.atomFadd {} { g := 5, e := true, d := 6, a := 14, b := 21 }) 2 := by decide

/-- Major 0x18, each with its fields written out from the encoding tables. -/
theorem test_words_18 :
    decode (halves 0b110_000_010110_001001_000111_011000_0_1) = .ok (.cas {} { g := 6, e := false, d := 7, a := 9, b := 22 }) 2 ∧
    decode (halves 0b111_001_010111_001010_000000_011000_1_1) = .ok (.red {} { g := 7, e := true, d := 0, a := 10, b := 23 }) 2 ∧
    decode (halves 0b000_010_000000_000000_000000_011000_0_1) = .ok (.fence {} { g := 0, e := false, d := 0, a := 0, b := 0 }) 2 ∧
    decode (halves 0b000_011_000011_000001_000000_011000_1_1) = .ok (.xfence {} { g := 0, e := true, d := 0, a := 1, b := 3 }) 2 := by decide

/-- Major 0x19, each with its fields written out from the encoding tables. -/
theorem test_words_19 :
    decode (halves 0b000_000_010011_001101_000000_011001_0_1) =
      .ok (.hinit {} { g := 0, e := false, d := 0, a := 13, b := 19 }) 2 ∧
    decode (halves 0b000_001_010100_001110_000111_011001_1_1) = .ok (.harv {} { g := 0, e := true, d := 7, a := 14, b := 20 }) 2 ∧
    decode (halves 0b000_010_010101_001001_000000_011001_0_1) = .ok (.hexp {} { g := 0, e := false, d := 0, a := 9, b := 21 }) 2 ∧
    decode (halves 0b000_011_010110_001010_000000_011001_1_1) = .ok (.hwait {} { g := 0, e := true, d := 0, a := 10, b := 22 }) 2 ∧
    decode (halves 0b000_100_000000_001011_000000_011001_0_1) = .ok (.tagw {} { g := 0, e := false, d := 0, a := 11, b := 0 }) 2 ∧
    decode (halves 0b000_101_000000_001100_000110_011001_1_1) = .ok (.tagf {} { g := 0, e := true, d := 6, a := 12, b := 0 }) 2 ∧
    decode (halves 0b000_110_000000_001101_000000_011001_0_1) = .ok (.tagc {} { g := 0, e := false, d := 0, a := 13, b := 0 }) 2 := by decide

/-- Major 0x1A, each with its fields written out from the encoding tables. -/
theorem test_words_1A :
    decode (halves 0b011_000_000111_001110_001000_011010_1_1) = .ok (.madd {} { g := 3, e := true, d := 8, a := 14, b := 7 }) 2 ∧
    decode (halves 0b100_001_000111_001110_001000_011010_0_1) = .ok (.msub {} { g := 4, e := false, d := 8, a := 14, b := 7 }) 2 ∧
    decode (halves 0b101_010_000111_001110_001000_011010_1_1) = .ok (.mmul {} { g := 5, e := true, d := 8, a := 14, b := 7 }) 2 ∧
    decode (halves 0b110_011_010110_001011_000110_011010_0_1) = .ok (.mscl {} { g := 6, e := false, d := 6, a := 11, b := 22 }) 2 ∧
    decode (halves 0b111_100_010111_001100_000111_011010_1_1) = .ok (.msamp {} { g := 7, e := true, d := 7, a := 12, b := 23 }) 2 ∧
    decode (halves 0b001_101_000000_001101_001000_011010_0_1) = .ok (.mrelu {} { g := 1, e := false, d := 8, a := 13, b := 0 }) 2 ∧
    decode (halves 0b010_110_000000_001110_000100_011010_1_1) = .ok (.mexp {} { g := 2, e := true, d := 4, a := 14, b := 0 }) 2 ∧
    decode (halves 0b011_111_000000_001001_000101_011010_0_1) = .ok (.mcol {} { g := 3, e := false, d := 5, a := 9, b := 0 }) 2 := by decide

/-- Major 0x1B, each with its fields written out from the encoding tables. -/
theorem test_words_1B :
    decode (halves 0b100_000_000000_001010_000110_011011_1_1) = .ok (.mmov {} { g := 4, e := true, d := 6, a := 10, b := 0 }) 2 ∧
    decode (halves 0b101_001_000000_001001_000111_011011_0_1) = .ok (.mspl {} { g := 5, e := false, d := 7, a := 9, b := 0 }) 2 ∧
    decode (halves 0b110_010_000101_000000_000000_011011_1_1) = .ok (.mmode {} { g := 6, e := true, d := 0, a := 0, b := 5 }) 2 ∧
    decode (halves 0b111_011_010111_001101_000100_011011_0_1) = .ok (.mld {} { g := 7, e := false, d := 4, a := 13, b := 23 }) 2 ∧
    decode (halves 0b001_100_010001_001110_000101_011011_1_1) = .ok (.mst {} { g := 1, e := true, d := 5, a := 14, b := 17 }) 2 := by decide

/-- Major 0x1C, each with its fields written out from the encoding tables. -/
theorem test_words_1C :
    decode (halves 0b000_000_010010_001001_000110_011100_0_1) = .ok (.copy {} { g := 0, e := false, d := 6, a := 9, b := 18 }) 2 ∧
    decode (halves 0b000_001_010011_001010_000111_011100_1_1) = .ok (.copyt {} { g := 0, e := true, d := 7, a := 10, b := 19 }) 2 ∧
    decode (halves 0b000_010_010100_001011_001000_011100_0_1) = .ok (.gath {} { g := 0, e := false, d := 8, a := 11, b := 20 }) 2 ∧
    decode (halves 0b000_011_010101_001100_000100_011100_1_1) = .ok (.scat {} { g := 0, e := true, d := 4, a := 12, b := 21 }) 2 ∧
    decode (halves 0b000_100_010110_001101_000101_011100_0_1) =
      .ok (.pushw {} { g := 0, e := false, d := 5, a := 13, b := 22 }) 2 ∧
    decode (halves 0b000_101_010111_001110_000110_011100_1_1) = .ok (.crem {} { g := 0, e := true, d := 6, a := 14, b := 23 }) 2 := by decide

/-- Major 0x1D, each with its fields written out from the encoding tables. -/
theorem test_words_1D :
    decode (halves 0b001_000_000000_001001_000000_011101_0_1) = .ok (.mma {} { g := 1, e := false, d := 0, a := 9, b := 0 }) 2 ∧
    decode (halves 0b000_001_000000_001010_000000_011101_1_1) = .ok (.mmat {} { g := 0, e := true, d := 0, a := 10, b := 0 }) 2 ∧
    decode (halves 0b011_010_000000_001011_000000_011101_0_1) = .ok (.mmas {} { g := 3, e := false, d := 0, a := 11, b := 0 }) 2 ∧
    decode (halves 0b100_011_000000_001100_000000_011101_1_1) = .ok (.mmam {} { g := 4, e := true, d := 0, a := 12, b := 0 }) 2 ∧
    decode (halves 0b000_100_010101_001101_000000_011101_0_1) =
      .ok (.mwait {} { g := 0, e := false, d := 0, a := 13, b := 21 }) 2 := by decide

/-- Major 0x1E, each with its fields written out from the encoding tables. -/
theorem test_words_1E :
    decode (halves 0b110_000_010110_001110_000111_011110_1_1) = .ok (.acrd {} { g := 6, e := true, d := 7, a := 14, b := 22 }) 2 ∧
    decode (halves 0b111_001_010111_001001_001000_011110_0_1) = .ok (.acwr {} { g := 7, e := false, d := 8, a := 9, b := 23 }) 2 ∧
    decode (halves 0b000_010_010001_001010_000000_011110_1_1) = .ok (.acst {} { g := 0, e := true, d := 0, a := 10, b := 17 }) 2 ∧
    decode (halves 0b000_011_000000_000000_000101_011110_0_1) = .ok (.acz {} { g := 0, e := false, d := 5, a := 0, b := 0 }) 2 ∧
    decode (halves 0b000_100_000000_000000_000110_011110_1_1) = .ok (.acrel {} { g := 0, e := true, d := 6, a := 0, b := 0 }) 2 := by decide

/-- Major 0x1F, each with its fields written out from the encoding tables. -/
theorem test_words_1F :
    decode (halves 0b100_000_000000_000000_000011_011111_0_1) = .ok (.cclr {} { g := 4, e := false, d := 3, a := 0, b := 0 }) 2 ∧
    decode (halves 0b101_001_010101_001110_000011_011111_1_1) = .ok (.cfrm {} { g := 5, e := true, d := 3, a := 14, b := 21 }) 2 ∧
    decode (halves 0b110_010_010110_001001_000011_011111_0_1) = .ok (.clobe {} { g := 6, e := false, d := 3, a := 9, b := 22 }) 2 ∧
    decode (halves 0b111_011_010111_001010_000011_011111_1_1) = .ok (.cmix {} { g := 7, e := true, d := 3, a := 10, b := 23 }) 2 ∧
    decode (halves 0b001_100_010001_001011_000011_011111_0_1) = .ok (.clay {} { g := 1, e := false, d := 3, a := 11, b := 17 }) 2 ∧
    decode (halves 0b010_101_000000_001100_000011_011111_1_1) = .ok (.cnet {} { g := 2, e := true, d := 3, a := 12, b := 0 }) 2 := by decide

/-- Major 0x20, each with its fields written out from the encoding tables. -/
theorem test_words_20 :
    decode (halves 0b011_000_000010_001101_001000_100000_0_1) = .ok (.csmp {} { g := 3, e := false, d := 8, a := 13, b := 2 }) 2 ∧
    decode (halves 0b100_001_000010_001110_000100_100000_1_1) = .ok (.cevl {} { g := 4, e := true, d := 4, a := 14, b := 2 }) 2 ∧
    decode (halves 0b101_010_000010_001001_000101_100000_0_1) = .ok (.cpdf {} { g := 5, e := false, d := 5, a := 9, b := 2 }) 2 ∧
    decode (halves 0b110_011_000010_001010_000110_100000_1_1) = .ok (.calb {} { g := 6, e := true, d := 6, a := 10, b := 2 }) 2 ∧
    decode (halves 0b111_100_010111_001011_000011_100000_0_1) = .ok (.cspl {} { g := 7, e := false, d := 3, a := 11, b := 23 }) 2 ∧
    decode (halves 0b001_101_010001_001100_000011_100000_1_1) = .ok (.cfil {} { g := 1, e := true, d := 3, a := 12, b := 17 }) 2 ∧
    decode (halves 0b010_110_010010_001101_000100_100000_0_1) = .ok (.ldt {} { g := 2, e := false, d := 4, a := 13, b := 18 }) 2 ∧
    decode (halves 0b000_111_000000_000000_000000_100000_1_1) = .ok (.cfence {} { g := 0, e := true, d := 0, a := 0, b := 0 }) 2 := by decide

/-- Major 0x21, each with its fields written out from the encoding tables. -/
theorem test_words_21 :
    decode (halves 0b100_000_010100_001001_000110_100001_0_1) = .ok (.trace {} { g := 4, e := false, d := 6, a := 9, b := 20 }) 2 ∧
    decode (halves 0b101_001_000000_000000_000111_100001_1_1) = .ok (.tstep {} { g := 5, e := true, d := 7, a := 0, b := 0 }) 2 ∧
    decode (halves 0b110_010_000000_000000_001000_100001_0_1) = .ok (.hitget {} { g := 6, e := false, d := 8, a := 0, b := 0 }) 2 ∧
    decode (halves 0b111_011_000000_000000_000000_100001_1_1) = .ok (.hitacc {} { g := 7, e := true, d := 0, a := 0, b := 0 }) 2 ∧
    decode (halves 0b000_100_010001_001101_000101_100001_0_1) = .ok (.rast {} { g := 0, e := false, d := 5, a := 13, b := 17 }) 2 ∧
    decode (halves 0b010_101_000000_001110_000110_100001_1_1) = .ok (.qdiff {} { g := 2, e := true, d := 6, a := 14, b := 0 }) 2 ∧
    decode (halves 0b000_110_000000_000000_000111_100001_0_1) = .ok (.resid {} { g := 0, e := false, d := 7, a := 0, b := 0 }) 2 := by decide

/-- Major 0x22, each with its fields written out from the encoding tables. -/
theorem test_words_22 :
    decode (halves 0b000_000_010100_001010_000000_100010_1_1) =
      .ok (.folddef {} { g := 0, e := true, d := 0, a := 10, b := 20 }) 2 ∧
    decode (halves 0b101_001_000000_001011_000100_100010_0_1) = .ok (.fold {} { g := 5, e := false, d := 4, a := 11, b := 0 }) 2 ∧
    decode (halves 0b000_010_000000_001100_000000_100010_1_1) = .ok (.foldf {} { g := 0, e := true, d := 0, a := 12, b := 0 }) 2 := by decide

/-- Major 0x23, each with its fields written out from the encoding tables. -/
theorem test_words_23 :
    decode (halves 0b111_000_010111_001101_000000_100011_0_1) =
      .ok (.blend {} { g := 7, e := false, d := 0, a := 13, b := 23 }) 2 ∧
    decode (halves 0b001_001_010001_001110_000000_100011_1_1) = .ok (.brand {} { g := 1, e := true, d := 0, a := 14, b := 17 }) 2 ∧
    decode (halves 0b000_010_000000_001001_000000_100011_0_1) = .ok (.phase {} { g := 0, e := false, d := 0, a := 9, b := 0 }) 2 := by decide

/-- Major 0x24, each with its fields written out from the encoding tables. -/
theorem test_words_24 :
    decode (halves 0b011_000_010011_001010_000100_100100_1_1) = .ok (.emit {} { g := 3, e := true, d := 4, a := 10, b := 19 }) 2 ∧
    decode (halves 0b000_001_010100_001011_000101_100100_0_1) = .ok (.pubv {} { g := 0, e := false, d := 5, a := 11, b := 20 }) 2 ∧
    decode (halves 0b000_010_010101_001100_000000_100100_1_1) = .ok (.vwait {} { g := 0, e := true, d := 0, a := 12, b := 21 }) 2 ∧
    decode (halves 0b000_011_000000_001101_000111_100100_0_1) = .ok (.vchk {} { g := 0, e := false, d := 7, a := 13, b := 0 }) 2 ∧
    decode (halves 0b000_100_000000_001110_000000_100100_1_1) = .ok (.vstop {} { g := 0, e := true, d := 0, a := 14, b := 0 }) 2 ∧
    decode (halves 0b000_101_000000_001001_000100_100100_0_1) = .ok (.vget {} { g := 0, e := false, d := 4, a := 9, b := 0 }) 2 ∧
    decode (halves 0b000_110_000000_001010_000101_100100_1_1) = .ok (.lnch {} { g := 0, e := true, d := 5, a := 10, b := 0 }) 2 := by decide

end Words

section Smoke

/-- An ill-formed term for each check of WellFormed: TYPE, RND, SAT, SCOPE, ORDER, CACHE, CLS, NF of the X word. -/
theorem test_wf_x_fields : Instr.wf (.ext { x := some { ty := .f16 } } f0) = false ∧ Instr.wf (.iadd { x := some { rnd := .rz } } f0) = false ∧
    Instr.wf (.iand { x := some { sat := true } } f0) = false ∧ Instr.wf (.iadd { x := some { scope := .team } } f0) = false ∧
    Instr.wf (.iadd { x := some { order := .rel } } f0) = false ∧ Instr.wf (.ld { x := some { order := .rel } } ⟨0, false, 1, 2, 0⟩) = false ∧
    Instr.wf (.iadd { x := some { cache := .stream } } f0) = false ∧ Instr.wf (.iadd { x := some { cls := 1 } } f0) = false ∧
    Instr.wf (.st { x := some { cls := 5 } } ⟨0, false, 1, 2, 0⟩) = false ∧ Instr.wf (.iadd { x := some { nf := true } } f0) = false := by decide
/-- K, REP, an X word where none is accepted and none where one is needed, a guard where p0 is asked for, and a choice of CLS that is
reserved. -/
theorem test_wf_prefixes : Instr.wf (.iadd { k := some 0 } f0) = false ∧
    Instr.wf (.exit { rep := some ⟨1, false, false, false⟩ } ⟨0, false, 0, 0, 0⟩) = false ∧
    Instr.wf (.bra { rep := some ⟨1, false, false, false⟩ } ⟨0, false, 4⟩) = false ∧ Instr.wf (.bra { x := some { sat := true } } ⟨0, false, 4⟩) = false ∧
    Instr.wf (.trap { x := some {} } ⟨0, false, 0, 1, 0⟩) = false ∧ Instr.wf (.unpk {} f0) = false ∧ Instr.wf (.acz {} ⟨1, false, 0, 0, 0⟩) = false ∧ Instr.wf (.mcol { x := some { cls := 24 } } ⟨0, false, 1, 0, 0⟩) = false := by decide
/-- Register fields: a span past v63, a moment past m15, a closure past c3, a tile past 31, a predicate source past p7, a domain past 5, a
number past its bound, a field that has to be 0, and REP that steps past the last register or steps no register. -/
theorem test_wf_registers : Instr.wf (.csmp {} ⟨0, false, 57, 0, 0⟩) = false ∧ Instr.wf (.csmp {} ⟨0, false, 56, 0, 0⟩) = true ∧
    Instr.wf (.madd {} ⟨0, false, 16, 0, 0⟩) = false ∧ Instr.wf (.cclr {} ⟨0, false, 4, 0, 0⟩) = false ∧
    Instr.wf (.acz {} ⟨0, false, 32, 0, 0⟩) = false ∧ Instr.wf (.plop {} ⟨0, false, 1, 8, 0⟩) = false ∧
    Instr.wf (.xfence {} ⟨0, false, 0, 0, 6⟩) = false ∧ Instr.wf (.xfence {} ⟨0, false, 0, 2, 2⟩) = false ∧
    Instr.wf (.mmode {} ⟨0, false, 0, 0, 8⟩) = false ∧ Instr.wf (.nop {} ⟨0, false, 1, 0, 0⟩) = false ∧
    Instr.wf (.iadd { rep := some ⟨3, true, false, false⟩ } ⟨0, false, 61, 2, 3⟩) = false ∧
    Instr.wf (.iadd { rep := some ⟨2, true, false, false⟩ } ⟨0, false, 61, 2, 3⟩) = true ∧
    Instr.wf (.cvti { x := some { }, rep := some ⟨2, false, false, true⟩ } f0) = false ∧
    Instr.wf (.iaddi { rep := some ⟨1, false, false, true⟩ } ⟨0, false, 1, 2, 5⟩) = false := by decide
/-- What is ill formed is not decoded: the word of NOP with D = 1. -/
theorem test_wf_refused : decode (halves (rWord 3 2 f0)) = .bad 3 2 := by decide

end Smoke

section Steps

/-- One instruction, given as its words (prefixes first), on a probe. -/
def ranWords (ws : List (BitVec 32)) (s : State) : Res := match decode (ws.flatMap halves) with | .ok i _ => exec i s | _ => .next s
def ran (ws : List (BitVec 32)) (s : State) (r : Nat) : Word := seen (ranWords ws s) fun t => t.rdV 1 0 0 r
/-- One instruction on a probe, by its vector result in lane 0. -/
def does (i : Instr) (s : State) (r : Nat) : Word := seen (exec i s) fun t => t.rdV 1 0 0 r
def sat32 : Mods := { x := some { sat := true } }
def satN32 : Mods := { x := some { ty := .n32, sat := true } }

/-- R147's examples. -/
theorem test_iadd_sat : does (.iadd sat32 f0) (probeV [(2, 0x7FFFFFFF), (3, 1)]) 1 = 0x7FFFFFFF := by decide
theorem test_isub_n32_sat : does (.isub satN32 f0) (probeV [(2, 3), (3, 5)]) 1 = 0 := by decide
theorem test_logic : does (.iand {} f0) (probeV [(2, 0xF0), (3, 0x3C)]) 1 = 0x30 ∧ does (.ior {} f0) (probeV [(2, 0xF0), (3, 0x0F)]) 1 = 0xFF ∧
    does (.ixor {} f0) (probeV [(2, 0xFF), (3, 0x0F)]) 1 = 0xF0 := by decide
theorem test_imin_signed : does (.imin {} f0) (probeV [(2, 5), (3, 0xFFFFFFFD)]) 1 = 0xFFFFFFFD ∧
    does (.imin { x := some { ty := .n32 } } f0) (probeV [(2, 5), (3, 0xFFFFFFFD)]) 1 = 5 := by decide
theorem test_imax_packed : does (.imax { x := some { ty := .i8 } } f0) (probeV [(2, 0x7F800102), (3, 0x01010101)]) 1 = 0x7F010102 := by decide

/-- R148's examples. -/
theorem test_shifts : does (.shrl {} f0) (probeV [(2, 0x80000000), (3, 31)]) 1 = 1 ∧
    does (.shra {} f0) (probeV [(2, 0x80000000), (3, 40)]) 1 = 0xFFFFFFFF ∧ does (.rot {} f0) (probeV [(2, 0x80000001), (3, 1)]) 1 = 3 := by decide
theorem test_bfx : does (.bfx {} f0) (probeV [(2, 0xF00), (3, 0x408)]) 1 = 0xFFFFFFFF ∧
    does (.bfx { x := some { ty := .n32 } } f0) (probeV [(2, 0xF00), (3, 0x408)]) 1 = 0xF := by decide
theorem test_bfi : does (.bfi {} f0) (probeV [(2, 0xF), (3, 0x404)]) 1 = 0xF0 := by decide
theorem test_counts : does (.popc {} ⟨0, false, 1, 2, 0⟩) (probeV [(2, 0xF0F0)]) 1 = 8 ∧ does (.clz {} ⟨0, false, 1, 2, 0⟩) (probeV [(2, 1)]) 1 = 31 ∧
    does (.clz {} ⟨0, false, 1, 2, 0⟩) probe 1 = 32 := by decide

/-- R149's examples. -/
theorem test_imul_sat : does (.imul { x := some { ty := .i16, sat := true } } f0) (probeV [(2, 300), (3, 300)]) 1 = 32767 := by decide
theorem test_imulh : does (.imulh {} f0) (probeV [(2, 0x80000000), (3, 2)]) 1 = 0xFFFFFFFF ∧
    does (.imulh { x := some { ty := .n32 } } f0) (probeV [(2, 0x80000000), (3, 2)]) 1 = 1 := by decide
theorem test_imad : does (.imad {} f0) (probeV [(1, 5), (2, 3), (3, 4)]) 1 = 17 := by decide
theorem test_iaddc : let s := (probeV [(2, 0xFFFFFFFF)]).applyFx 1 0 0xFFFFFFFF fun _ => { p := [(1, true)] }
    let r := exec (.iaddc { x := some { cls := 1 } } f0) s
    seen r (fun t => t.rdV 1 0 0 1) = 0 ∧ seen r (fun t => (t.lane 1 0 0).preds.getLsbD 1) = true := by decide
theorem test_lea : does (.lea { x := some { cls := 4 } } f0) (probeV [(2, 0x1000), (3, 3)]) 1 = 0x1030 := by decide
theorem test_brev : does (.brev {} ⟨0, false, 1, 2, 0⟩) (probeV [(2, 1)]) 1 = 0x80000000 := by decide
theorem test_iabs : does (.iabs {} ⟨0, false, 1, 2, 0⟩) (probeV [(2, 0x80000000)]) 1 = 0x80000000 ∧
    does (.iabs sat32 ⟨0, false, 1, 2, 0⟩) (probeV [(2, 0x80000000)]) 1 = 0x7FFFFFFF := by decide
theorem test_ineg_n32 : does (.ineg { x := some { ty := .n32 } } ⟨0, false, 1, 2, 0⟩) (probeV [(2, 5)]) 1 = 0xFFFFFFFB ∧
    does (.ineg satN32 ⟨0, false, 1, 2, 0⟩) (probeV [(2, 5)]) 1 = 0 := by decide

/-- The four conversions of 08_lane_float_generators into one E4M3x4 word, each on what the one before has left, and the flags of the
first and of the third. -/
theorem test_cvt_e4m3 : ran [0x19FD, 0x04004949] (probeV [(1, 0x3F8C0000)]) 9 = 0x39 ∧
    ran [0x19FD, 0x04108949] (probeV [(2, 0x40000000), (9, 0x39)]) 9 = 0x4039 ∧
    ran [0x19FD, 0x0420C949] (probeV [(3, 0x7F800000), (9, 0x4039)]) 9 = 0x7E4039 ∧
    ran [0x19FD, 0x04310949] (probeV [(4, 0xC0000000), (9, 0x7E4039)]) 9 = 0xC07E4039 := by decide +kernel
theorem test_dot4 : ran [0x0420454D] (probeV [(1, 0x38383838), (2, 0x40404040), (5, 0x3F000000)]) 5 = 0x41080000 ∧
    seen (ranWords [0x0420454D] (probeV [(1, 0x38383838), (2, 0x40404040), (5, 0x3F000000)])) (fun t => (t.lane 1 0 0).fpstat) = 0 := by decide +kernel

/-- The moments of the worked example of 10_lane_moments: correlated and anticorrelated sums and products. -/
def probeMoments : State := probe.applyFx 1 0 0xFFFFFFFF fun _ =>
  { other := fun ln => { ln with m := [⟨0x40000000, 0x40800000⟩, ⟨0x40400000, 0x3F800000⟩] } }
def momentOf (ws : List (BitVec 32)) (r : Nat) : Moment := seen (ranWords ws probeMoments) fun t => rd (t.lane 1 0 0).m r
theorem test_madd : momentOf [0x00100269] 2 = ⟨0x40A00000, 0x40A00000⟩ ∧ momentOf [0x100001FD, 0x00100269] 2 = ⟨0x40A00000, 0x41100000⟩ := by
  decide +kernel
theorem test_mmul : momentOf [0x08100369] 3 = ⟨0x40C00000, 0x42300000⟩ ∧ momentOf [0x100001FD, 0x08100369] 3 = ⟨0x41000000, 0x42900000⟩ := by
  decide +kernel

/-- LD.B1.SX of a byte 0x80, and the placed word's first step: IADD writes v1 and the PC goes on by four bytes. -/
theorem test_ld_sx : let s := { probeV [(2, 0x10100)] with mem := Memory.setAll probe.mem [(0x10100, 0x80)] }
    does (.ld { x := some { cls := 9 } } ⟨0, false, 1, 2, 0⟩) s 1 = 0xFFFFFF80 := by decide +kernel
theorem test_step_movi : seen (step (State.reset.withFetchWord 32 (leNat ((encode (.movi {} ⟨0, false, 1, 0, 7⟩)).flatMap fun h => leBytes 2 h.toNat))))
    (fun t => (t.rdV 1 0 31 1, (t.lane 1 0 31).pc)) = (7, 0x10004) := by decide +kernel

/-- RGBA8 0x0000_00FF under BLEND.OVER with (0, 0, 1.0, 0.5) is 0x8080_0080 (23_commons); only lane 0 acts. -/
def probePixel : State :=
  { (probeV [(2, 0x10100), (6, 0x3F800000), (7, 0x3F000000)]) with mem := Memory.setAll probe.mem [(0x10100, 0xFF)], cur := some { probeCur with act := 1 } }
theorem test_blend_over : seen (exec (.blend { x := some { cls := 0x1C, scope := .device } } ⟨0, false, 0, 2, 4⟩) probePixel) (fun t => Memory.read t.mem 0x10100 4) =
    [0x80, 0x00, 0x80, 0x80] := by decide +kernel

end Steps
section Witnesses

/-- Every instruction of these statements is ready on the probe. -/
theorem witness_VectorIntegers : Ready probe (.iadd {} f0) probeCur probe ∧ Ready probe (.iaddW16 ⟨false, 1, 2⟩) probeCur probe ∧
    Mods.ty {} ∈ intTys := ⟨ready_of_ok (by decide), ready_of_ok (by decide), by decide⟩

theorem witness_ImmediatesAndSelect : Ready probe (.iaddi {} ⟨0, false, 1, 2, 5⟩) probeCur probe ∧
    Ready probe (.isel {} f0) probeCur probe := ⟨ready_of_ok (by decide), ready_of_ok (by decide)⟩

theorem witness_IntegerPredicates : Ready probe (.iset { x := some { cls := 5 } } f0) probeCur probe ∧
    Mods.clsField { x := some { cls := 5 } } 0 3 ≤ 5 ∧ Ready probe (.plop {} f0) probeCur probe ∧ Ready probe (.iaddc {} f0) probeCur probe :=
  ⟨ready_of_ok (by decide), by decide, ready_of_ok (by decide), ready_of_ok (by decide)⟩

theorem witness_UniformIntegers : Ready probe (.iaddU {} f0) probeCur probe ∧ Ready probe (.isetU {} f0) probeCur probe ∧
    Ready probe (.moviU {} ⟨0, false, 1, 0, 5⟩) probeCur probe ∧ Ready probe (.iaddcU {} f0) probeCur probe :=
  ⟨ready_of_ok (by decide), ready_of_ok (by decide), ready_of_ok (by decide), ready_of_ok (by decide)⟩

/-- The probe when lane 0 of its one path holds another copy of s2 and another v2 than the rest. -/
def probeApart : State := probe.applyFx 1 0 1 fun _ => { s := [(2, 7)], v := [(2, 4)] }

theorem witness_MovingAndMeeting : probe.team? probeCur.team ≠ none ∧
    (rd (({} : Group).mapLanes 1 fun _ l => { l with held := true }).lanes 0).held = true ∧
    (rd (probeApart.group 1 0).lanes 1).live = true ∧ inMask ((probeApart.group 1 0).path 1) 0 = true ∧ lowest ((probeApart.group 1 0).path 1) = 0 ∧
    (rd (probeApart.group 1 0).lanes 1).sDiffers (rd (probeApart.group 1 0).lanes 0) = true ∧
    (rd (probe.group 1 0).lanes 1).sDiffers (rd (probe.group 1 0).lanes 0) = false := by decide

theorem witness_BranchesAndCalls : Ready probe (.bra {} ⟨0, false, 4⟩) probeCur probe ∧ Ready probe (.call {} ⟨0, false, 4⟩) probeCur probe ∧
    Ready probe (.ret {} f0) probeCur probe ∧ Ready probe (.callx {} f0) probeCur probe ∧ Ready probe (.brx {} f0) probeCur probe ∧
    Ready probeApart (.ret {} f0) probeCur probeApart ∧ inMask (probeApart.guarded probeCur 0) 0 = true ∧
    inMask (probeApart.guarded probeCur 0) 1 = true ∧
    probeApart.codeBase 1 + BitVec.signExtend 56 (vreg probeApart probeCur 0 2) * 2 ≠
      probeApart.codeBase 1 + BitVec.signExtend 56 (vreg probeApart probeCur 1 2) * 2 :=
  ⟨ready_of_ok (by decide), ready_of_ok (by decide), ready_of_ok (by decide), ready_of_ok (by decide), ready_of_ok (by decide),
    ready_of_ok (by decide), by decide, by decide, by decide⟩

theorem witness_ExitsMeetsAndVotes : Ready probe (.exit {} f0) probeCur probe ∧ Ready probe (.vote {} f0) probeCur probe ∧
    (∀ l < 32, inMask probeCur.act l = true → (probe.group 1 0).path l = probeCur.act) ∧ probe.unblocked probeCur [] [] :=
  ⟨ready_of_ok (by decide), ready_of_ok (by decide), by decide, by unfold State.unblocked; decide⟩

theorem witness_Shuffle : Ready probe (.shfl { x := some { cls := 0x14 } } f0) probeCur probe ∧
    Mods.clsField { x := some { cls := 0x14 } } 2 3 ≤ 5 := ⟨ready_of_ok (by decide), by decide⟩

/-- A value of xfpctl at the last legal one and one past it; registers 12, 22 and 38 of the three kinds. -/
theorem witness_SpecialRegisters :
    Ready probe (.srd {} ⟨0, false, 1, 20, 0⟩) probeCur probe ∧
    Ready (probeV [(2, 16)]) (.swr {} ⟨0, false, 14, 2, 0⟩) probeCur (probeV [(2, 16)]) ∧
    inMask ((probeV [(2, 16)]).guarded probeCur 0) 31 = true ∧ (vreg (probeV [(2, 16)]) probeCur 31 2).toNat = 16 ∧
    Ready (probeV [(2, 11)]) (.swr {} ⟨0, false, 14, 2, 0⟩) probeCur (probeV [(2, 11)]) ∧
    (∀ l < 32, bits (vreg (probeV [(2, 11)]) probeCur l 2) 1 3 ≤ 5 ∧ (vreg (probeV [(2, 11)]) probeCur l 2).toNat < 16) ∧
    Ready probe (.swr {} ⟨0, false, 22, 2, 0⟩) probeCur probe ∧ Ready probe (.swr {} ⟨0, false, 38, 2, 0⟩) probeCur probe ∧
    probe.guarded probeCur 0 ≠ 0 ∧ probe.team? probeCur.team ≠ none :=
  ⟨ready_of_ok (by decide), ready_of_ok (by decide), by decide, by decide, ready_of_ok (by decide), by decide, ready_of_ok (by decide),
    ready_of_ok (by decide), by decide, by decide⟩

/-- A launch whose trap entry is 0x40 halfwords on, and the same group in trap state; the probe names no entry. -/
def probeTrap : State := probe.modLaunch 1 fun l => { l with lrec := { l.lrec with trape := 0x40 } }
def probeTrapped : State := probeTrap.modGroup 1 0 fun g => { g with trap := some { mask := 1, act := 3, next := 0x10002 } }

theorem witness_FaultEntersHandler : probeTrap.team? probeCur.team ≠ none ∧ (probeTrap.group 1 0).trap = none ∧
    (∀ h, (probeTrap.group 1 0).handler = some h → h.running = false) ∧ (probeTrap.launchOf 1).lrec.trape ≠ 0x80000000 :=
  ⟨by decide, by decide, noOne (by decide), by decide⟩

theorem witness_FaultsThatEndTheTeam : (probe.team? 1).isSome = true ∧ (probe.group 1 0).trap = none ∧
    (∀ h, (probe.group 1 0).handler = some h → h.running = false) ∧ (probe.launchOf 1).lrec.trape = 0x80000000 ∧
    (probeTrapped.team? 1).isSome = true ∧ (probeTrapped.group 1 0).trap ≠ none ∧
    (∀ h, (probeTrapped.group 1 0).handler = some h → h.running = false) :=
  ⟨by decide, by decide, noOne (by decide), by decide, by decide, by decide,
    noOne (by decide)⟩

theorem witness_ParkingFaultQueues : (probe.team? 1).map (fun t => t.vdev) = some 255 ∧ (probe.vdev? 255).isSome = true ∧
    (FaultInfo.cls { cls := 3, mask := 1 } = 3) ∧ (probe.group 1 0).trap = none ∧
    (∀ h, (probe.group 1 0).handler = some h → h.running = false) :=
  ⟨by decide, by decide, rfl, by decide, noOne (by decide)⟩

/-- The probe under an attached debugger. -/
def probeDebug : State := probe.modVdev 255 fun d => { d with debugger := true }
/-- The probe inside a running muster handler. -/
def probeHandler : State := probe.modGroup 1 0 fun g => { g with handler := some { (default : Handler) with running := true } }

theorem witness_SystemInstructionsAndReturn :
    Ready probe (.trap {} { f0 with d := 0, b := 0 }) probeCur probe ∧ probe.guarded probeCur 0 ≠ 0 ∧ probe.guarded probeCur 1 = 0 ∧
    Ready probe (.bkpt {} f0) probeCur probe ∧ (∀ d, probe.vdev? (probe.vdevOf 1) = some d → d.debugger = false) ∧
    Ready probeDebug (.bkpt {} f0) probeCur probeDebug ∧ (∃ d, probeDebug.vdev? (probeDebug.vdevOf 1) = some d ∧ d.debugger = true) ∧
    Ready probeHandler (.mdone {} f0) probeCur probeHandler ∧ (∃ h, (probeHandler.group 1 0).handler = some h ∧ h.running = true) ∧
    bits (probeHandler.rdS probeCur 2) 4 28 = 0 ∧ Ready probe (.mdone {} f0) probeCur probe ∧
    (∀ h, (probe.group 1 0).handler = some h → h.running = false ∨ bits (probe.rdS probeCur 2) 4 28 ≠ 0) ∧
    Ready probe (.invd {} f0) probeCur probe ∧ Mods.clsField { x := some { cls := 3 } } 0 3 = 3 ∧
    probe.unblocked probeCur (probe.fenceConds probeCur .device).1 (probe.fenceConds probeCur .device).2 ∧
    Ready probe (.tret {} f0) probeCur probe ∧ (probe.group 1 0).trap = none ∧
    Ready probeTrapped (.tret {} f0) probeCur probeTrapped ∧ (probeTrapped.group 1 0).trap = some { mask := 1, act := 3, next := 0x10002 } :=
  ⟨ready_of_ok (by decide), by decide, by decide, ready_of_ok (by decide),
    fun d e => by { rw [show probe.vdev? (probe.vdevOf 1) = some _ from rfl] at e; cases e; rfl },
    ready_of_ok (by decide), ⟨_, rfl, rfl⟩, ready_of_ok (by decide), ⟨_, rfl, rfl⟩, by decide, ready_of_ok (by decide),
    noOne (by decide), ready_of_ok (by decide), by decide, by unfold State.unblocked; decide, ready_of_ok (by decide), by decide,
    ready_of_ok (by decide), by decide⟩

theorem witness_FloatsComplete : Ready probe (.fadd {} f0) probeCur probe ∧ Ready probe (.faddW16 ⟨false, 1, 2⟩) probeCur probe ∧
    Ready probe (.cvt {} f0) probeCur probe ∧ Ready probe (.dot2 {} f0) probeCur probe ∧ Ready probe (.rcp {} f0) probeCur probe ∧
    Ready probe (.rcpa {} f0) probeCur probe ∧ Ready probe (.sincos {} { f0 with d := 62 }) probeCur probe ∧
    (RForm.at { f0 with d := 62 } {} probeCur.rep).d.toNat + 2 ≤ 64 :=
  ⟨ready_of_ok (by decide), ready_of_ok (by decide), ready_of_ok (by decide), ready_of_ok (by decide), ready_of_ok (by decide),
    ready_of_ok (by decide), ready_of_ok (by decide), by decide⟩

theorem witness_PackUnpackCompare : Ready probe (.pack { x := some { ty := .f16 } } { f0 with b := 1 }) probeCur probe ∧
    (1 : BitVec 6).toNat < (Mods.ty { x := some { ty := .f16 } }).count ∧ Ready probe (.unpk {} f0) probeCur probe ∧
    Ready probe (.fset { x := some { cls := 14 } } f0) probeCur probe ∧ Mods.clsField { x := some { cls := 14 } } 1 3 = 7 ∧
    Mods.ty { x := some { cls := 14 } } ∈ fpTys :=
  ⟨ready_of_ok (by decide), by decide, ready_of_ok (by decide), ready_of_ok (by decide), by decide, by decide⟩

/-- The floating-point environment of the probe's lane 0. -/
def fpEnvProbe : FpEnv := probe.fpEnv probeCur {} 0

/-- The largest finite F16 number, 65504, and operands of each special case. -/
theorem witness_RoundingAndSpecialCases : Ty.f16 ∈ floatTys ∧ widen (fmtOf .f16) 0x7BFF = .fin false 65504 1 ∧
    (fpEnvProbe.read .w32 0x7FC00000 0 = Val.nan) ∧ fpEnvProbe.read .w32 0x7F800000 0 = .inf false ∧
    fpEnvProbe.read .w32 0xFF800000 0 = .inf true ∧ (∃ q, fpEnvProbe.read .w32 0 0 = .fin false 0 q) ∧
    (∃ r, fpEnvProbe.read .w32 0x80000000 0 = .fin true 0 r) ∧ fpEnvProbe.mode ≠ .rs :=
  ⟨by decide, by decide, by decide, by decide, by decide, ⟨_, rfl⟩, ⟨_, rfl⟩, by decide⟩

theorem witness_GeneratorsComplete : Ready probe (.rngkey {} f0) probeCur probe ∧ Ready probe (.rngpos {} f0) probeCur probe ∧
    Mods.clsBit {} 1 = false ∧ Ready probe (.rngpos { x := some { cls := 2 } } f0) probeCur probe ∧
    Mods.clsBit { x := some { cls := 2 } } 1 = true ∧ Ready probe (.rng {} f0) probeCur probe ∧ Ready probe (.rngf {} f0) probeCur probe ∧
    Ready probe (.rngn {} f0) probeCur probe :=
  ⟨ready_of_ok (by decide), ready_of_ok (by decide), by decide, ready_of_ok (by decide), by decide, ready_of_ok (by decide),
    ready_of_ok (by decide), ready_of_ok (by decide)⟩

/-- The probe with a moment whose variance is −1 in m2. -/
def probeNeg : State := probe.applyFx 1 0 0xFFFFFFFF fun _ => { other := fun ln => { ln with m := wr ln.m 2 ⟨0, 0xBF800000⟩ } }

theorem witness_MomentInstructionsComplete : Ready probe (.madd {} f0) probeCur probe ∧
    (∀ l < 32, ∀ x ∈ readsAB probe probeCur (f0.at {} probeCur.rep) l, ¬ badVariance probe probeCur {} l x) ∧
    (∀ l < 32, vreg probe probeCur l (f0.at {} probeCur.rep).b = 0) ∧ Ready probeNeg (.mcol {} f0) probeCur probeNeg ∧
    Ready probeNeg (.madd {} f0) probeCur probeNeg ∧ badVariance probeNeg probeCur {} 0 (mreg probeNeg probeCur 0 2) ∧
    inMask (probeNeg.guarded probeCur 0) 0 = true ∧ Ready probe (.msamp {} f0) probeCur probe ∧ Ready probe (.mcol {} f0) probeCur probe ∧
    Ready probe (.mspl {} f0) probeCur probe ∧ Ready probe (.mspl { x := some { cls := 1 } } f0) probeCur probe ∧
    isNegVar (f32 (vreg probe probeCur 0 3).toNat) = false ∧ isNegVar (f32 (vreg (probeV [(3, 0xBF800000)]) probeCur 0 3).toNat) = true ∧
    Ready (probeV [(3, 0xBF800000)]) (.mspl { x := some { cls := 1 } } f0) probeCur (probeV [(3, 0xBF800000)]) :=
  ⟨ready_of_ok (by decide), by
    { have h : ∀ l < 32, mreg probe probeCur l 2 = ⟨0, 0⟩ ∧ mreg probe probeCur l 3 = ⟨0, 0⟩ := by decide
      have h0 : ∀ l < 32, ¬ badVariance probe probeCur {} l ⟨0, 0⟩ := by unfold badVariance; decide
      intro l hl x hx
      simp only [readsAB, List.mem_cons, List.not_mem_nil, or_false] at hx
      rcases hx with e | e
      · rw [e]; exact (h l hl).1 ▸ h0 l hl
      · rw [e]; exact (h l hl).2 ▸ h0 l hl },
    by decide, ready_of_ok (by decide), ready_of_ok (by decide), by { unfold badVariance; decide }, by decide, ready_of_ok (by decide), ready_of_ok (by decide),
    ready_of_ok (by decide), ready_of_ok (by decide), by decide, by decide, ready_of_ok (by decide)⟩

/-- The probe with a mapped address in v2 and v3. -/
def probeMem : State := probeV [(2, 0x10100)]

theorem reaches_probeMem (a : Access) (n : Nat) (hn : 0x10100 % n = 0) : Reaches probeMem probeCur a n 0x10100 0x10100 := by
  refine ⟨hn, ?_, by decide, by decide⟩
  cases a <;> decide

theorem witness_LoadsComplete : Ready probeMem (.ld { x := some { cls := 2 } } { f0 with b := 0 }) probeCur probeMem ∧
    isSize { x := some { cls := 2 } } ∧ probeMem.unblocked probeCur [] [] ∧
    (∀ l < 32, Reaches probeMem probeCur .read 4 (probeMem.address probeCur { x := some { cls := 2 } } { f0 with b := 0 } 4 l) 0x10100 ∧
      probeMem.owned (.mem (lineOf 0x10100)) = false ∧ viewable probeMem probeCur (lineOf 0x10100)) ∧
    Ready probeMem (.mld {} { f0 with b := 0 }) probeCur probeMem ∧
    (∀ l < 32, Reaches probeMem probeCur .read 8 (probeMem.address probeCur {} { f0 with b := 0 } 8 l) 0x10100) :=
  ⟨ready_of_ok (by decide), by unfold isSize; decide, by unfold State.unblocked; decide,
    by { intro l hl
         rw [show probeMem.address probeCur { x := some { cls := 2 } } { f0 with b := 0 } 4 l = 0x10100 from by
          revert l; decide]
         exact ⟨reaches_probeMem _ _ (by decide), by decide, .inr (by decide)⟩ },
    ready_of_ok (by decide), by
    { intro l hl
      rw [show probeMem.address probeCur {} { f0 with b := 0 } 8 l = 0x10100 from by revert l; decide]
      exact reaches_probeMem _ _ (by decide) }⟩

theorem witness_StoresCompleteAndAreSeen : Ready probeMem (.st { x := some { cls := 2 } } { f0 with b := 0 }) probeCur probeMem ∧
    isSize { x := some { cls := 2 } } ∧ probeMem.unblocked probeCur [] [] ∧
    (∀ l < 32, Reaches probeMem probeCur .write 4 (probeMem.address probeCur { x := some { cls := 2 } } { f0 with b := 0 } 4 l) 0x10100) ∧
    (lanesOf (probeMem.guarded probeCur 0)).filter (fun l => !(probeMem.lane 1 0 l).helper) ≠ [] ∧
    (lanesOf (probeMem.guarded probeCur 1)).filter (fun l => !(probeMem.lane 1 0 l).helper) = [] ∧
    (probeMem.group 1 0).sq.length < 32 ∧ Ready probeMem (.mst {} { f0 with b := 0 }) probeCur probeMem ∧
    (∀ l < 32, Reaches probeMem probeCur .write 8 (probeMem.address probeCur {} { f0 with b := 0 } 8 l) 0x10100) ∧
    probe.team? 1 ≠ none :=
  ⟨ready_of_ok (by decide), by unfold isSize; decide, by unfold State.unblocked; decide,
    by { intro l hl
         rw [show probeMem.address probeCur { x := some { cls := 2 } } { f0 with b := 0 } 4 l = 0x10100 from by revert l; decide]
         exact reaches_probeMem _ _ (by decide) },
    by decide, by decide, by decide, ready_of_ok (by decide),
    by { intro l hl
         rw [show probeMem.address probeCur {} { f0 with b := 0 } 8 l = 0x10100 from by revert l; decide]
         exact reaches_probeMem _ _ (by decide) },
    by decide⟩

/-- Offset 0, at the lower end of the carve-out. -/
theorem witness_ScratchpadComplete : Ready probe (.lds { x := some { cls := 2 } } { f0 with b := 0 }) probeCur probe ∧
    isSize { x := some { cls := 2 } } ∧ probe.unblocked probeCur [] [] ∧
    (∀ l < 32, ((vreg probe probeCur l 2).toNat : Int) + elemOff { x := some { cls := 2 } } 0 * 4 = 0) ∧ (0 : Int) < probe.carve 1 ∧
    (∀ k ∈ spKeys 1 0 4, probe.owned k = false) ∧ Ready probe (.sts { x := some { cls := 2 } } { f0 with b := 0 }) probeCur probe ∧
    (probe.group 1 0).sq.length < 32 ∧
    (lanesOf (probe.guarded probeCur 1)).filter (fun l => !(probe.lane 1 0 l).helper) = [] :=
  ⟨ready_of_ok (by decide), by unfold isSize; decide, by unfold State.unblocked; decide, by decide, by decide, by decide,
    ready_of_ok (by decide), by decide, by decide⟩

/-- An address past the canonical range, an unmapped page, a mapped page, and a misaligned address. -/
theorem witness_AddressesAndTheirFaults : (0x0080000000000000 : VAddr) ≠ BitVec.signExtend 64 ((0x0080000000000000 : VAddr).extractLsb' 0 56) ∧
    (∃ d, probe.vdev? 255 = some d ∧ d.page? (pageOf 0x20000) = none ∧ d.page? (pageOf 0x10000) = some (1, { r := true, w := true })) ∧
    probe.vdev? 0 = none ∧ physKind (0x10000) = .hbm ∧ physKind 0x00C000000000 = .reserved ∧
    (probe.pageOwner 1 = none ∨ probe.pageOwner 1 = some (.part 0)) ∧
    Ready (probeV [(2, 0x10102)]) (.ld { x := some { cls := 2 } } { f0 with b := 0 }) probeCur (probeV [(2, 0x10102)]) ∧
    inMask ((probeV [(2, 0x10102)]).guarded probeCur 0) 0 = true ∧
    ((probeV [(2, 0x10102)]).address probeCur { x := some { cls := 2 } } { f0 with b := 0 } 4 0).toNat % 4 ≠ 0 ∧
    Ready (probeV [(2, 0x10102)]) (.st { x := some { cls := 2 } } { f0 with b := 0 }) probeCur (probeV [(2, 0x10102)]) ∧
    ((probeV [(2, 0x10102)]).lane 1 0 0).helper = false :=
  ⟨by decide, ⟨_, rfl, by decide, by decide⟩, by decide, by decide, by decide, by decide, ready_of_ok (by decide), by decide, by decide,
    ready_of_ok (by decide), by decide⟩

/-- The edges of the window's parts (R14), and homes of HBM lines (R13, R360): granule 13 lies in stack 1, on die 0. -/
theorem test_window : winPart (winBase + 639 * 0x1000000 + 0x7FFFF) = some (.regs 639 0x7FFFF) ∧
    winPart (winBase + 639 * 0x1000000 + 0x80000) = none ∧ winPart (winBase + 0x12FFFF) = some (.closures 0 0x2FFFF) ∧
    winPart (winBase + 0x130000) = none ∧ winPart (winBase + 0x30FFFF) = some (.twins 0 0xFFFF) ∧ winPart (winBase + 0x310000) = none ∧
    winPart (winBase + 0x400000000 + 159 * 0x400000 + 31 * 65536 + 65535) = some (.tile 159 31 65535) ∧
    winPart (winBase + 0x400000000 + 159 * 0x400000 + 32 * 65536) = none ∧ physKind winBase = .window ∧
    homeSlice (13 * 4096 / 128) / 64 = 0 ∧ homeSlice (11 * 4096 / 128) / 64 = 3 := by
  refine ⟨by decide +kernel, by decide +kernel, by decide +kernel, by decide +kernel, by decide +kernel, by decide +kernel,
    by decide +kernel, by decide +kernel, by decide, ?_, ?_⟩ <;> simp [homeSlice, dieOfStack, stackOf] <;> omega

theorem witness_AtomicSteps : (probe.launchOf 1).lrec.det = false ∧ probe.regionOf (lineOf 0x10100) = none ∧
    probe.packedOver (lineOf 0x10100) = [] ∧ probe.Inv ∧ (0x80000000 : Nat) < 2 ^ (8 * 4) ∧ (0x80000000 : Nat) < 2 ^ (8 * 8) :=
  ⟨by decide, by decide, by decide, by unfold State.Inv; decide, by decide, by decide⟩

theorem witness_AtomicsComplete : probeMem.unblocked probeCur [] [] ∧ Ready probeMem (.atomAdd {} f0) probeCur probeMem ∧
    Ready probeMem (.cas {} f0) probeCur probeMem ∧ Ready probeMem (.red {} { f0 with d := 0 }) probeCur probeMem ∧
    (probeMem.group 1 0).sq = [] ∧ probeMem.allHold 1 0 0xFFFFFFFF (releaseConds .device) = true ∧
    (∀ l < 32, Reaches probeMem probeCur .rmw 4 (probeMem.pairV probeCur l 2) 0x10100) ∧
    probeMem.owned (.mem (lineOf 0x10100)) = false ∧ ((probeMem.core (probeMem.coreOf 1)).line (lineOf 0x10100)).pend = [] ∧
    (lanesOf (probeMem.guarded probeCur 0)).filter (fun l => !(probeMem.lane 1 0 l).helper) ≠ [] ∧
    (lanesOf (probeMem.guarded probeCur 1)).filter (fun l => !(probeMem.lane 1 0 l).helper) = [] :=
  ⟨by unfold State.unblocked; decide, ready_of_ok (by decide), ready_of_ok (by decide), ready_of_ok (by decide), by decide, by decide,
    by { intro l hl
         rw [show probeMem.pairV probeCur l 2 = 0x10100 from by revert l; decide]
         exact reaches_probeMem _ _ (by decide) },
    by decide, by decide, by decide, by decide⟩

theorem witness_FencesComplete : Ready probe (.fence { x := some { scope := .system } } f0) probeCur probe ∧ (probe.group 1 0).sq = [] ∧
    probe.unblocked probeCur [] [.storesGone (probe.core 0).pendIds.eraseDups, .fabricDone (probe.fabIds 1 0)] ∧
    Ready probe (.xfence {} { f0 with a := 5, b := 0 }) probeCur probe ∧ Domain.ofCode (5 : BitVec 6).toNat = some .shp ∧
    probe.unblocked probeCur (probe.domainConds probeCur .shp .device).1 (probe.domainConds probeCur .shp .device).2 :=
  ⟨ready_of_ok (by decide), by decide, by unfold State.unblocked; decide, ready_of_ok (by decide), by decide,
    by unfold State.unblocked; decide⟩

/-- The probe when its splinter holds only helper lanes. -/
def probeHelp : State := probe.applyFx 1 0 0xFFFFFFFF fun _ => { other := fun ln => { ln with helper := true } }

theorem witness_HurdlesComplete : Ready probe (.harv {} f0) probeCur probe ∧ probe.onlyHelpers probeCur = false ∧
    (probe.rdS probeCur 2).toNat % 16 = 0 ∧ (probe.rdS probeCur 2).toNat + 16 ≤ probe.carve 1 ∧ probe.Inv ∧
    (probe.team? 1).map (fun t => Memory.wf t.sp) = some true ∧ (∀ x ∈ spKeys 1 0 16, probe.owned x = false) ∧
    probe.unblocked probeCur (.sqEmpty :: releaseConds .team) [] ∧
    Ready probeHelp (.hinit {} f0) probeCur probeHelp ∧ probeHelp.onlyHelpers probeCur = true ∧
    (∀ j < 32, inMask probeCur.act j = false → (probe.lane 1 0 j).present = false) :=
  ⟨ready_of_ok (by decide), by decide, by decide, by decide, by unfold State.Inv; decide, by decide, by decide,
    by unfold State.unblocked; decide, ready_of_ok (by decide), by decide, by decide⟩

/-- The probe with 4 tags declared of which tag 3 is set, and masks of the tags 3, 2 and 4 in uniform registers. -/
def probeTags : State := ((probeS [(2, 8), (4, 4), (6, 16), (8, 3), (10, 64), (12, 1)]).modLaunch 1
  fun l => { l with lrec := { l.lrec with tags := 4 } }).modTeam 1 fun t => { t with tags := 8 }

/-- Of the hurdle at 0 the phase is 0: sB = 1 leaves and sB = 0 stays. Masks of a set tag, of one that is not set, of one not declared. -/
theorem witness_WaitsAndTagReadsComplete :
    Ready probeTags (.hwait {} { f0 with a := 16, b := 12 }) probeCur probeTags ∧ probeTags.onlyHelpers probeCur = false ∧
    (probeTags.rdS probeCur 16).toNat + 16 ≤ probeTags.carve 1 ∧ (probeTags.team? 1).map (fun t => t.efaults) = some [] ∧
    (∀ x ∈ spKeys 1 0 16, probeTags.owned x = false) ∧
    (probeTags.team? 1).map (fun t => ((t.hurdle 0).ph, (probeTags.rdS probeCur 12).getLsbD 0, (probeTags.rdS probeCur 18).getLsbD 0)) =
      some (false, true, false) ∧
    probeTags.unblocked probeCur [] [] ∧ Ready probeTags (.tagw {} { f0 with b := 0 }) probeCur probeTags ∧
    (probeTags.launchOf 1).lrec.tags = 4 ∧ (probeTags.pairS probeCur 2).toNat = 8 ∧ (probeTags.pairS probeCur 4).toNat = 4 ∧
    (probeTags.pairS probeCur 6).toNat = 16 ∧ (probeTags.team? 1).map (fun t => t.tags) = some 8 ∧
    Ready probeTags (.mwait {} { f0 with a := 8 }) probeCur probeTags ∧ (probeTags.rdS probeCur 8).toNat = 3 ∧
    (probeTags.rdS probeCur 10).toNat = 64 ∧ Ready probeTags (.tagf {} f0) probeCur probeTags ∧ Ready probeTags (.tagc {} f0) probeCur probeTags ∧
    Ready probeHelp (.tagw {} f0) probeCur probeHelp ∧ probeHelp.onlyHelpers probeCur = true ∧
    Ready probeTags (.mwait {} { f0 with a := 12 }) probeCur probeTags ∧
    (probeTags.team? 1).map (fun t => t.tags.getLsbD (probeTags.rdS probeCur 12).toNat) = some false :=
  ⟨ready_of_ok (by decide), by decide, by decide, by decide, by decide, by decide, by unfold State.unblocked; decide,
    ready_of_ok (by decide), by decide, by decide, by decide, by decide, by decide, ready_of_ok (by decide), by decide, by decide,
    ready_of_ok (by decide), ready_of_ok (by decide), ready_of_ok (by decide), by decide, ready_of_ok (by decide), by decide⟩

theorem witness_TagAndHurdleCounts : (63 : Nat) < 64 := by decide

/-- The probe with the operands of a scratchpad-to-scratchpad copy of 16 bytes with tag 0, of a gather of one row of 16 bytes, of a push
of a register to team (0, 0, 0), and of a remote put of no bytes through window 0. -/
def probeCopy : State := (probeS [(1, 256), (3, 16), (4, 0x40), (8, 512), (10, 0x10000), (12, 64), (13, 0x100001), (15, 0x40),
  (29, 0x40)]).modVdev 255 fun d => { d with wins := [{ handle := 0, body := .importWin 7 9 }] }

def copyX : Mods := { x := some { scope := .device, cls := 3 } }

/-- The operand words of COPY with the registers of f0. -/
def copyOps (s : State) : List Word :=
  [s.rdS probeCur f0.d.toNat, s.rdS probeCur (f0.d.toNat + 1), s.rdS probeCur f0.a.toNat, s.rdS probeCur (f0.a.toNat + 1), s.rdS probeCur f0.b.toNat]

theorem witness_CopiesComplete :
    Ready probeCopy (.copy copyX f0) probeCur probeCopy ∧
    (probeCopy.copySlice 1 3 (copyOps probeCopy) (probeCopy.rdS probeCur (f0.b.toNat + 1))).fails = [] ∧
    (probeCopy.copySlice 1 3 (copyOps probeCopy) (probeCopy.rdS probeCur (f0.b.toNat + 1))).bytes = 16 ∧ (probeCopy.team? 1).map (fun t => t.copyRecs) = some [] ∧
    probeCopy.unblocked probeCur ([.recordRoom false] ++ [.copyRoom] ++ (probeCopy.postConds probeCur copyX .device).1)
      (probeCopy.postConds probeCur copyX .device).2 ∧
    Ready probeHelp (.copyt {} f0) probeCur probeHelp ∧ probeHelp.onlyHelpers probeCur = true ∧
    Ready probeCopy (.gath {} ⟨0, false, 8, 10, 12⟩) probeCur probeCopy ∧ bits (probeCopy.rdS probeCur 13) 0 16 = 1 ∧
    cwFaults (probeCopy.rdS probeCur 15) (probeCopy.launchOf 1).lrec.tags (probeCopy.carve 1) = [] ∧
    64 + 4 * 1 ≤ probeCopy.carve 1 ∧ 512 + 16 ≤ probeCopy.carve 1 ∧ (∀ k ∈ spKeys 1 64 4, probeCopy.owned k = false) ∧
    (probeCopy.memPieces (probeCopy.vdevOf 1) (probeCopy.pairS probeCur 10) 16 .read kindOperand).2 = [] ∧
    probeCopy.unblocked probeCur (.copyRoom :: (probeCopy.postConds probeCur {} .device).1) (probeCopy.postConds probeCur {} .device).2 ∧
    Ready probeCopy (.pushw {} ⟨0, false, 16, 20, 29⟩) probeCur probeCopy ∧ (probeCopy.rdS probeCur 16).toNat < (probeCopy.launchOf 1).lrec.gx ∧
    ((probeCopy.launchOf 1).lrec.budget ((probeCopy.launchOf 1).lrec.roles.getLsbD 0)).1 = 64 ∧
    Ready probeCopy (.crem {} ⟨0, false, 16, 10, 28⟩) probeCur probeCopy ∧
    (probeCopy.vdev? (probeCopy.vdevOf 1)).map (fun d => d.wins) = some [{ handle := 0, body := .importWin 7 9 }] ∧
    0 + 0 ≤ Config.windowUnits 7 9 * 65536 ∧
    (probeCopy.memPieces (probeCopy.vdevOf 1) (probeCopy.pairS probeCur 10) 0 .read kindOperand).2 = [] ∧
    probeCopy.unblocked probeCur (.copyRoom :: (probeCopy.postConds probeCur {} .system).1) (probeCopy.postConds probeCur {} .system).2 :=
  ⟨ready_of_ok (by decide), by decide, by decide, by decide, by unfold State.unblocked; decide, ready_of_ok (by decide), by decide,
    ready_of_ok (by decide), by decide, by decide, by decide, by decide, by decide, by decide, by unfold State.unblocked; decide,
    ready_of_ok (by decide), by decide, by decide, ready_of_ok (by decide), by decide, Nat.zero_le _, by decide,
    by unfold State.unblocked; decide⟩

/-- The probe with a mapped address in s2 and s3 and the operands of a store of one row of a tile in s4 to s7. -/
def probeBlock : State := probeS [(2, 0x10100), (4, 0x10200)]

/-- What the view gives of that address: 64 bytes of zeros, a block of no rows. -/
def probeBlock2 : State := probeBlock.loadPrep 1 false [lineOf 0x10100]
def probeWords : List Word := wordsOf 16 ((List.range 64).map fun o => probeBlock2.loadByte 1 0 (lowest 0xFFFFFFFF) false (0x10100 + o))

theorem test_probeWords : probeWords = List.replicate 16 0 := by decide +kernel

theorem test_block : ∀ fn ∈ [0, 1], blockBad fn (List.replicate 16 0) 64 = false ∧ blockMisaligned fn (List.replicate 16 0) = none := by
  decide +kernel

theorem witness_MatrixRequestsComplete : (Instr.mma, 0) ∈ [(Instr.mma, 0), (.mmas, 2), (.mmam, 3)] ∧
    Ready probeBlock (.mma {} f0) probeCur probeBlock ∧ Ready probeBlock (.mmat {} f0) probeCur probeBlock ∧
    (∀ fn ∈ [0, 1], BlockReads probeBlock probeCur (probeBlock.bellwether probeCur 0) fn (probeBlock.pairS probeCur 2) 0x10100 probeBlock2 probeWords) ∧
    probeBlock.storing probeCur 0 ≠ [] ∧ probeBlock.storing probeCur 1 = [] ∧
    probeBlock.unblocked probeCur (.tableRoom :: (probeBlock.postConds probeCur {} .device).1) (probeBlock.postConds probeCur {} .device).2 ∧
    (probeBlock.team? 1).map (fun t => t.matRecs) = some [] ∧
    probeBlock.unblocked probeCur ([.recordRoom true] ++ [.tableRoom] ++ (probeBlock.postConds probeCur {} .device).1)
      (probeBlock.postConds probeCur {} .device).2 :=
  ⟨by simp, ready_of_ok (by decide), ready_of_ok (by decide),
    by { intro fn hfn
         refine ⟨⟨by decide, by decide, by decide, by decide⟩, by decide, .inr (by decide), by unfold State.unblocked; decide, rfl,
           rfl, by rw [test_probeWords]; exact (test_block fn hfn).1, by rw [test_probeWords]; exact (test_block fn hfn).2⟩ },
    by decide, by decide, by unfold State.unblocked; decide, by decide, by unfold State.unblocked; decide⟩

theorem witness_AccumulatorsAndTilesComplete : Ready probeBlock (.acrd {} ⟨0, false, 60, 3, 8⟩) probeCur probeBlock ∧
    rowWordBad (probeBlock.rdS probeCur 8) = false ∧ 60 + bits (probeBlock.rdS probeCur 8) 16 4 + 1 ≤ min (probeBlock.budget 1 0).1 64 ∧
    (probeBlock.team? 1).map (fun t => t.twins) = some [] ∧ probeBlock.unblocked probeCur [.tileFree [3]] [] ∧
    Ready probeBlock (.acwr {} ⟨0, false, 3, 60, 8⟩) probeCur probeBlock ∧
    Ready probeBlock (.acst {} ⟨0, false, 0, 3, 4⟩) probeCur probeBlock ∧ probeBlock.onlyHelpers probeCur = false ∧
    (probeBlock.memPieces (probeBlock.vdevOf 1) (probeBlock.pairS probeCur 4 + 0) 4 .write kindEngWrite).2 = [] ∧
    (probeBlock.pairS probeCur 4).toNat % 4 = 0 ∧ probeBlock.rdS probeCur 7 = 0 ∧ 0 < (probeBlock.launchOf 1).lrec.tags ∧
    probeBlock.unblocked probeCur [.tableRoom] [] ∧ Ready probeBlock (.acz {} ⟨0, false, 3, 0, 0⟩) probeCur probeBlock ∧
    Ready probeBlock (.acrel {} ⟨0, false, 3, 0, 0⟩) probeCur probeBlock ∧ Ready probeHelp (.acst {} f0) probeCur probeHelp ∧
    probeHelp.onlyHelpers probeCur = true ∧ (∀ h ∈ probeBlock.tiles, ¬ (h.team = 1 ∧ h.tile = 3)) ∧
    (∀ h, probeBlock.tile? 0 3 = some h → h.team ≠ 1) :=
  ⟨ready_of_ok (by decide), by decide, by decide, by decide, by unfold State.unblocked; decide, ready_of_ok (by decide),
    ready_of_ok (by decide), by decide, by decide, by decide, by decide, by decide, by unfold State.unblocked; decide,
    ready_of_ok (by decide), ready_of_ok (by decide), ready_of_ok (by decide), by decide, by decide, noOne (by decide)⟩

/-- A closure of 15 detached MATT lobes. -/
def fullX : Nat := (List.range 15).foldl (fun x _ => clobeOf false x 3 0xF0000) (15 * 2 ^ 68)

/-- The probe with a full closure in c1. -/
def probeFull : State := probe.applyFx 1 0 0xFFFFFFFF fun _ => putC 1 fullX

theorem test_fullX : fullClosure fullX = true := by decide +kernel

theorem witness_ClosureBuildsComplete : Ready probe (.cclr {} f0) probeCur probe ∧ Ready probe (.cfrm {} f0) probeCur probe ∧
    Ready probe (.clobe {} f0) probeCur probe ∧ (∀ l < 32, fullClosure (probe.rdC probeCur l 1) = false) ∧
    Ready probe (.cmix {} f0) probeCur probe ∧ Ready probe (.clay {} f0) probeCur probe ∧ probe.unblocked probeCur [] [] ∧
    probe.placeAll (probe.vdevOf 1) (refReqs []) .read 1 kindOperand false = .ok ([], []) ∧
    (∀ l < 32, clayOf (probe.rdC probeCur l 1) 0 0 0 0 0 0 = none) ∧
    Ready probeFull (.clobe {} f0) probeCur probeFull ∧ fullClosure (probeFull.rdC probeCur 0 1) = true ∧
    inMask (probeFull.guarded probeCur 0) 0 = true ∧
    Ready probe (.cnet {} f0) probeCur probe ∧ (probe.pairV probeCur 0 2).toNat % 256 = 0 ∧ canonical (probe.pairV probeCur 0 2) = true :=
  ⟨ready_of_ok (by decide), ready_of_ok (by decide), ready_of_ok (by decide), by decide +kernel, ready_of_ok (by decide), ready_of_ok (by decide),
    by unfold State.unblocked; decide, rfl, by decide +kernel, ready_of_ok (by decide +kernel), by decide +kernel, by decide +kernel,
    ready_of_ok (by decide), by decide, by decide⟩

/-- The probe with a query in flight that will write v1. -/
def probeFlight : State := { seen (exec (.cpdf {} f0) probe) id with cur := some probeCur }

theorem witness_QueriesComplete : (2, 6, 1, Instr.cpdf) ∈ queries ∧ Ready probe (.cpdf {} f0) probeCur probe ∧
    (∀ l < 32, queryRefs 2 (probe.rdVs 1 0 l 2 6) (probe.rdC probeCur l 3) = []) ∧
    probe.placeAll (probe.vdevOf 1) (refReqs []) .read 1 kindOperand false = .ok ([], []) ∧ probe.guarded probeCur 0 ≠ 0 ∧
    probe.guarded probeCur 1 = 0 ∧ (∃ fl, probeFlight.flights = [fl] ∧ fl.vis = false ∧ probeFlight.flightRefs fl = []) ∧
    probeFlight.cur = some probeCur ∧ probeFlight.team? 1 ≠ none ∧ (Instr.mov {} { f0 with a := 1 }).inBudget (probeFlight.budget 1 0) = true ∧
    probeFlight.pendingOn probeCur (.mov {} { f0 with a := 1 }) ≠ [] :=
  ⟨by simp [queries], ready_of_ok (by decide), by decide +kernel, rfl, by decide, by decide, ⟨_, rfl, rfl, by decide +kernel⟩, by decide +kernel,
    by decide +kernel, by decide +kernel, by decide +kernel⟩

/-- What a request gives when every lane reaches memory. -/
def placed (r : Except FaultInfo (List Placed × List Nat)) : List Placed := match r with | .ok p => p.1 | .error _ => []

theorem placed_ok {r : Except FaultInfo (List Placed × List Nat)} (h : (match r with | .ok p => p.2.isEmpty | .error _ => false) = true) :
    r = .ok (placed r, []) := by
  cases r with
  | error e => simp at h
  | ok p => obtain ⟨a, b⟩ := p; simp at h; simp [placed, h]

/-- Requests of all lanes at the probe's mapped address. -/
def probeReqs (size : Nat) : List Req := (lanesOf 0xFFFFFFFF).map fun l => ⟨l, 0x10100, size⟩

theorem witness_ClosureMemoryComplete :
    Ready probeMem (.cspl {} { f0 with b := 0 }) probeCur probeMem ∧
    (∀ l < 32, probeMem.address probeCur {} { f0 with b := 0 } 256 l = 0x10100) ∧
    (∃ ps, probeMem.placeAll (probeMem.vdevOf 1) (probeReqs 256) .write 128 kindWrite false = .ok (ps, [])) ∧
    probeMem.unblocked probeCur [] [] ∧ (probeMem.group 1 0).sq.length + 16 ≤ 32 ∧ probeMem.storing probeCur 0 ≠ [] ∧
    probeMem.storing probeCur 1 = [] ∧ Ready probeMem (.cfil {} { f0 with b := 0 }) probeCur probeMem ∧
    (∃ ps, probeMem.placeAll (probeMem.vdevOf 1) (probeReqs 256) .read 128 kindRead false = .ok (ps, []) ∧
      probeMem.unblocked probeCur (probeMem.loadConds 1 0 false ps) []) ∧
    Ready probeMem (.ldt { x := some { cls := 2 } } { f0 with b := 0 }) probeCur probeMem ∧
    (∃ ps, probeMem.placeAll (probeMem.vdevOf 1) (probeReqs 4) .read 4 kindOperand false = .ok (ps, []) ∧
      probeMem.unblocked probeCur [.unowned (((linesOf ps).filter fun x => (probeMem.lc? 0 x).isNone).map LineKey.mem)] []) ∧
    Ready probe (.cfence {} f0) probeCur probe ∧ probe.onlyHelpers probeCur = false ∧ scopeWide (Mods.scopeD {} .device) = true ∧
    probe.unblocked probeCur [.unowned (((probe.core 0).cv.filter fun l => !l.pend.isEmpty).map fun l => LineKey.mem l.line)] [] ∧
    Ready probeHelp (.cfence {} f0) probeCur probeHelp ∧ probeHelp.onlyHelpers probeCur = true :=
  ⟨ready_of_ok (by decide), by decide, ⟨_, placed_ok (by decide +kernel)⟩, by unfold State.unblocked; decide, by decide, by decide, by decide,
    ready_of_ok (by decide), ⟨_, placed_ok (by decide +kernel), by unfold State.unblocked; decide +kernel⟩, ready_of_ok (by decide),
    ⟨_, placed_ok (by decide +kernel), by unfold State.unblocked; decide +kernel⟩, ready_of_ok (by decide), by decide, by decide,
    by unfold State.unblocked; decide, ready_of_ok (by decide), by decide⟩

/-- The probe with a ray from the origin along z with tmax 1 in v8 to v15. -/
def probeRay : State := probeV [(14, 0x3F800000), (15, 0x3F800000)]

/-- The probe with a ray whose origin is a NaN: it misses without a read. -/
def probeNaN : State := probeV [(8, 0x7FC00000)]

theorem witness_TraversalsComplete :
    (∃ land, Traverses probeRay probeCur (.trace {} ⟨0, false, 16, 8, 3⟩) ⟨0, false, 16, 8, 3⟩ 6
      (probeRay.newQuery probeCur {} ⟨0, false, 16, 8, 3⟩) land ∧ land 0 = none) ∧
    (∃ land, Traverses probeNaN probeCur (.trace {} ⟨0, false, 16, 8, 3⟩) ⟨0, false, 16, 8, 3⟩ 6
      (probeNaN.newQuery probeCur {} ⟨0, false, 16, 8, 3⟩) land ∧ ∀ l < 32, land l ≠ none) ∧
    Ready probeRay (.trace {} ⟨0, false, 16, 8, 3⟩) probeCur probeRay ∧ Ready probeNaN (.trace {} ⟨0, false, 16, 8, 3⟩) probeCur probeNaN ∧
    Ready probe (.tstep {} f0) probeCur probe ∧ Ready probe (.hitget {} f0) probeCur probe ∧
    Ready probe (.trace { x := some { cls := 1 } } ⟨0, false, 0, 8, 3⟩) probeCur probe ∧ Mods.clsBit { x := some { cls := 1 } } 0 = true ∧
    (probe.rdS probeCur 5).toNat < 256 ∧ (probe.pairS probeCur 3).toNat % 128 = 0 ∧ canonical (probe.pairS probeCur 3) = true ∧
    Ready probe (.hitacc {} f0) probeCur probe ∧ Ready probe (.resid {} f0) probeCur probe ∧ probe.onlyHelpers probeCur = false ∧
    (probe.vdev? (probe.vdevOf 1)).isSome = true ∧ Ready probeHelp (.resid {} f0) probeCur probeHelp ∧ probeHelp.onlyHelpers probeCur = true :=
  ⟨⟨_, .trace _ _ (by decide) (by decide) (fun l _ _ => ⟨by decide, by decide⟩), by decide +kernel⟩,
    ⟨_, .trace _ _ (by decide) (by decide) (fun l _ _ => ⟨by decide, by decide⟩), by decide +kernel⟩,
    ready_of_ok (by decide), ready_of_ok (by decide), ready_of_ok (by decide), ready_of_ok (by decide), ready_of_ok (by decide), by decide,
    by decide, by decide, by decide, ready_of_ok (by decide), ready_of_ok (by decide), by decide, by decide, ready_of_ok (by decide), by decide⟩

/-- The probe with the triangle (0, 0), (10, 0), (0, 10) in s2 to s13 and one sample for a pixel. -/
def probeTri : State := (probeS [(5, 0x3F800000), (6, 0x41200000), (9, 0x3F800000), (11, 0x41200000), (13, 0x3F800000)]).modLaunch 1
  fun l => { l with lrec := { l.lrec with spat := 1, w := 16, h := 16 } }

theorem witness_RasterComplete : Ready probe (.rast {} ⟨0, false, 8, 2, 20⟩) probeCur probe ∧ (probe.launchOf 1).lrec.spat = 0 ∧
    Ready probeTri (.rast {} ⟨0, false, 8, 2, 20⟩) probeCur probeTri ∧ (probeTri.launchOf 1).lrec.spat ≠ 0 ∧
    probeTri.onlyHelpers probeCur = false ∧ (∃ tri, triOf ((List.range 12).map fun k => probeTri.rdS probeCur (2 + k)) = some tri) ∧
    (probeTri.rdS probeCur 20).toNat ≠ 0xFFFFFFFF ∧ triOf ((List.range 12).map fun k => probeTri.rdS probeCur (20 + k)) = none ∧
    Ready probe (.qdiff {} f0) probeCur probe :=
  ⟨ready_of_ok (by decide), by decide, ready_of_ok (by decide), by decide, by decide, Option.isSome_iff_exists.mp (by decide +kernel),
    by decide, by decide +kernel, ready_of_ok (by decide)⟩

/-- The probe with empty fold, pen and board tables at 0x10400, a fold entry for key 0 at 0x10100, a pen entry 0 of 4 bytes for each
record and a board entry 0 of one tile, and with the address in v2 and in s2. -/
def probeTables : State :=
  let s := (probe.applyFx 1 0 0xFFFFFFFF fun _ => { v := [(2, 0x10100)], s := [(2, 0x10100)] }).modLaunch 1 fun l =>
    { l with lrec := { l.lrec with foldt := 0x10400, pent := 0x10800, boardt := 0x10C00 } }
  { s with mem := Memory.setAll s.mem [(0x1010C, 0x84), (0x10804, 3), (0x10805, 0x81), (0x10C08, 1), (0x10C0C, 1)] }

/-- The probe with an entry in force for key 0, which every lane's v2 holds. -/
def probeHit : State := (probeTables.modLaunch 1 fun l => { l with lrec := { l.lrec with foldt := 0x10100 } }).applyFx 1 0 0xFFFFFFFF fun _ =>
  { v := [(2, 0)] }

theorem witness_FoldsComplete : Ready probeHit (.fold {} f0) probeCur probeHit ∧ (probeHit.launchOf 1).lrec.foldt ≠ 0 ∧
    probeHit.unblocked probeCur (.sqEmpty :: probeHit.foldFree (probeHit.keyOf 1) ++ releaseConds .device) [] ∧
    (foldHit (probeHit.useFolds (probeHit.keyOf 1)).2.1 (probeHit.rdV 1 0 0 2)).map (fun x => (x.1, x.2.regs.all fun r => decide (r < 64))) =
      some (0, true) ∧ probeHit.budget 1 0 = (64, 16, 4) ∧
    Ready probeTables (.fold {} f0) probeCur probeTables ∧ (probeTables.launchOf 1).lrec.foldt ≠ 0 ∧
    probeTables.unblocked probeCur (.sqEmpty :: probeTables.foldFree (probeTables.keyOf 1) ++ releaseConds .device) [] ∧
    (∀ l < 32, foldHit (probeTables.useFolds (probeTables.keyOf 1)).2.1 (probeTables.rdV 1 0 l 2) = none) ∧
    Ready probeTables (.folddef {} f0) probeCur probeTables ∧ (probeTables.rdS probeCur 3).toNat < 16 ∧ probeTables.onlyHelpers probeCur = false ∧
    Mods.clsBit { x := some { cls := 1 } } 0 = true ∧ probeTables.unblocked probeCur (probeTables.foldFree (probeTables.keyOf 1)) [] ∧
    (∃ p, probeTables.placeAll (probeTables.vdevOf 1) [⟨0, 0x10100, 64⟩] .read 64 kindRead false = .ok ([p], []) ∧
      probeTables.unblocked probeCur (probeTables.loadConds 1 0 false [p] ++ probeTables.foldFree (probeTables.keyOf 1)) []) ∧
    (foldEntry (probeTables.launchOf 1).lrec.foldBudget (Memory.read probeTables.mem 0x10100 64)).v = true ∧
    (foldEntry (probeTables.launchOf 1).lrec.foldBudget (Memory.read probeTables.mem 0x10100 64)).ok = true ∧
    (∀ j < 16, (probeTables.useFolds (probeTables.keyOf 1)).2.1 j = none) ∧
    Ready probeTables (.foldf {} { f0 with a := 3 }) probeCur probeTables ∧ (∃ l, probeTables.launch? 1 = some l ∧
      probeTables.foldUse (probeTables.binHome l 0 0) + foldBytes default ≤ 65536) :=
  ⟨ready_of_ok (by decide), by decide, by unfold State.unblocked; decide, by decide +kernel, by decide,
    ready_of_ok (by decide), by decide, by unfold State.unblocked; decide, by decide +kernel, ready_of_ok (by decide), by decide, by decide,
    by decide, by unfold State.unblocked; decide +kernel,
    ⟨_, rfl, by unfold State.unblocked; decide +kernel⟩, by decide +kernel, by decide +kernel, by decide +kernel, ready_of_ok (by decide),
    ⟨_, rfl, by decide +kernel⟩⟩

/-- The device of the probe with a second page at a reserved physical range, in which the fold table and pen 0's overflow area lie; pen 0 holds a
record of tile 0 there, which the board's subscription 0 keeps in latest mode. -/
def probeBarred : State :=
  let s := probeTables.modVdev 255 fun d => { d with cfg := { d.cfg with maps :=
    d.cfg.maps ++ [{ vpage := 2, ppage := 0xC00000, units := 1, perm := { r := true, w := true }, valid := true }] } }
  let s1 := s.modLaunch 1 fun l => { l with lrec := { l.lrec with foldt := 0x20000 }, pens := [[{ data := [0], src := some (0, 0, 0), ovf := some 0 }]] }
  { s1 with mem := Memory.setAll s1.mem [(0x1080C, 64), (0x10812, 2), (0x10C10, 0x90)] }

theorem witness_FoldsComplete_areas : (let l := probeHit.launchOf 1; probeHit.areaOpen l.vdev l.lrec.fovf l.lrec.fovfsz) ∧
    (let u := probeTables.useFolds (probeTables.keyOf 1); u.1.barred (u.1.launchOf 1).vdev ((u.1.launchOf 1).lrec.foldAt 0) 64 = false) ∧
    Ready probeBarred (.folddef { x := some { cls := 1 } } f0) probeCur probeBarred ∧ (probeBarred.launchOf 1).lrec.foldt ≠ 0 ∧
    probeBarred.onlyHelpers probeCur = false ∧ probeBarred.unblocked probeCur (probeBarred.foldFree (probeBarred.keyOf 1)) [] ∧
    (let u := probeBarred.useFolds (probeBarred.keyOf 1); u.1.barred (u.1.launchOf 1).vdev ((u.1.launchOf 1).lrec.foldAt 0) 64 = true) := by
  refine ⟨?_, by decide +kernel, ready_of_ok (by decide +kernel), by decide +kernel, by decide +kernel, by unfold State.unblocked; decide +kernel,
    by decide +kernel⟩
  intro l o n h
  have hn : o = 0 ∧ n = 0 := Nat.add_eq_zero.mp (Nat.le_zero.mp h)
  rw [hn.1, hn.2]
  decide +kernel

/-- The probe in a deterministic launch, and after the group has arrived at a barrier that has been taken. -/
def probeDet : State := probeMem.modLaunch 1 fun l => { l with lrec := { l.lrec with det := true } }
def probePast : State := (probeDet.modLaunch 1 fun l => { l with phases := 1 }).modGroup 1 0 fun g => { g with phased := some 0 }

theorem witness_CommonsComplete : Ready probeMem (.blend { x := some { cls := 16 } } ⟨0, false, 0, 2, 4⟩) probeCur probeMem ∧
    Mods.clsBit { x := some { cls := 16 } } 4 = true ∧
    (∃ ps, probeMem.placeAll (probeMem.vdevOf 1) ((probeMem.storing probeCur 0).map fun l => ⟨l, probeMem.pairV probeCur l 2, pixelBytes 0⟩)
        .rmw (pixelBytes 0) kindRmw false = .ok (ps, []) ∧
      probeMem.unblocked probeCur ([.sqEmpty, .unowned ((linesOf ps).map LineKey.mem), .linesClean (linesOf ps)] ++ []) []) ∧
    probeMem.storing probeCur 0 ≠ [] ∧ probeMem.storing probeCur 1 = [] ∧ (∃ l, probeMem.launch? 1 = some l ∧ l.lrec.det = false) ∧
    probeMem.regionOf (lineOf 0x10100) = none ∧ probeMem.packedOver (lineOf 0x10100) = [] ∧ probeMem.Inv ∧
    Ready probeDet (.brand {} f0) probeCur probeDet ∧ (probeDet.launchOf 1).lrec.det = true ∧
    (∀ l ∈ probeDet.storing probeCur 0, (probeDet.rdV 1 0 l 3).toNat ≤ 65536 ∧
      (probeDet.brandLines true (probeDet.vdevOf 1) (probeDet.pairV probeCur l 2) (probeDet.rdV 1 0 l 3).toNat).2 = []) ∧
    Ready probeDet (.phase {} f0) probeCur probeDet ∧ probeDet.onlyHelpers probeCur = false ∧
    ((probeDet.recorded probeCur).bind WaitRec.phase?).or (probeDet.group 1 0).phased = none ∧
    probeDet.unblocked probeCur (probeDet.arrivalConds probeCur .device) [] ∧
    Ready probePast (.phase {} f0) probeCur probePast ∧
    ((probePast.recorded probeCur).bind WaitRec.phase?).or (probePast.group 1 0).phased = some 0 ∧ 0 < (probePast.launchOf 1).phases ∧
    probePast.unblocked probeCur [] [] :=
  ⟨ready_of_ok (by decide), by decide, ⟨_, placed_ok (by decide +kernel), by unfold State.unblocked; decide +kernel⟩, by decide, by decide,
    ⟨_, rfl, by decide⟩, by decide, by decide, by unfold State.Inv; decide, ready_of_ok (by decide), by decide, by decide +kernel,
    ready_of_ok (by decide), by decide, by decide, by unfold State.unblocked; decide, ready_of_ok (by decide), by decide, by decide,
    by unfold State.unblocked; decide⟩

theorem foldl_stays {α : Type} (f : Nat → α → Nat) (n : Nat) : ∀ (l : List α), (∀ x ∈ l, f n x = n) → l.foldl f n = n
  | [], _ => rfl
  | a :: l, h => by rw [List.foldl_cons, h a (by simp)]; exact foldl_stays f n l fun x hx => h x (by simp [hx])

theorem probe_pens_free (k : Nat) : probeTables.penUse k = 0 :=
  foldl_stays _ 0 _ fun l hl => foldl_stays _ 0 _ fun i _ => by
    have h : ∀ l ∈ probeTables.launches, l.pens = [] := by decide +kernel
    simp [h l hl, rd, show (default : List PenRec) = [] from rfl]

theorem witness_EmitAndPublish : Ready probeTables (.emit {} ⟨0, false, 1, 4, 4⟩) probeCur probeTables ∧
    (probeTables.launchOf 1).lrec.pent ≠ 0 ∧ (probeTables.rdS probeCur 4).toNat < 16 ∧
    ((probeTables.usePens (probeTables.keyOf 1)).2 0).v = true ∧
    4 + ((probeTables.usePens (probeTables.keyOf 1)).2 0).regs ≤ min (probeTables.budget 1 0).1 64 ∧
    (probeTables.team? 1).map (fun t => t.twins) = some [] ∧
    probeTables.unblocked probeCur (probeTables.graphFree (probeTables.keyOf 1) ++ []) [] ∧
    Mods.orderD {} .plain = .plain ∧ (∃ l, probeTables.launch? 1 = some l ∧
      probeTables.penUse (penHome l.vdev 0) + penBytes default ≤ 65536) ∧
    Ready probeTables (.pubv {} ⟨0, false, 1, 4, 8⟩) probeCur probeTables ∧ probeTables.onlyHelpers probeCur = false ∧
    TileInForce probeTables probeCur (probeTables.rdS probeCur 4) ∧ (∃ l, probeTables.launch? 1 = some l ∧ l.pens = []) ∧
    declines 0x40000000 0x3F800000 0x3F800000 = true ∧ declines 0x3F000000 0x3F800000 0x3F800000 = false :=
  ⟨ready_of_ok (by decide), by decide, by decide, by decide +kernel, by decide +kernel, by decide, by unfold State.unblocked; decide +kernel, rfl,
    ⟨_, rfl, by rw [probe_pens_free]; decide +kernel⟩, ready_of_ok (by decide), by decide, by unfold TileInForce; decide +kernel, ⟨_, rfl, rfl⟩, by decide +kernel,
    by decide +kernel⟩

theorem witness_EmitAndPublish_areas :
    (let e := (probeTables.usePens (probeTables.keyOf 1)).2 0; probeTables.areaOpen (probeTables.launchOf 1).vdev e.ovf e.ovfsz) ∧
    Ready probeBarred (.pubv {} ⟨0, false, 1, 4, 8⟩) probeCur probeBarred ∧ probeBarred.onlyHelpers probeCur = false ∧
    TileInForce probeBarred probeCur (probeBarred.rdS probeCur 4) ∧ probeBarred.unblocked probeCur (probeBarred.graphFree (probeBarred.keyOf 1)) [] ∧
    (let o (s : State) := let u := s.useBoards (s.keyOf 1)
      let p := u.1.usePens (s.keyOf 1)
      (((p.1.retryOwed (s.keyOf 1) p.2 u.2).modTile (s.keyOf 1) 0 0 fun x => { x with ver := 1 }).offerAll (s.keyOf 1) p.2 u.2 0 0).2
     o probeTables = none ∧ o probeBarred = some 0x20000) := by
  refine ⟨?_, ready_of_ok (by decide +kernel), by decide +kernel, by unfold TileInForce; decide +kernel, by unfold State.unblocked; decide +kernel,
    by decide +kernel, by decide +kernel⟩
  intro e o n h
  have hn : o = 0 ∧ n = 0 := Nat.add_eq_zero.mp (Nat.le_zero.mp (h.trans (by decide +kernel)))
  rw [hn.1, hn.2]
  decide +kernel

/-- The tile's version is 0: VWAIT for more than 0 stays, and a stopped tile lets it go. -/
def probeStopped : State := seen (exec (.vstop {} ⟨0, false, 0, 4, 0⟩) probeTables) fun t => { t with cur := some probeCur }

theorem witness_TilesAndLaunchesComplete : probeTables.onlyHelpers probeCur = false ∧ TileInForce probeTables probeCur 0 ∧
    probeTables.rdS probeCur 4 = 0 ∧ ((probeTables.launchOf 1).tile 0 0).ver = 0 ∧ ((probeTables.launchOf 1).tile 0 0).stopped = false ∧
    ((probeTables.launchOf 1).tile 0 0).final = false ∧ Ready probeTables (.vwait {} ⟨0, false, 0, 4, 6⟩) probeCur probeTables ∧
    ((probeStopped.launchOf 1).tile 0 0).stopped = true ∧ Ready probeStopped (.vwait {} ⟨0, false, 0, 4, 6⟩) probeCur probeStopped ∧
    probeStopped.unblocked probeCur [] [] ∧ Ready probeTables (.vchk {} ⟨0, false, 8, 4, 0⟩) probeCur probeTables ∧
    Ready probeTables (.vget {} ⟨0, false, 8, 4, 0⟩) probeCur probeTables ∧ Ready probeTables (.vstop {} ⟨0, false, 0, 4, 0⟩) probeCur probeTables ∧
    shpReleased probeTables probeCur {} .plain ∧ Ready probeTables (.lnch {} ⟨0, false, 8, 2, 0⟩) probeCur probeTables ∧
    (∃ p, probeTables.placeAll (probeTables.vdevOf 1) [⟨0, 0x10100, 256⟩] .read 64 kindRead false = .ok ([p], []) ∧
      probeTables.unblocked probeCur (probeTables.loadConds 1 0 false [p] ++ (probeTables.recordAreas (probeTables.vdevOf 1)
        (parseRecord ((probeTables.loadPrep 1 false (linesOf [p])).loadBytes 1 0 false p))).map fun a => .rangeFree a.1 a.2) []) ∧ shpReleased probeTables probeCur {} .rel :=
  ⟨by decide, by unfold TileInForce; decide +kernel, by decide, by decide, by decide, by decide, ready_of_ok (by decide), by decide +kernel,
    ready_of_ok (by decide +kernel), by unfold State.unblocked; decide +kernel, ready_of_ok (by decide), ready_of_ok (by decide),
    ready_of_ok (by decide), by unfold shpReleased State.unblocked; decide, ready_of_ok (by decide),
    ⟨_, rfl, by unfold State.unblocked; decide +kernel⟩, by unfold shpReleased State.unblocked; decide⟩


/-- The probe with a store enqueued, drained into the view, and saved before it drains. -/
def probeSt : State := seen (exec (.st { x := some { cls := 2 } } { f0 with b := 0 }) probeMem) id
def probeDrained : State := seen (exec (.drain 1 0) probeSt) id
def probeSaved : State := probeSt.modTeam 1 fun t => { t with place := .saved }

/-- A format region of 8-bit records; and its first record has shift 255. -/
def probeFmt : FmtReg :=
  { fmt := 1, dbase := 0x40000000000, pbase := 0x30000, nrec := 64, sbase := 0, sat := false, subn := false, enx := false, rsv := false, rsvd := 0 }
def probeRegion : State := { probe with fmtRegs := [probeFmt] }
def probeBad : State := { probeRegion with mem := Memory.set probe.mem 0x30000 255 }

theorem det_none {s : State} (h : ∀ l ∈ s.launches, l.lrec.det = false) {k : Nat} {l : Launch} (e : s.launch? k = some l) :
    l.lrec.det = false := h l (List.mem_of_find?_eq_some e)

theorem witness_OrderingMoves : ((probeSt.team? 1).bind Team.core?).isSome = true ∧ probeSt.drainReady 1 0 = true ∧
    (probe.team? 1).isSome = true ∧ probe.drainReady 1 0 = false ∧ (∃ w rest, ((probeDrained.core 0).line 0x202).pend = w :: rest) ∧
    probeDrained.owned (.mem 0x202) = false ∧ (∀ k l, probeDrained.launch? k = some l → l.lrec.det = false) ∧ plainLine probeDrained 0x202 ∧
    probeDrained.Inv ∧ ((probe.core 0).line 0x202).pend = [] ∧ probe.owned (.mem 0x202) = false ∧
    (physKind (128 * 0x202) = .hbm ∨ physKind (128 * 0x202) = .lpddr) ∧
    (probeSaved.team? 1).map (fun t => t.place) = some .saved ∧ (∃ e es rest, headBatch (probeSaved.group 1 0).sq = (e :: es, rest) ∧
      e.scratch = false ∧ (∀ w ∈ batchWrites (probeSaved.launchOf 1).lrec.det 1 0 (e :: es), ∀ p ∈ w.cells,
        probeSaved.owned (.mem (lineOf p.1)) = false ∧ ((probeSaved.core 0).line (lineOf p.1)).pend = []) ∧
      probeSaved.savedRelease ((probeSaved.team? 1).getD default) 0 e = true) ∧ (probeSaved.team? 1).map (fun t => t.lastCore) = some 0 ∧
    probe.undecodable 0x202 = false ∧ probeBad.undecodable (lineOf probeFmt.dbase) = true ∧
    ((probeBad.core 0).line (lineOf probeFmt.dbase)).pend = [] ∧ probeBad.owned (.mem (lineOf probeFmt.dbase)) = false :=
  ⟨by decide +kernel, by decide +kernel, by decide, by decide, ⟨_, _, rfl⟩, by decide +kernel,
    fun _ _ => det_none (by decide +kernel), by unfold plainLine; decide +kernel, by unfold State.Inv; decide +kernel, by decide, by decide,
    .inl (by decide), by decide +kernel, ⟨_, _, _, rfl, by decide +kernel, by decide +kernel, by decide +kernel⟩, by decide +kernel, by decide, by decide +kernel, by decide +kernel,
    by decide +kernel⟩

/-- A part with one twin pair, whose producer has written v56 of lane 0 before a store that has drained. -/
def probeTwin : State := probe.modTeam 1 fun t => { t with twins := [{ prod := 0, cons := 1, regs := List.replicate 256 {} }] }
def probeTwinPend : State := probe.modTeam 1 fun t =>
  { t with twins := [{ prod := 0, cons := 1, regs := { pend := some (5, [77]) } :: List.replicate 255 {} }] }
/-- A part whose slots are all free, one whose format region has a line decoded, and one with a feedback write to come. -/
def probeFree : State := { probe with cores := probe.cores.map fun k => { k with slots := [none, none, none, none] } }
def probeDecoded : State := { probeRegion with decoded := [(0x800000000, List.replicate 128 false)] }
def probeDirty : State := { probeRegion with decoded := [(0x800000000, List.replicate 128 true)] }
def probeFeedback : State := { probe with feedback := [{ slot := 0, vdev := 255, team := 1, group := 0, core := 0, flight := 95, addr := 0x10100, data := [1] }] }

theorem witness_CoreAndTableMoves : ((probeTwin.team? 1).bind fun t => (t.twinOf 0).map fun p => p.1) = some 0 ∧
    (∃ t tw, probeTwinPend.team? 1 = some t ∧ t.twinOf 0 = some (0, tw) ∧ (rd tw.regs 0).pend = some (5, [77]) ∧
      (rd tw.regs 0).writer = .producer ∧ tw.prod = 0 ∧ ∀ e ∈ (rd t.groups 0).sq, e.id ∉ [77]) ∧
    0 < (probeFree.core 0).slots.length ∧ rd (probeFree.core 0).slots 0 = none ∧
    (chooseGrant (((probeFree.teams.filter fun t => t.place == .resident 0).foldl (fun s t =>
      (List.range t.groups.length).foldl (fun s g => if s.granted t.id g then s else s.represent t.id g) s) probeFree).offered 0)
      (rd (probeFree.core 0).last 0)).isSome = true ∧ probe.owned (.mem 0x202) = false ∧ probe.undecodable 0x202 = false ∧
    probe.place 255 ⟨0, 0x10100 - BitVec.ofNat 64 ((0x10100 : VAddr).toNat % 128), 1024⟩ .read = .ok ((List.range 8).map fun k => (0x10100 + 128 * k, 128)) ∧
    (∀ k < 8, probe.owned (.mem (lineOf (0x10100 + 128 * k))) = false ∧ probe.undecodable (lineOf (0x10100 + 128 * k)) = false) ∧ probeRegion.regionOf 0x800000000 ≠ none ∧ probeRegion.decoded = [] ∧
    probeRegion.decodeBad 0x800000000 = false ∧ (∃ d, (0x800000000, d) ∈ probeDirty.decoded ∧ true ∈ d) ∧
    probeDirty.ownedKey (.mem 0x800000000) = false ∧ (∃ d, (0x800000000, d) ∈ probeDecoded.decoded ∧ true ∉ d) ∧
    probeDecoded.ownedKey (.mem 0x800000000) = false ∧ probeRegion.packedLine 0x600 = true ∧ probeRegion.packedOver 0x600 = [] ∧
    probeRegion.owned (.mem 0x600) = false ∧ (physKind (128 * 0x202) = .hbm ∨ physKind (128 * 0x202) = .lpddr) ∧
    (∃ f, probeFeedback.feedback.find? (fun q => q.slot == 0) = some f ∧
      probeFeedback.translate f.vdev (BitVec.ofNat 64 f.addr) .write = .ok 0x10100 ∧ f.data ≠ []) ∧
    probeFeedback.lineFault (.mem (lineOf 0x10100)) = none :=
  ⟨by decide, ⟨_, _, rfl, rfl, rfl, rfl, rfl, by decide⟩, by decide, by decide, by decide +kernel, by decide, by decide, by decide +kernel, by decide,
    by decide, rfl, by decide +kernel, ⟨_, .head _, by decide +kernel⟩, by decide +kernel, ⟨_, .head _, by decide +kernel⟩, by decide +kernel,
    by decide, rfl, by decide, .inl (by decide), ⟨_, rfl, by decide +kernel, by decide⟩, by decide +kernel⟩

/-- A copy of one line with its read, its write and its completion to come, and matrix requests on the probe's cluster. -/
def probeEntry : Entry :=
  { id := 90, copyEng := true, unit := 0, team := 1, groups := [0], home := (0, 0, 0), scope := .device, tag := none, hurdle := none,
    work := .copy 0 [{ src := .mem 0x10100 0x10100, dst := .mem 0x10180 0x10180, len := 128 }] 128 }
def probeReads : State := { probe with entries := [{ probeEntry with reads := [.mem 0x202], writes := [.mem 0x203] }] }
def probeWrites : State := { probe with entries := [{ probeEntry with writes := [.mem 0x203], buf := [(.mem 0x202, List.replicate 128 0)] }] }
def probeComplete : State := { probe with entries := [probeEntry] }
def probeGet : State :=
  { probe with entries := [probeEntry], fq := [{ id := 91, team := 1, group := 0, entry := 90, device := 2, handle := 1, off := 0, get := true, len := 64, data := [] }] }
def probeMat (r : MatReq) : Entry := { probeEntry with copyEng := false, work := .mat r }
def probeReq : MatReq := { fn := 0, block := List.replicate 16 0, vaddr := 0x10100, paddr := 0x10100, rows := List.range 128, rprog := 0 }
def probeProgress : State := { probe with entries := [probeMat { probeReq with rows := [], rp := some 0, claimed := true }] }
def probeGrant : State := { probe with entries := [probeMat probeReq], tiles := [{ cluster := 0, tile := 0, team := 1, words := [] }] }
def probePass : State := { probeGrant with entries := [probeMat { probeReq with granted := true }] }
def probeStop : State := { probeGrant with entries := [probeMat { probeReq with granted := true, stop := some (3, 0x10100) }] }
def probeAcst : State :=
  { probeGrant with entries := [{ probeEntry with copyEng := false, work := .acst { tile := 0, fmt := 0, cols := 16, rows := [], granted := true } }] }
/-- An ACST of one row all of whose bytes have been taken. -/
def probeStore : State := { probeGrant with entries := [{ probeEntry with
  copyEng := false, writes := [.mem 0x202]
  work := .acst { tile := 0, fmt := 0, cols := 1, rows := [[(.mem 0x10100 0x10100, 4)]], next := 16, cells := cellsAt 0x10100 [1, 2, 3, 4] } }] }

theorem witness_EngineMoves : (probeReads.entry? 90).map (fun e => e.reads) = some [.mem 0x202] ∧ probeReads.ownedBefore 90 (.mem 0x202) = false ∧
    (∃ e fn segs n, probeWrites.entry? 90 = some e ∧ e.work = .copy fn segs n ∧ .mem 0x203 ∈ e.writes ∧ e.fed (.mem 0x203) = true ∧
      .mem 0x203 ∉ e.reads) ∧ probeWrites.ownedBefore 90 (.mem 0x203) = false ∧
    (∃ e r, probeStore.entry? 90 = some e ∧ e.work = .acst r ∧ .mem 0x202 ∈ e.writes ∧ probeStore.ownedBefore 90 (.mem 0x202) = false ∧
      .mem 0x202 ∉ r.left) ∧
    (∃ e r row, probeProgress.entry? 90 = some e ∧ e.work = .mat r ∧ r.rp = some row ∧ r.claimed = true ∧ probeProgress.owned (.mem (lineOf r.paddr)) = false) ∧
    (∃ e fn segs n, probeComplete.entry? 90 = some e ∧ e.work = .copy fn segs n ∧ probeComplete.completable e = true) ∧
    (probeGet.fq.find? fun o => o.id == 91).isSome = true ∧ (probeGet.entry? 90).isSome = true ∧
    probeGrant.running? 0 = none ∧ (∃ e ∈ probeGrant.table 0, probeGrant.grantable e = true) ∧
    (∃ e r, probeStop.running? 0 = some e ∧ e.work = .mat r ∧ e.reads = [] ∧ r.stop = some (3, 0x10100) ∧ probeStop.holdsTiles e = true) ∧
    (∃ e r, probePass.running? 0 = some e ∧ e.work = .mat r ∧ e.reads = [] ∧ r.stop = none ∧ (e.operands r).negVar r = none ∧
      probePass.holdsTiles e = true) ∧
    (∃ e r, probeAcst.running? 0 = some e ∧ e.work = .acst r ∧ probeAcst.holdsTiles e = true) ∧
    (∃ e, probePass.entry? 90 = some e ∧ probePass.claimable e = true) :=
  ⟨by decide, by decide, ⟨_, _, _, _, rfl, rfl, .head _, by decide, by decide⟩, by decide, ⟨_, _, rfl, rfl, by decide, by decide, by decide⟩, ⟨_, _, _, rfl, rfl, rfl, rfl, by decide⟩,
    ⟨_, _, _, _, rfl, rfl, by decide⟩, by decide, by decide, by decide, ⟨_, .head _, by decide +kernel⟩, ⟨_, _, rfl, rfl, rfl, rfl, by decide⟩,
    ⟨_, _, rfl, rfl, rfl, rfl, by decide +kernel, by decide⟩, ⟨_, _, rfl, rfl, by decide⟩, ⟨_, rfl, by decide⟩⟩

/-- A ray of lane 0 in flight that has read nothing: it misses at once where its origin is a NaN. -/
def probeFlightOf (q : Query) : Flight :=
  { id := 95, batch := 95, vis := true, team := 1, group := 0, core := 0, act := 1, pc := 0x10000, len := 2,
    instr := .trace {} ⟨0, false, 16, 8, 3⟩, args := [(0, [0])], dest := (16, 8), query := q }
def probeFly : State := { probeRay with flights := [probeFlightOf (probeRay.newQuery probeCur {} ⟨0, false, 16, 8, 3⟩ 0)] }
def probeMiss : State := { probeNaN with flights := [probeFlightOf (probeNaN.newQuery probeCur {} ⟨0, false, 16, 8, 3⟩ 0)] }
def probeLanded : State := (probe.applyFx 1 0 1 fun _ => { other := fun ln => { ln with flying := true } }) |> fun s =>
  { s with flights := [{ probeFlightOf {} with landing := some {} }] }

/-- A ray that has read a level-2 header at 0x10100, its root node at 0x10180, whose first child's cluster lies on page 0 of the pool, and the
residency bitmap at 0x10200, in which that page is not resident: it owes an offer of (0x10100, 0). -/
def probeOffer : State :=
  let head := leBytes 128 (packFields [(0, 4, 2), (32, 32, 1), (64, 64, 0x10180), (192, 64, 0x10200)])
  let node := List.replicate 12 0 ++ [127, 127, 127, 0] ++ [0, 0, 0, 1, 1, 1] ++ List.replicate 42 0 ++
    leBytes 64 (packFields [(0, 2, 3), (36, 20, 0xFFFFF)])
  let s := probeRay.modLaunch 1 fun l => { l with lrec := { l.lrec with ring := 0x10300 } }
  { s with flights := [{ probeFlightOf { probeRay.newQuery probeCur {} ⟨0, false, 16, 8, 3⟩ 0 with hdr := 0x10100 } with
      lines := [(0x202, head), (0x203, node), (0x204, List.replicate 128 0)] }] }

theorem ok_of_step {ε α : Type} {r : Except ε α} (h : (match r with | .ok _ => true | .error _ => false) = true) : ∃ x, r = .ok x := by
  cases r with
  | ok x => exact ⟨x, rfl⟩
  | error e => cases h

theorem witness_TraversalMoves : (∃ f, probeFly.flights.find? (fun f => f.vis && f.id == 95) = some f ∧ (∀ l ∈ f.lines, l.1 ≠ 0x202) ∧
      f.landing = none) ∧ probeFly.owned (.mem 0x202) = false ∧ probeFly.lineFault (.mem 0x202) = none ∧ plainLine probeFly 0x202 ∧
    (∃ f, probeMiss.flights.find? (fun f => f.vis && f.id == 95) = some f ∧ f.landing = none ∧ (probeMiss.launchOf f.team).lrec.ring = 0 ∧
      ∃ x, probeMiss.flightStep f = .ok x) ∧
    (∃ f, probeLanded.batch 95 = [f] ∧ (∃ r, f.landing = some r ∧ r.fault = none) ∧
      (∀ l < 32, inMask f.act l = true → (probeLanded.lane f.team f.group l).flying = true) ∧
      ∃ k, probeLanded.team? f.team = some k ∧ f.group < k.groups.length) ∧
    (∃ f ∈ probeFly.flights, f.vis = true ∧ f.core = 0 ∧ f.id % 4 = 3) ∧
    (∃ f, probeOffer.flights.find? (fun f => f.vis && f.id == 95) = some f ∧ f.landing = none ∧ (∃ l ∈ f.lines, l.1 = 0x202) ∧
      probeOffer.toOffer f = [(0x10100, 0)]) :=
  ⟨⟨_, rfl, by decide, rfl⟩, by decide, by decide, by unfold plainLine; decide, ⟨_, rfl, rfl, by decide, ok_of_step (by decide +kernel)⟩,
    ⟨_, rfl, ⟨_, rfl, rfl⟩, by decide +kernel, ⟨_, rfl, by decide⟩⟩, ⟨_, .head _, rfl, rfl, rfl⟩,
    ⟨_, rfl, rfl, ⟨_, .head _, rfl⟩, by decide +kernel⟩⟩

/-- The probe's launch with its only team placed: its group has arrived at barrier 0; a bin and a pen record that wait with their
timers; and the team has ended. -/
def probePhased : State := (probeDet.modLaunch 1 fun l => { l with nextTeam := 1 }).modGroup 1 0 fun g => { g with phased := some 0 }
def probeHeld : State :=
  let s := probeTables.modLaunch 1 fun l =>
    { l with
      nextTeam := 1, lrec := { l.lrec with foldt := 0x10100 }, pens := [[{ data := [0, 0, 0, 0], src := none, ovf := none }]]
      bins := [{ entry := 0, key := 0, recs := [{ words := [], regs := [], home := (0, 0, 0), ovf := none }] }] }
  { s with mem := Memory.setAll s.mem [(0x10110, 9), (0x10808, 9)] }
def probeEnded : State := probeHeld.modTeam 1 fun t => { t with place := .ended }
def probeDrain : State := (probeEnded.modLaunch 1 fun l => { l with bins := [] })

theorem witness_LaunchMoves : (∃ l, probePhased.launch? 1 = some l ∧ l.lrec.det = true ∧ probePhased.somePhased l = true ∧
      probePhased.allPhased l = true ∧ l.dbs = []) ∧
    (∃ l, probeHeld.launch? 1 = some l ∧ l.lrec.det = false ∧ l.binRecs 0 0 ≠ [] ∧
      ((probeHeld.useFolds 1).2.1 0).any (fun e => e.timer != 0) = true ∧ probeHeld.areasFree l.vdev l.lrec.foldAreas = true) ∧
    (∃ l, probeEnded.launch? 1 = some l ∧ l.bins ≠ [] ∧ probeEnded.noTeams l = true ∧ probeEnded.areasFree l.vdev l.lrec.foldAreas = true) ∧
    (∃ l, probeHeld.launch? 1 = some l ∧ l.lrec.det = false ∧ rd l.pens 0 ≠ [] ∧ ((probeHeld.usePens 1).2 0).v = true ∧
      ((probeHeld.usePens 1).2 0).timer ≠ 0 ∧ probeHeld.areasFree l.vdev l.graphAreas = true) ∧
    (∃ l, probeDrain.launch? 1 = some l ∧ l.lrec.pent ≠ 0 ∧ l.bins = [] ∧ probeDrain.noTeams l = true ∧
      probeDrain.areasFree l.vdev l.graphAreas = true ∧
      let p := probeDrain.usePens 1
      let b := p.1.useBoards 1
      (b.1.retryOwed 1 p.2 b.2).noTeams l = true) :=
  ⟨⟨_, rfl, rfl, by decide, by decide, rfl⟩, ⟨_, rfl, rfl, by decide, by decide +kernel, by decide +kernel⟩,
    ⟨_, rfl, by decide, by decide, by decide +kernel⟩, ⟨_, rfl, rfl, by decide, by decide +kernel, by decide +kernel, by decide +kernel⟩,
    ⟨_, rfl, by decide, rfl, by decide, by decide +kernel, by decide +kernel⟩⟩

/-- A partition of the whole part, whose device has a pool of 2^40 bytes; the probe's team waits in its queue, or stands on its core. -/
def probePart : Partition :=
  { level := 1, parent := none, clusters := [0, 1], hbmsh := 0, cmnsh := 0, fabsh := 0, isolate := false, slice := 0, period := 1 }
def probeHome : State := { probeFree with parts := [(0, probePart)], vdevs := probeFree.vdevs.map fun d => { d with cfg := { d.cfg with pool := 2 ^ 40, poolsz := 2 ^ 40 } } }
def probeQueued : State := probeHome.modTeam 1 fun t => { t with place := .queued }
def probeAged : State := (probeQueued.modLaunch 1 fun l => { l with nextTeam := 1 }).modTeam 1 fun t => { t with age := 4096 }
def probeParked : State := probe.modGroup 1 0 fun g =>
  { g with lanes := g.lanes.map fun l => { l with wait := some { conds := [], snap := [], since := 0, park := some 9 } } }
def probeAsleep : State := probeParked.modTeam 1 fun t => { t with place := .saved }
def probeFaulted : State := probe.modTeam 1 fun t => { t with place := .saved, wakeEntries := [5] }
def probeOver : State := probeFree.modGroup 1 0 fun g => { g with ended := true }
def probeLeaving : State := probeFree.modTeam 1 fun t => { t with leaving := .muster }
def probeInMuster : State := probe.modGroup 1 0 fun g =>
  { g with handler := some { frame := [], trap := none, start := 0, runPos := 0, sdiv := false, rngKey := [], rngStream := 0, frec := {}, running := true } }
def probeDone : State := (probe.modLaunch 1 fun l => { l with nextTeam := 1 }).modTeam 1 fun t => { t with place := .ended }
def probeTwo : State := { probe with vdevs := { (default : Vdev) with id := 3, sched := true } :: probe.vdevs }
def probeLent : State := { probeQueued with lent := [{ cluster := 0, borrower := 7, lender := 0 }] }
def probeDrove (d : Drove) : State := probe.modLaunch 1 fun l => { l with drv := some d }

theorem witness_ShepherdMoves :
    (∃ t l w n, probeParked.team? 1 = some t ∧ t.core? ≠ none ∧ (rd t.groups 0).handler = none ∧ 0 < t.groups.length ∧
      l ∈ (rd t.groups 0).lanes ∧ l.live = true ∧ l.wait = some w ∧ w.expired = false ∧ w.park = some n) ∧
    (∃ t, probeAsleep.team? 1 = some t ∧ t.place = .saved ∧ t.eligible = false ∧ t.wakeEntries = [] ∧ (rd t.groups 0).ended = false ∧
      probeAsleep.wakes t 0 0 = true) ∧
    (∃ t, probeFaulted.team? 1 = some t ∧ t.place = .saved ∧ t.eligible = false ∧ t.wakeEntries ≠ [] ∧ 5 ∈ t.wakeEntries ∧
      ∀ d, probeFaulted.vdev? t.vdev = some d → ∀ e ∈ d.faultq, e.num = 5 → e.open_ = false) ∧
    ((∃ t, probeQueued.team? 1 = some t) ∧ ((probeQueued.cands 255).find? fun c => c.id == 1).any (fun c => probeQueued.mayPlace c 0) = true) ∧
    (∃ t, probeOver.team? 1 = some t ∧ probeOver.teamDone t = true ∧ t.efaults = [] ∧ probeOver.entries = []) ∧
    (∃ l, probeDone.launch? 1 = some l ∧ probeDone.completes l (probeDone.useBoards 1).2 = true ∧
      probeDone.areasFree l.vdev (boardAreas (probeDone.useBoards 1).2 ++ l.graphAreas) = true) ∧
    ((∃ t, probeAged.team? 1 = some t ∧ t.vdev = 255) ∧ (((probeAged.vdevsOf 0).flatMap probeAged.cands).map fun c => (c.id, c.age, c.reserved, c.grid)) =
      [(1, 4096, none, false)] ∧ ((probeAged.vdevsOf 0).flatMap probeAged.cands).all (fun c =>
        probeAged.aged c) = true ∧ probeAged.coresOf (probeAged.partOf 255) ≠ []) ∧
    (∃ t, probe.team? 1 = some t ∧ probe.musterCause t = true) ∧
    (∃ t, probeLeaving.team? 1 = some t ∧ t.leaving = .muster ∧ t.core? ≠ none ∧ 0 < t.groups.length ∧ (rd t.groups 0).ended = false ∧
      (rd t.groups 0).handler = none ∧ probeLeaving.atBoundary 1 0 = true) ∧
    (∃ t h, probeInMuster.team? 1 = some t ∧ 0 < t.groups.length ∧ (probeInMuster.group 1 0).handler = some h ∧ h.running = true ∧
      (∀ l ∈ (probeInMuster.group 1 0).lanes, l.flying = false ∧ (l.live = true → l.repi = 0)) ∧ t.core? ≠ none) ∧
    (∃ d, probeTwo.vdev? 255 = some d ∧ d.sched = true ∧ probeTwo.nextDevice 255 ≠ 255) ∧
    (probeLent.lent.find? (fun q => q.cluster == 0) = some { cluster := 0, borrower := 7, lender := 0 } ∧
      ((probeLent.vdevsOf 0).flatMap probeLent.cands).any (fun c => needFits ((probeLent.candRec c).teamNeed c.roles) (probeLent.candRec c).scr) = true) ∧
    (∃ l d, (probeDrove { members := [0], rank := 1, leaderVdev := 0 }).launch? 1 = some l ∧ l.drv = some d ∧ d.gen = none ∧ l.ending = none ∧
      (probeDrove { members := [0], rank := 1, leaderVdev := 0 }).depsMet l = some false ∧
      ((probeDrove { members := [0], rank := 1, leaderVdev := 0 }).vdev? l.vdev).isSome = true) ∧
    (∃ l d, (probeDrove { members := [0], rank := 0, leaderVdev := 0, acks := [(0, 3)] }).launch? 1 = some l ∧ l.drv = some d ∧ d.rank = 0 ∧
      d.started = false ∧ d.failed = false ∧ l.ending = none ∧ d.refused = false ∧ (∀ m ∈ d.members, ∃ a ∈ d.acks, a.1 = m) ∧
      ∀ a ∈ d.acks, a.2 = (d.acks.headD (0, 0)).2) ∧
    (∃ l d, (probeDrove { members := [0], rank := 0, leaderVdev := 0, refused := true }).launch? 1 = some l ∧ l.drv = some d ∧ d.rank = 0 ∧
      d.started = false ∧ d.failed = false ∧ l.ending = none ∧ d.refused = true) :=
  ⟨⟨_, _, _, _, rfl, by decide, rfl, by decide, .head _, by decide, rfl, rfl, rfl⟩, ⟨_, rfl, rfl, rfl, rfl, rfl, by decide⟩,
    ⟨_, rfl, rfl, rfl, by decide, by decide, by decide⟩, ⟨⟨_, rfl⟩, by decide +kernel⟩, ⟨_, rfl, by decide, rfl, rfl⟩, ⟨_, rfl, by decide +kernel, by decide +kernel⟩,
    ⟨⟨_, rfl, rfl⟩, by decide +kernel, by decide +kernel, by decide +kernel⟩, ⟨_, rfl, by decide +kernel⟩,
    ⟨_, rfl, rfl, by decide, by decide, rfl, rfl, by decide⟩, ⟨_, _, rfl, by decide, rfl, rfl, by decide, by decide⟩, ⟨_, rfl, rfl, by decide +kernel⟩,
    ⟨rfl, by decide +kernel⟩, ⟨_, _, rfl, rfl, rfl, rfl, by decide, by decide⟩,
    ⟨_, _, rfl, rfl, rfl, rfl, rfl, rfl, rfl, by decide, by decide⟩, ⟨_, _, rfl, rfl, rfl, rfl, rfl, rfl, rfl⟩⟩

/-- A running part with a management connection 4, connections 5 of tenant 255 and 6 of part 9, on which each next message is number 0. -/
def probeHub : State :=
  { probeHome with power := .running, conns := [{ id := 4, key := .management }, { id := 5, key := .tenant 255 }, { id := 6, key := .part 9 }, { id := 7, key := .recovery }] }
/-- The header of a message on a connection that names device 255. -/
def probeMsg (conn type len : Nat) : Msg := { conn := conn, type := type, vdev := 255, len := len, seq := 0, corr := 1, rsvd := 0 }

def okArrives (s : State) (h : Msg) (a : Ask) : Bool :=
  match s.conns.find? fun c => c.id == h.conn with
  | some c => Msg.fits h && h.seq == c.nextIn && c.xfer.isNone && s.portsUp != 0 && s.power == .running && h.rsvd == 0 &&
      decide (h.len ≤ 4096) && mayName c.key h.vdev && accepts c.key a && (!needsVdev c.key a || s.standing h.vdev)
  | none => false

theorem arrives_of_ok {s : State} {h : Msg} {a : Ask} (e : okArrives s h a = true) : ∃ c, Arrives s h h.type a c := by
  unfold okArrives at e
  split at e
  next c hc =>
    simp only [Bool.and_eq_true, beq_iff_eq, bne_iff_ne, decide_eq_true_eq, Bool.or_eq_true, Bool.not_eq_true', Option.isNone_iff_eq_none] at e
    obtain ⟨⟨⟨⟨⟨⟨⟨⟨⟨h0, h1⟩, h2⟩, h3⟩, h4⟩, h5⟩, h6⟩, h7⟩, h8⟩, h9⟩ := e
    exact ⟨c, hc, rfl, h0, h1, h2, h3, h4, h5, h6, h7, h8, fun hn => by
      rcases h9 with h9 | h9
      · rw [hn] at h9; cases h9
      · exact h9⟩
  next => cases e

theorem manages_of_ok {s : State} {h : Msg} {a : Ask} {k : Nat} (t : h.type = 9) (n : h.len = 4 + k) (e : okArrives s h a = true) :
    ∃ c, Manages s h a c k :=
  let ⟨c, hc⟩ := arrives_of_ok e
  ⟨c, t ▸ hc, n⟩

/-- A header's fields stand where R442 puts them, and are read from there. -/
theorem test_header : Msg.header { probeMsg 4 9 0x1234 with seq := 0xA0B0C0D, corr := 7, status := 3 } =
      [9, 255, 0x34, 0x12, 0x0D, 0x0C, 0x0B, 0x0A, 7, 0, 0, 0, 3, 0, 0, 0] ∧
    Msg.ofHeader 4 [9, 255, 0x34, 0x12, 0x0D, 0x0C, 0x0B, 0x0A, 7, 0, 0, 0, 3, 0, 0, 0] =
      { probeMsg 4 9 0x1234 with seq := 0xA0B0C0D, corr := 7, status := 3 } := by decide +kernel

theorem witness_MessagesTurnedAway : (probeHub.conns.find? fun c => c.id == 4) = some { id := 4, key := .management } ∧
    Msg.fits (probeMsg 4 9 0) = true ∧ ({ probeHub with power := .off } : State).power = .off ∧
    typeListed 0xD = false ∧ typeListed 2 = true ∧ typeOut 2 = true ∧
    (probeMsg 4 9 0).seq = 0 ∧ probeHub.portsUp ≠ 0 ∧ probeHub.power = .running ∧ ({ probeMsg 4 9 0 with seq := 1 } : Msg).seq ≠ 0 ∧
    ({ probeMsg 4 9 0 with rsvd := 1 } : Msg).rsvd ≠ 0 ∧ 4096 < (probeMsg 4 9 4097).len ∧
    mayName (.tenant 255) 3 = false ∧ (probeMsg 4 9 0).rsvd = 0 ∧ (probeMsg 4 9 0).len ≤ 4096 ∧ mayName .management 255 = true ∧
    accepts .management .drove = false ∧ accepts (.tenant 255) .window = true ∧ needsVdev (.tenant 255) .window = true ∧
    State.reset.standing 255 = false ∧ accepts .management .manage = true := by decide

def probeWin : State := probeHub.modVdev 255 fun d =>
  { d with attest := [1], wins := [{ handle := 7, body := .exportWin 0x10000 1 { r := true, w := true } }] }
/-- A code segment of two bytes at 0x10000 with an LMS signature of height 10 (3 blocks of codes; the rest is zeros). -/
def probeSeg : List Byte :=
  leBytes 8 0x10000 ++ leBytes 4 2 ++ leBytes 4 0 ++ leBytes 4 1452 ++ List.replicate 236 0 ++
    [0, 0, 0, 0, 0, 0, 0, 4] ++ List.replicate 1120 0 ++ [0, 0, 0, 6] ++ List.replicate 320 0 ++ [0, 0]
def probeLeader : State := probeHub.modLaunch 1 fun l => { l with drv := some { members := [0, 9], rank := 0, leaderVdev := 255 } }
def probeFailed : State :=
  probeHub.modLaunch 1 fun l => { l with drv := some { members := [0, 9], rank := 0, leaderVdev := 255, failed := true } }
def probeRecovery : State := { probeHub with power := .recovery }
/-- A member whose device 255 has refused a copy of drove 0 of the leader 9; a part of a segment that is held for another device. -/
def probeRefused : State := probeHub.modVdev 255 fun d =>
  { d with refused := [(0, 1)], cfg := { d.cfg with dmap := [{ valid := true, leader := 9, leaderVdev := 4 }] } }
def probeHalf : State := probeHub.modConn 4 fun c => { c with seg := [1], segVdev := 3 }

/-- Lengths of two drove bodies. -/
def droveAckLen : Nat := (droveBytes (.ack 0 1 9 3)).length
def droveFailLen : Nat := (droveBytes (.fail 0 9 4 3 (some 5))).length

theorem witness_HubMessages :
    ((∃ c, Arrives probeHub (probeMsg 5 1 256) 1 .launch c) ∧ probeHub.windowBusy (.tenant 255) = false ∧
      probeHub.launchFree 255 (List.replicate 256 0) = true ∧
      ((probeHub.passed (probeMsg 5 1 256)).accept 255 (List.replicate 256 0) .host 7 255 5 1).refused = false ∧
      ((probeHub.passed (probeMsg 5 1 256)).accept 255 (1 :: List.replicate 255 0) .host 7 255 5 1).refused = true) ∧
    ((∃ c, Arrives probeHub (probeMsg 5 3 24) 3 .tenant c) ∧ WinBody.size (.exportWin 0x10000 1 { r := true, w := true }) = 24 ∧
      WinBody.fits (.exportWin 0x10000 1 { r := true, w := true }) = true ∧ (probeHub.passed (probeMsg 5 3 24)).freeHandle = some 1 ∧
      (∃ c, Arrives probeHub (probeMsg 5 4 8) 4 .tenant c) ∧
      probeHub.windowUsed 255 7 = false ∧ (probeHub.vdev? 255).isSome = true) ∧
    ((∃ c, Arrives probeWin (probeMsg 5 5 17) 5 .window c) ∧ (∃ c, Arrives probeWin (probeMsg 5 6 24) 6 .window c) ∧
      (probeWin.passed (probeMsg 5 5 17)).exported (.tenant 255) 255 7 = some (255, 0x10000, 1, { r := true, w := true }) ∧
      (∃ segs, (probeWin.passed (probeMsg 5 5 17)).place 255 ⟨0, 0x10000 + BitVec.ofNat 64 8, 1⟩ .write = .ok segs) ∧
      ∃ segs, (probeWin.passed (probeMsg 5 6 24)).place 255 ⟨0, 0x10000 + BitVec.ofNat 64 8, 1⟩ .read = .ok segs) ∧
    ((∃ c, Arrives probeHub (probeMsg 5 7 2) 7 .load c) ∧ (∃ c, Arrives probeHalf (probeMsg 4 7 2) 7 .load c) ∧
      (∃ c, Arrives probeHub (probeMsg 5 7 1710) 7 .load c) ∧ probeSeg.length = 1710 ∧
      segTotal probeSeg = 1710 ∧ segBad probeSeg = false ∧ probeHub.segOwned 255 probeSeg = false) ∧
    ((∃ c, Arrives probeWin (probeMsg 5 8 48) 8 .attest c) ∧ (probeWin.vdev? 255).map (fun d => d.attest) = some [1]) ∧
    ((∃ c, Arrives probeLeader (probeMsg 6 0x0B droveAckLen) 0x0B .drove c) ∧ (probeLeader.leads (droveCorr 255 1) 0 9).map (fun l => l.drv) =
      some (some { members := [0, 9], rank := 0, leaderVdev := 255 }) ∧ (probeFailed.leads (droveCorr 255 1) 0 9).map (fun l => l.drv) =
      some (some { members := [0, 9], rank := 0, leaderVdev := 255, failed := true })) ∧
    ((∃ c, Arrives probeRefused (probeMsg 6 0x0B droveFailLen) 0x0B .drove c) ∧
      (probeRefused.droveDevice 0 9 4).map (fun d => (d.id, d.refused)) = some (255, [(0, 1)])) ∧
    ((probeRecovery.conns.find? fun c => c.id == 7).isSome = true ∧ probeRecovery.power = .recovery ∧ mayName .recovery 255 = true ∧
      accepts .recovery .recover = true) :=
  ⟨⟨arrives_of_ok (by decide), by decide, by decide +kernel, by decide +kernel, by decide +kernel⟩,
    ⟨arrives_of_ok (by decide), rfl, by decide, by decide +kernel, arrives_of_ok (by decide), by decide, by decide⟩,
    ⟨arrives_of_ok (by decide), arrives_of_ok (by decide), rfl, ok_of_step (by decide +kernel), ok_of_step (by decide +kernel)⟩,
    ⟨arrives_of_ok (by decide), arrives_of_ok (by decide), arrives_of_ok (by decide), by decide +kernel, by decide +kernel, by decide +kernel, by decide +kernel⟩,
    ⟨arrives_of_ok (by decide), rfl⟩, ⟨arrives_of_ok (by decide), by decide +kernel, by decide +kernel⟩,
    ⟨arrives_of_ok (by decide), by decide +kernel⟩, by decide⟩

/-- A part with an open fault-queue entry, one with a second partition, one whose team is saved, and an image of that team. -/
def probeOpen : State := probeHub.modVdev 255 fun d => { d with faultq := [{ num := 3, team := 1, group := 0, frec := {}, open_ := true }] }
def probeParts : State := { probeHub with parts := [(0, probePart), (1, { probePart with clusters := [2] })] }
def probeAway : State := probeHub.modTeam 1 fun t => { t with place := .saved }
def probeHead : List Byte := bytesOf (((probe.team? 1).getD default).shape (probe.launchOf 1).lrec)
def probeImage : List Byte := probeHead ++ List.replicate (probeRec.areaSize [false] - 48) 0

theorem leNat_zeros : ∀ n, leNat (List.replicate n 0) = 0
  | 0 => rfl
  | n + 1 => by rw [List.replicate_succ, leNat, leNat_zeros n]; rfl

theorem zeros_field {h : List Byte} {d : Nat} (n : Nat) (hd : h.length ≤ d) : leNat (((h ++ List.replicate n 0).drop d).take 256) = 0 := by
  rw [List.drop_append, List.drop_eq_nil_of_le hd, List.nil_append, List.drop_replicate, List.take_replicate, leNat_zeros]

theorem witness_image : ∃ t, probeAway.team? 1 = some t ∧ t.vdev = 255 ∧ t.place = .saved ∧ (∀ g ∈ t.groups, g.sq = []) ∧ probeAway.tiles = [] ∧ t.twins = [] ∧
    t.imageBad (probeAway.launchOf 1).lrec probeImage = false := by
  refine ⟨_, rfl, rfl, rfl, by decide, rfl, rfl, ?_⟩
  unfold Team.imageBad
  simp only [Bool.or_eq_false_iff]
  refine ⟨⟨by decide +kernel, ?_⟩, ?_⟩
  · simp only [probeImage, List.length_append, List.length_replicate]; decide +kernel
  · refine List.any_eq_false.mpr fun g _ => ?_
    rw [Bool.not_eq_true, List.any_eq_false]
    intro k _
    rw [show probeImage = probeHead ++ List.replicate (probeRec.areaSize [false] - 48) 0 from rfl, zeros_field _ (by
      rw [show probeHead.length = 48 from by decide +kernel]; omega)]
    simp [fld]

theorem witness_ManagementRequests :
    ((∃ c, Manages probeHub (probeMsg 4 9 12) .shared c 8) ∧ (∃ c, Manages probeHub (probeMsg 5 9 12) .shared c 8) ∧
      (probeHub.launches.find? fun l => l.vdev == 255 && l.num == 1).isSome = true) ∧
    ((∃ c, Manages probeOpen (probeMsg 4 9 12) .shared c 8) ∧ (probeOpen.openFault 255 3).isSome = true ∧
      probeOpen.mapsBad (probeOpen.partOf 255) [{ vpage := 2, ppage := 2, units := 1, perm := { r := true, w := true }, valid := true }] = false) ∧
    ((∃ c, Manages probeHub (probeMsg 4 9 12) .manage c 8) ∧ (∃ c, Manages probeHub (probeMsg 4 9 72) .table c 68) ∧ (probeHub.team? 1).map (fun t => (t.vdev, t.core?)) = some (255, some 0)) ∧
    (probePart.level ≠ 0 ∧ partsOk ((0, probePart) :: probeHub.parts.filter fun q => q.1 != 0) = true) ∧
    ((∃ c, Manages probeParts (probeMsg 4 9 20) .manage c 16) ∧ probeParts.lenderOf 1 1 = some 0 ∧ (∀ t ∈ probeParts.teams, ∀ k, t.core? = some k → clusterOf k ≠ 1) ∧
      probeParts.lent = []) ∧
    ((∃ c, Manages { probeParts with lent := [{ cluster := 1, borrower := 1, lender := 0 }] } (probeMsg 4 9 12) .manage c 8)) ∧
    ((∃ c, Manages probeHub { probeMsg 4 9 228 with vdev := 3 } .create c 224) ∧ probeHub.vdev? 3 = none ∧
      probeHub.vdevBad 3 { part := 0, pool := 0, poolsz := 65536, policy := [], dmap := [], maps := [] } = false ∧
      (∃ c, Manages probeHub (probeMsg 4 9 4) .create c 0) ∧ (∃ c, Manages probeHub (probeMsg 4 9 228) .create c 224) ∧ probeHub.standing 255 = true ∧ (probeHub.vdev? 255).map (fun d => d.ending) = some false ∧
      probeHub.vdevBad 255 { part := 0, pool := 0, poolsz := 65536, policy := [], dmap := [], maps := [] } = false) ∧
    (probeHub.linesOfReg 1 = [] ∧ fmtRegBad probeFmt = false ∧ probeHub.fmtRegs = [] ∧
      (∃ c, Manages probeHub (probeMsg 4 9 52) .manage c 48)) ∧
    ((∃ c, Manages probeAway (probeMsg 4 9 12) .shared c 8)) ∧ ((∃ c, Manages probeHub (probeMsg 4 9 4) .readEvents c 0)) :=
  ⟨⟨manages_of_ok rfl (by decide) (by decide), manages_of_ok rfl (by decide) (by decide), by decide⟩, ⟨manages_of_ok rfl (by decide) (by decide), by decide, by decide⟩,
    ⟨manages_of_ok rfl (by decide) (by decide), manages_of_ok rfl (by decide) (by decide), by decide⟩, ⟨by decide, by decide +kernel⟩,
    ⟨manages_of_ok rfl (by decide) (by decide), by decide, by
      intro t ht k hk
      have h : ∀ t ∈ probeParts.teams, t.core? = some 0 := by decide
      rw [h t ht] at hk; cases hk; decide, rfl⟩, manages_of_ok rfl (by decide) (by decide),
    ⟨manages_of_ok rfl (by decide) (by decide), by decide, by decide +kernel, manages_of_ok rfl (by decide) (by decide), manages_of_ok rfl (by decide) (by decide), by decide, by decide,
      by decide +kernel⟩, ⟨by decide, by decide +kernel, rfl, manages_of_ok rfl (by decide) (by decide)⟩,
    manages_of_ok rfl (by decide) (by decide), manages_of_ok rfl (by decide) (by decide)⟩

/-- A connection on which all of a team's image but its last 16 bytes has come. -/
def probeGather : State := probeAway.modConn 4 fun c =>
  { c with imgTeam := 1, img := probeHead ++ List.replicate (probeRec.areaSize [false] - 64) 0 }

theorem probeImage_split : probeHead ++ List.replicate (probeRec.areaSize [false] - 64) 0 ++ List.replicate 16 0 = probeImage := by
  rw [List.append_assoc, List.replicate_append_replicate, show probeRec.areaSize [false] - 64 + 16 = probeRec.areaSize [false] - 48 from by decide +kernel]
  rfl

theorem witness_ManagementRequests_import :
    ((∃ c, Manages probeAway (probeMsg 4 9 13) .shared c (8 + [(0 : Byte)].length)) ∧ [(0 : Byte)].length < probeRec.areaSize [false]) ∧
    (∃ c, Manages probeGather (probeMsg 4 9 28) .shared c (8 + (List.replicate 16 (0 : Byte)).length) ∧
      (if c.imgTeam = 1 then c.img else []) ++ List.replicate 16 0 = probeImage) ∧
    probeRec.areaSize [false] ≤ probeImage.length := by
  refine ⟨⟨manages_of_ok rfl (by decide) (by decide), by decide +kernel⟩, ?_, ?_⟩
  · obtain ⟨c, hc⟩ : ∃ c, Manages probeGather (probeMsg 4 9 28) .shared c (8 + (List.replicate 16 (0 : Byte)).length) :=
      manages_of_ok rfl (by decide) (by decide +kernel)
    refine ⟨c, hc, ?_⟩
    have h := hc.1.1
    rw [show (probeGather.conns.find? fun c => c.id == (probeMsg 4 9 28).conn) =
      some { id := 4, key := .management, imgTeam := 1, img := probeHead ++ List.replicate (probeRec.areaSize [false] - 64) 0 } from rfl] at h
    cases h
    exact probeImage_split
  · simp only [probeImage, List.length_append, List.length_replicate]; decide +kernel

/-- A management message with a signature of one byte, and one without. -/
theorem witness_ManagementRequests_signed : (∃ c, Manages probeHub (probeMsg 4 9 13) .manage c (8 + [(0 : Byte)].length)) ∧
    ∃ c, Manages probeHub (probeMsg 4 9 5) .manage c [(0 : Byte)].length :=
  ⟨manages_of_ok rfl (by decide) (by decide), manages_of_ok rfl (by decide) (by decide)⟩

def probeBroken : State := (probeHub.modGroup 1 0 fun g => { g with broken := true }).modVdev 255 fun d => { d with debugger := true }

theorem witness_PartMoves : State.reset.power ≠ .off ∧ (∀ c ∈ probeHub.conns, c.id ≠ 9) ∧ probeHub.conns.length < 4096 ∧
    (probeHub.conns.filter fun c => c.key == .tenant 255).length < 256 ∧ probeHub.keyOk (.tenant 255) = true ∧ probeHub.keyOk .management = true ∧
    probeHub.portsUp ≠ 0 ∧ probeHub.power = .running ∧ ConnOption.listed .rud = true ∧ ConnOption.listed (.unlisted 1) = false ∧ State.reset.portsUp.getLsbD 15 = true ∧
    (∃ t, probeBroken.team? 1 = some t ∧ 0 < t.groups.length ∧ probeBroken.debuggerThere (probeBroken.vdevOf 1) = true ∧
      (probeBroken.group 1 0).broken = true) :=
  ⟨by decide, by decide, by decide, by decide, by decide, by decide, by decide, by decide, by decide, by decide, by decide, _, rfl, by decide, by decide, by decide⟩

theorem witness_FaultRecordFields : 3 < 256 ∧ 0x3F < 64 ∧ 7 < 8 ∧ 63 < 64 ∧ 15 < 16 ∧ 255 < 256 := by decide

/-- IADD with register 63 on a group of 8 v registers lies outside its budget. -/
def probeSmall : State := probe.modLaunch 1 fun l => { l with lrec := { l.lrec with pv := 0 } }

theorem witness_BudgetRule : Instr.raw (.iadd {} ⟨0, false, 63, 2, 3⟩) ≠ .event ∧ probeSmall.cur = some probeCur ∧
    Instr.outside (.iadd {} ⟨0, false, 63, 2, 3⟩) (probeSmall.budget 1 0) ∧ Instr.wf (.iadd {} ⟨0, false, 63, 2, 3⟩) = true :=
  ⟨by decide, rfl, ⟨0, by decide, (.v 1, 63), by decide, 0, by decide, by decide⟩, by decide⟩

/-- The part that is about to issue the halfwords hs at 0x10000. -/
def probeAt (hs : List Half) : State :=
  { State.reset.withFetchWord 0 0 with mem := Memory.setAll [] (cellsAt 0x10000 (hs.flatMap fun h => leBytes 2 h.toNat)) }
def issued (s : State) : State := { s with agenda := [], tick := s.tick + 1, cur := none }

theorem codeAt_of_ok {s : State} {v : Nat} {pc : Code} {hs : List Half} (h : ((List.range hs.length).all fun k =>
    match s.fetchHalf v (BitVec.signExtend 64 (pc + BitVec.ofNat 56 (2 * k))) with | .ok x => x == rd hs k | .error _ => false) = true) :
    s.codeAt v pc hs := by
  intro k hk
  have := List.all_eq_true.mp h k (List.mem_range.mpr hk)
  revert this
  cases s.fetchHalf v (BitVec.signExtend 64 (pc + BitVec.ofNat 56 (2 * k))) with
  | error e => intro h; cases h
  | ok x =>
    intro h
    simp only [beq_iff_eq] at h
    simp [h, rd, hk]

/-- The same, when 23 instructions of the run have gone before. -/
def probeLate : State := (probeAt (encode (.iadd {} f0))).modGroup 1 0 fun g => { g with runPos := 23 }

theorem witness_StepRunsDecoded : (probeLate.group 1 0).runPos = 23 ∧ Issues (issued probeLate) 0 0 { probeCur with len := 0 } ∧
    Instr.endsRun (.iadd {} f0) = false ∧ (Instr.iadd {} f0).inBudget (probeLate.budget 1 0) = true ∧ (probeAt (encode (.iadd {} f0))).agenda = .issue 0 0 :: [] ∧
    Issues (issued (probeAt (encode (.iadd {} f0)))) 0 0 { probeCur with len := 0 } ∧
    (issued (probeAt (encode (.iadd {} f0)))).codeAt 255 0x10000 (encode (.iadd {} f0)) ∧
    decode (encode (.iadd {} f0)) = .ok (.iadd {} f0) 2 ∧ Issues (issued (probeAt (halves (rWord 3 2 f0)))) 0 0 { probeCur with len := 0 } ∧
    (issued (probeAt (halves (rWord 3 2 f0)))).codeAt 255 0x10000 (halves (rWord 3 2 f0)) ∧ (∃ maj fn, decode (halves (rWord 3 2 f0)) = .bad maj fn) ∧
    wholeCode 3 (halves (rWord 3 2 f0)) = true ∧ (∀ k < 2, wholeCode 3 ((halves (rWord 3 2 f0)).take k) = false) ∧ ({ probe with agenda := [.event .reset] } : State).agenda = [.event .reset] ∧
    Instr.raw .reset = .event ∧ State.reset.agenda = [] :=
  ⟨by decide, ⟨_, rfl, by decide, by decide, by decide⟩, rfl, by decide, rfl, ⟨_, rfl, by decide, by decide, by decide⟩,
    codeAt_of_ok (by decide +kernel), by decide +kernel, ⟨_, rfl, by decide, by decide, by decide⟩, codeAt_of_ok (by decide +kernel), ⟨3, 2, by decide +kernel⟩, by decide +kernel, by decide +kernel, rfl, rfl, rfl⟩

/-- NOP with a register that is not 0. -/
theorem witness_NopRule : Ready probe (.nop {} ⟨0, false, 0, 0, 0⟩) probeCur probe ∧ (0 : BitVec 3).toNat ≤ 2 ∧
    (probeAt (halves (rWord 3 2 f0))).agenda = .issue 0 0 :: [] ∧ Issues (issued (probeAt (halves (rWord 3 2 f0)))) 0 0 { probeCur with len := 0 } ∧
    (issued (probeAt (halves (rWord 3 2 f0)))).codeAt 255 0x10000 (Mods.words {} ++ halves (rWord 3 2 f0)) :=
  ⟨ready_of_ok (by decide), by decide, rfl, ⟨_, rfl, by decide, by decide, by decide⟩, codeAt_of_ok (by decide +kernel)⟩

/-- Twins whose v56 is full for the consumer to read, and empty for the producer to write. -/
def probeTwinFull : State := probe.modTeam 1 fun t => { t with twins := [{ prod := 1, cons := 0, regs := List.replicate 256 { full := true } }] }

theorem witness_TwinRules : (Instr.mov {} ⟨0, false, 56, 2, 0⟩).inBudget (probeTwin.budget 1 0) = true ∧ probeTwin.cur = some probeCur ∧
    probeTwin.pendingOn probeCur (.mov {} ⟨0, false, 56, 2, 0⟩) = [] ∧ ((probeTwin.team? 1).bind fun t => t.twinOf 0).isSome = true ∧
    (∃ tw, ((probeTwinFull.team? 1).bind fun t => t.twinOf 0) = some (0, tw) ∧ inMask (probeTwinFull.guarded probeCur 0) 0 = true ∧
      56 ∈ ((Instr.mov {} ⟨0, false, 56, 2, 0⟩).vUse 0).2 ∧ (rd tw.regs (twinIx 0 0)).full = true ∧
      56 ∈ ((Instr.mov {} ⟨0, false, 1, 56, 0⟩).vUse 0).1 ∧ (rd tw.regs (twinIx 0 0)).writer ≠ .consumer) ∧
    (∃ c s1, Ready probeTwinFull (.mov {} ⟨0, false, 1, 56, 0⟩) c s1) ∧ (∃ c s1, Ready probeTwin (.mov {} ⟨0, false, 56, 2, 0⟩) c s1) := by
  refine ⟨by decide +kernel, rfl, by decide +kernel, by decide +kernel, ⟨_, rfl, by decide, by decide, rfl, by decide, by decide⟩, ?_, ?_⟩
  · exact ⟨_, _, probeCur, _, rfl, rfl, by decide +kernel, by decide +kernel, .inr ⟨by decide, by decide +kernel, by decide +kernel, rfl, rfl⟩⟩
  · exact ⟨_, _, probeCur, _, rfl, rfl, by decide +kernel, by decide +kernel, .inr ⟨by decide, by decide +kernel, by decide +kernel, rfl, rfl⟩⟩

/-- The memory of the probe is in its form, and its step answers a next state. -/
theorem witness_StepKeepsMemoryForm : State.Inv (probeAt (encode (.iadd {} f0))) ∧ ∃ t, step (probeAt (encode (.iadd {} f0))) = .next t :=
  ⟨by unfold State.Inv; decide +kernel, _, rfl⟩

theorem witness_DecodeEncode : Instr.wf (.iadd {} f0) = true ∧ Instr.raw (.iadd {} f0) ≠ .event := by decide

/-- A fence before an engine, at both ends of the domains' range, and one before none. -/
theorem witness_FencesComplete_engines : Ready probe (.xfence {} { f0 with a := 4, b := 4 }) probeCur probe ∧
    Domain.ofCode (4 : BitVec 6).toNat = some .vis ∧
    probe.unblocked probeCur (probe.xfenceConds probeCur .vis 4 .device).1 (probe.xfenceConds probeCur .vis 4 .device).2 ∧
    Ready probe (.xfence {} { f0 with a := 0, b := 1 }) probeCur probe ∧ Domain.ofCode (0 : BitVec 6).toNat = some .ord ∧
    probe.unblocked probeCur (probe.xfenceConds probeCur .ord 1 .core).1 (probe.xfenceConds probeCur .ord 1 .core).2 ∧ 5 ≤ (5 : BitVec 6).toNat :=
  ⟨ready_of_ok (by decide), by decide, by unfold State.unblocked; decide, ready_of_ok (by decide), by decide, by unfold State.unblocked; decide,
    by decide⟩

/-- A wait that observes a completion counted at DEVICE. -/
def probeSeen : State := probeTags.modTeam 1 fun t => { t with seen := [{ tag := some 3, hurdle := none, scope := .device, flipped := false }] }

theorem witness_WaitsAndTagReadsComplete_seen : ∃ tm, probeSeen.team? 1 = some tm ∧ ∃ q ∈ tm.seen, (q.tag == some 3) = true ∧ scopeWide q.scope = true :=
  ⟨_, rfl, _, .head _, by decide, by decide⟩

/-- The probe with two detached lobes in c1 and a word in v3 that makes the first the TOP and the second the BASE of a new root. -/
def probeLay : State := (probe.applyFx 1 0 0xFFFFFFFF fun _ => putC 1 (clobeOf false (clobeOf false (15 * 2 ^ 68) 3 0xF0000) 3 0xF0000)).applyFx 1 0
  0xFFFFFFFF fun _ => { v := [(3, 0x1F0010)] }

theorem witness_ClosureBuildsComplete_clay : Ready probeLay (.clay {} f0) probeCur probeLay ∧
    (∀ l < 32, fullClosure (probeLay.rdC probeCur l 1) = false) ∧
    (clayOf (probeLay.rdC probeCur 0 1) 0 0 (probeLay.rdV 1 0 0 3) 0 0 0).isSome = true ∧ (subtree (probeLay.rdC probeCur 0 1) 0).isSome = true ∧
    fresRefs (probeLay.rdC probeCur 0 1) ((subtree (probeLay.rdC probeCur 0 1) 0).getD []) = [] :=
  ⟨ready_of_ok (by decide +kernel), by decide +kernel, by decide +kernel, by decide +kernel, by decide +kernel⟩

/-- A subscription in latest mode whose tile's record still stands in its pen. -/
def probeLatest : State := probeTables.modLaunch 1 fun l => { l with pens := [[{ data := [0, 0, 0, 0], src := some (0, 0, 0), ovf := none }]] }

theorem witness_EmitAndPublish_latest : ∃ l, probeLatest.launch? 1 = some l ∧ (l.tile 0 0).final = false ∧ ¬ 0 < (rd (l.tile 0 0).subs 0).dver ∧
    (⟨0, true, false, true, 0⟩ : Sub).mode = true ∧ ∃ q, (rd l.pens 0).find? (fun q => q.src == some (0, 0, 0)) = some q ∧ q.ovf = none :=
  ⟨_, rfl, by decide, by decide, rfl, _, rfl, rfl⟩

/-- The probe with a store to its scratchpad enqueued. -/
def probeSts : State := seen (exec (.sts { x := some { cls := 2 } } { f0 with b := 0 }) probe) id

theorem witness_OrderingMoves_heads : (∃ t, probeSt.team? 1 = some t ∧ t.core? ≠ none ∧ ∃ e es, (headBatch (probeSt.group 1 0).sq).1 = e :: es ∧ e.scratch = false) ∧
    (∃ t, probeSts.team? 1 = some t ∧ t.core? ≠ none ∧ Memory.wf t.sp = true) ∧ probeSts.drainReady 1 0 = true ∧
    ∃ e es, (headBatch (probeSts.group 1 0).sq).1 = e :: es ∧ e.scratch = true :=
  ⟨⟨_, rfl, by decide +kernel, _, _, rfl, by decide +kernel⟩, ⟨_, rfl, by decide +kernel, by decide +kernel⟩, by decide +kernel, _, _, rfl, by decide +kernel⟩

/-- A copy into the scratchpad whose bytes have come, one that counts on a hurdle, and a tile of the running request with all its words. -/
def probeWriteSp : State := { probe with entries := [{ probeEntry with
  writes := [.sp 1 0], buf := [(.mem 0x202, List.replicate 128 7)]
  work := .copy 0 [{ src := .mem 0x10100 0x10100, dst := .sp 1 64, len := 16 }] 16 }] }
def probeHurdle : State := { probe with entries := [{ probeEntry with hurdle := some 32 }] }
def probeTiles (ws : List Word) : State := { probePass with tiles := [{ cluster := 0, tile := 0, team := 1, words := ws }] }

theorem witness_EngineMoves_bytes : probeWrites.lineFault (.mem 0x203) = none ∧ probeWrites.storesAtOnce 1 ∧ plainLine probeWrites 0x203 ∧ probeWrites.Inv ∧
    plainLine probeReads 0x202 ∧
    (∃ e fn segs n tm, probeWriteSp.entry? 90 = some e ∧ e.work = .copy fn segs n ∧ .sp 1 0 ∈ e.writes ∧ e.fed (.sp 1 0) = true ∧ .sp 1 0 ∉ e.reads ∧
      probeWriteSp.team? 1 = some tm ∧ Memory.wf tm.sp = true) ∧ probeWriteSp.ownedBefore 90 (.sp 1 0) = false ∧
    probeStore.lineFault (.mem 0x202) = none ∧ probeStore.storesAtOnce 1 ∧ plainLine probeStore 0x202 ∧ probeStore.Inv ∧
    probeProgress.storesAtOnce 1 ∧ plainLine probeProgress (lineOf (0x10100 + 27)) ∧ probeProgress.Inv ∧
    (∃ e tm, probeHurdle.entry? 90 = some e ∧ probeHurdle.completable e = true ∧ probeHurdle.team? e.team = some tm ∧ e.hurdle = some 32 ∧ Memory.wf tm.sp = true) :=
  ⟨by decide, fun _ => det_none (by decide), by unfold plainLine; decide, by unfold State.Inv; decide, by unfold plainLine; decide,
    ⟨_, _, _, _, _, rfl, rfl, .head _, by decide, by decide, rfl, by decide⟩, by decide,
    by decide, fun _ => det_none (by decide), by unfold plainLine; decide, by unfold State.Inv; decide,
    fun _ => det_none (by decide), by unfold plainLine; decide, by unfold State.Inv; decide, ⟨_, _, rfl, by decide, rfl, rfl, by decide⟩⟩

theorem witness_EngineMoves_pass : (∃ ws : List Word, ws.length = 16384) ∧ ∀ ws, ∃ e r, (probeTiles ws).entry? 90 = some e ∧ e.work = .mat r ∧ 0 < r.tileNos.length ∧ r.n ≤ 128 ∧
      0 ∈ r.passRows ∧ 0 < r.n ∧ (probeTiles ws).tileWords e.unit (rd r.tileNos 0) = ws :=
  ⟨⟨List.replicate 16384 0, by rw [List.length_replicate]⟩,
    fun _ => ⟨_, _, rfl, rfl, by decide, by decide, by decide, by decide, rfl⟩⟩

theorem witness_TraversalMoves_offer : ∃ f, probeOffer.flights.find? (fun f => f.vis && f.id == 95) = some f ∧ f.landing = none ∧ probeOffer.toOffer f ≠ [] ∧
    probeOffer.ringFree f.team f.group f.core = true := ⟨_, rfl, rfl, by decide +kernel, by decide +kernel⟩

/-- The probe's launch with a record in a bin and in a pen, each formed by an entry that takes at most one. -/
theorem witness_LaunchMoves_form : (∃ l, probeHeld.launch? 1 = some l ∧ l.binRecs 0 0 ≠ [] ∧ rd l.pens 0 ≠ []) ∧
    0 < ({ (default : FoldEntry) with fill := 1 } : FoldEntry).fill ∧ ({ (default : FoldEntry) with fill := 32 } : FoldEntry).fill ≤ 32 ∧
    0 < ({ (default : PenEntry) with cnt := 1 } : PenEntry).cnt ∧ ({ (default : PenEntry) with cnt := 32 } : PenEntry).cnt ≤ 32 :=
  ⟨⟨_, rfl, by decide, by decide⟩, by decide, by decide, by decide, by decide⟩

/-- The probe's launch is ending: its team is not mustered. -/
def probeEnding : State := probe.modLaunch 1 fun l => { l with ending := some 6 }

theorem witness_ShepherdMoves_ending : ∃ t, probeEnding.team? 1 = some t ∧ probeEnding.musterCause t = true ∧ (probeEnding.launchOf 1).ending ≠ none :=
  ⟨_, rfl, by decide +kernel, by decide⟩

/-- An answer on a part's connection, a launch while Akgium starts, and a part without core power; the part stands in its stage
where the free value has it so (log entry 122). -/
theorem witness_MessagesTurnedAway_answers : (probeHub.conns.find? fun c => c.id == 6) = some { id := 6, key := .part 9 } ∧
    Msg.fits { probeMsg 6 0x8B 0 with vdev := 255 } = true ∧ isAnswer (.part 9) 0x8B = true ∧ isAnswer (.part 9) 0x85 = true ∧ probeHub.boot = probeHub ∧
    Power.takes .running .drove = true ∧ (Config.coin (probeHub.tick * 2 ^ 24 + 6 * 2 ^ 20 + 5) = false → ({ probeHub with power := .akgium } : State).boot = { probeHub with power := .akgium }) ∧
    Power.takes .akgium .launch = true ∧ isAnswer (.tenant 255) 1 = false ∧ typeListed 1 = true ∧ mayName (.tenant 255) 255 = true ∧
    accepts (.tenant 255) .launch = true ∧ Msg.fits (probeMsg 5 1 256) = true ∧ Power.takes .off .manage = true ∧ isAnswer .management 9 = false :=
  ⟨by decide, by decide, by decide, by decide, rfl, by decide, fun h => by
    { have e : ({ probeHub with power := .akgium } : State).flip 6 5 = false := h
      simp [State.boot, State.bootBy, e] },
    by decide, by decide, by decide, by decide, by decide, by decide, by decide, by decide⟩

theorem witness_HubMessages_recovery : ∃ c, Arrives probeHub (probeMsg 7 8 48) 8 .attest c ∧ c.key = .recovery := by
  obtain ⟨c, hc⟩ : ∃ c, Arrives probeHub (probeMsg 7 8 48) 8 .attest c := arrives_of_ok (by decide)
  refine ⟨c, hc, ?_⟩
  have h := hc.1
  rw [show (probeHub.conns.find? fun c => c.id == (probeMsg 7 8 48).conn) = some { id := 7, key := .recovery } from by decide] at h
  cases h; rfl

theorem witness_HubMessages_turned : ({ probeMsg 6 0x8B 0 with status := 2 } : Msg).status ≠ 0 ∧ (probeMsg 6 0x8B 4).status = 0 ∧
    (∃ l d, probeLeader.launches.find? (fun l => match l.drv with
        | some d => droveCorr l.vdev l.num == droveCorr 255 1 && d.rank == 0 && d.members.contains 9
        | none => false) = some l ∧ l.drv = some d ∧ d.started = false ∧ d.failed = false) ∧
    (probeMsg 6 0x8B (droveBytes (.refuse 0 1 9)).length).len = (droveBytes (.refuse 0 1 9)).length ∧
    (∀ i n, DroveBody.ack 0 1 9 3 ≠ .refuse i n 9) ∧ ∀ r ms k e v, DroveBody.ack 0 1 9 3 ≠ .replicate r ms k e v :=
  ⟨by decide, by decide, ⟨_, _, rfl, rfl, rfl, rfl⟩, rfl, by simp, by simp⟩

theorem witness_HubMessages_answers :
    4096 < (List.replicate 4097 (0 : Byte)).length ∧ Msg.fits (probeMsg 6 0x8B 4) = true ∧ (probeMsg 6 0x8B 4).seq = 0 ∧ probeLeader.power = .running ∧
    (∃ l d, probeLeader.leads (droveCorr 255 1) 0 9 = some l ∧ l.drv = some d ∧ d.started = false ∧ d.failed = false) :=
  ⟨by rw [List.length_replicate]; decide, by decide, by decide, by decide, ⟨_, _, rfl, rfl, rfl, rfl⟩⟩

def probeFailure : EngFault :=
  { id := 1, group := none, tag := none, hurdle := none, cls := 3, maj := 0x1C, fn := 0, kind := 1, info := 1, va := 0, scope := .device, entry := none }

/-- The saved team with more failures than the image of one group holds. -/
def probeFails : State := probeAway.modTeam 1 fun t => { t with efaults := List.replicate (failsPerGroup + 1) probeFailure }

theorem witness_ManagementRequests_export : (∃ c, Manages probeFails (probeMsg 4 9 12) .shared c 8) ∧ (∃ t, probeFails.team? 1 = some t ∧ t.vdev = 255 ∧ t.place = .saved ∧
      (∀ g ∈ t.groups, g.sq = []) ∧ t.twins = [] ∧ failsPerGroup * t.groups.length < (probeFails.failures 1).length) ∧ probeFails.tiles = [] ∧
    (probeAway.failures 1).length ≤ failsPerGroup * 1 :=
  ⟨manages_of_ok rfl (by decide) (by decide), ⟨_, rfl, rfl, rfl, by decide, rfl, by decide +kernel⟩, rfl, by decide⟩

/-- The last connection of a tenant with a completion that it has not been sent. -/
def probeClose : State := probeHub.modConn 5 fun c => { c with held := [{ conn := 5, vdev := 255, type := 2 }] }

theorem witness_PartMoves_close : (∃ c, probeClose.conns.find? (fun c => c.id == 5) = some c ∧ c.key = .tenant 255 ∧ c.held.filter (fun m => typeOut m.type) ≠ []) ∧
    (∀ x ∈ probeClose.conns, x.id ≠ 5 → x.key ≠ .tenant 255) ∧ (probeClose.vdev? 255).isSome = true ∧ probeHub.boot.keyOk .management = true :=
  ⟨⟨_, rfl, rfl, by decide⟩, by decide, by decide, by decide⟩

end Witnesses

end Sys2Proof.Machine
end

/-!
SUPPORT. The opcode map as a whole, from its rows.
-/
namespace Sys2Proof.Laws.Naming
open Sys2Proof

/-- The family `Naming` holds of every instruction: its lemmas, in the order of the constructors. -/
theorem every (i : Instr) : Statement i :=
  Instr.casesOn (motive := Statement) i
    bra call brx callx ret exit yield nop trap bkpt tret mdone invd meet meetr vote shfl srd swr iadd isub iand ior ixor imin imax isel shl
    shrl shra rot bfx bfi popc clz imul imulh imad iaddc lea brev iabs ineg iaddi mov inot ext iset plop movi iaddU isubU iandU iorU ixorU
    iminU imaxU shlU shrlU shraU rotU bfxU bfiU popcU clzU imulU imulhU imadU iaddcU leaU brevU iabsU inegU iaddiU movU inotU extU isetU
    moviU movW16 iaddW16 isubW16 iandW16 iorW16 ixorW16 shlW16 shrlW16 shraW16 imulW16 faddW16 fsubW16 fmulW16 fminW16 fmaxW16 iaddiW16 fadd
    fsub fmul fmin fmax fma frnd fclass fset cvt cvti cvtf pack unpk dot2 dot4 dot8 rcp rcpa rsq sqrt exp2 log2 sincos erf rngkey rngpos rng
    rngf rngn ld st lds sts pref atomAdd atomMin atomMax atomAnd atomOr atomXor atomXchg atomFadd cas red fence xfence hinit harv hexp hwait
    tagw tagf tagc madd msub mmul mscl msamp mrelu mexp mcol mmov mspl mmode mld mst copy copyt gath scat pushw crem mma mmat mmas mmam
    mwait acrd acwr acst acz acrel cclr cfrm clobe cmix clay cnet csmp cevl cpdf calb cspl cfil ldt cfence trace tstep hitget hitacc rast
    qdiff resid folddef fold foldf blend brand phase emit pubv vwait vchk vstop vget lnch drain propagate refresh savedDrain engineRead
    engineWrite complete fill tableDrop weightFill weightDrop fabricDelivery serialPhase decode encode decodedLineDrop packedAccess
    traceRead traversalComplete feedbackWrite traversalUnitError foldTimerExpiry foldDrainFlush penTimerExpiry graphDrain runGrant twinFull
    matrixGrant matrixPass acstRowBlock tileClaim parkThresholdExpiry wake teamPlace teamEnd launchComplete aged muster musterTrap
    budgetOverrun sliceEnd clusterReclaim droveAck droveDecision memoryErrorDetect connectionSetup portFailure launch wmap wunmap wwrite
    wread load attest drove recover manageEndLaunch manageResolveFault manageDenyFault manageMusterTeam manageWritePartition
    manageLendClusters manageReclaimClusters manageCreateVdev manageDeleteVdev manageWriteFormatRegion manageRetirePage manageExportContext
    manageImportContext manageReadEvents manageClearEvents manageAttachDebugger manageDetachDebugger debuggerResume manageRaiseMinVersion
    manageEnterRecovery reset thermalTrip lobeOperationComplete connectionClose

end Sys2Proof.Laws.Naming

/-!
SUPPORT. The words of an instruction (03_encoding R45-R59): what the decoder reads from the words that the encoder writes, field by field,
prefix by prefix, and last the whole instruction. A word is a concatenation of fields: to read one is to skip those below it and to drop
those above it.
-/
namespace Sys2Proof

section Fields

theorem rWord_getLsbD_zero (maj : BitVec 6) (fn : BitVec 3) (f : RForm) : (rWord maj fn f).getLsbD 0 = true := by
  simp only [rWord, BitVec.getLsbD_append]; simp

theorem iWord_getLsbD_zero (maj : BitVec 6) (f : IForm) : (iWord maj f).getLsbD 0 = true := by
  simp only [iWord, BitVec.getLsbD_append]; simp

theorem bWord_getLsbD_zero (maj : BitVec 6) (f : BForm) : (bWord maj f).getLsbD 0 = true := by
  simp only [bWord, BitVec.getLsbD_append]; simp

theorem prefixWord_getLsbD_zero (kind : BitVec 3) (p : BitVec 21) : (prefixWord kind p).getLsbD 0 = true := by
  simp only [prefixWord, BitVec.getLsbD_append]; simp

theorem hHalf_getLsbD_zero (op : BitVec 4) (f : HForm) : (hHalf op f).getLsbD 0 = false := by
  simp only [hHalf, BitVec.getLsbD_append]; simp

@[simp] theorem majOf_rWord (maj : BitVec 6) (fn : BitVec 3) (f : RForm) : majOf (rWord maj fn f) = maj := by
  simp (disch := decide) only [majOf, rWord, BitVec.extractLsb'_append_eq_of_le, BitVec.extractLsb'_append_eq_of_add_le]; simp

@[simp] theorem majOf_iWord (maj : BitVec 6) (f : IForm) : majOf (iWord maj f) = maj := by
  simp (disch := decide) only [majOf, iWord, BitVec.extractLsb'_append_eq_of_le, BitVec.extractLsb'_append_eq_of_add_le]; simp

@[simp] theorem majOf_bWord (maj : BitVec 6) (f : BForm) : majOf (bWord maj f) = maj := by
  simp (disch := decide) only [majOf, bWord, BitVec.extractLsb'_append_eq_of_le, BitVec.extractLsb'_append_eq_of_add_le]; simp

@[simp] theorem majOf_prefixWord (kind : BitVec 3) (p : BitVec 21) : majOf (prefixWord kind p) = prefixMaj := by
  simp (disch := decide) only [majOf, prefixWord, BitVec.extractLsb'_append_eq_of_le, BitVec.extractLsb'_append_eq_of_add_le]; simp

theorem rWord_fn (maj : BitVec 6) (fn : BitVec 3) (f : RForm) : (rWord maj fn f).extractLsb' 26 3 = fn := by
  simp (disch := decide) only [rWord, BitVec.extractLsb'_append_eq_of_le, BitVec.extractLsb'_append_eq_of_add_le]; simp

@[simp] theorem rFields_rWord (maj : BitVec 6) (fn : BitVec 3) (f : RForm) : rFields (rWord maj fn f) = f := by
  simp (disch := decide) only [rFields, rWord, BitVec.getLsbD_append, BitVec.extractLsb'_append_eq_of_le,
    BitVec.extractLsb'_append_eq_of_add_le]
  simp

@[simp] theorem iFields_iWord (maj : BitVec 6) (f : IForm) : iFields (iWord maj f) = f := by
  simp (disch := decide) only [iFields, iWord, BitVec.getLsbD_append, BitVec.extractLsb'_append_eq_of_le,
    BitVec.extractLsb'_append_eq_of_add_le]
  simp

@[simp] theorem bFields_bWord (maj : BitVec 6) (f : BForm) : bFields (bWord maj f) = f := by
  simp (disch := decide) only [bFields, bWord, BitVec.getLsbD_append, BitVec.extractLsb'_append_eq_of_le,
    BitVec.extractLsb'_append_eq_of_add_le]
  simp

@[simp] theorem hFields_hHalf (op : BitVec 4) (f : HForm) : hFields (hHalf op f) = f := by
  simp (disch := decide) only [hFields, hHalf, BitVec.getLsbD_append, BitVec.extractLsb'_append_eq_of_le,
    BitVec.extractLsb'_append_eq_of_add_le]
  simp

theorem hHalf_op (op : BitVec 4) (f : HForm) : (hHalf op f).extractLsb' 2 4 = op := by
  simp (disch := decide) only [hHalf, BitVec.extractLsb'_append_eq_of_le, BitVec.extractLsb'_append_eq_of_add_le]; simp

@[simp] theorem kindOf_prefixWord (kind : BitVec 3) (p : BitVec 21) : kindOf (prefixWord kind p) = kind.toNat := by
  simp (disch := decide) only [kindOf, prefixWord, BitVec.extractLsb'_append_eq_of_le, BitVec.extractLsb'_append_eq_of_add_le]; simp

@[simp] theorem payloadOf_prefixWord (kind : BitVec 3) (p : BitVec 21) : payloadOf (prefixWord kind p) = p := by
  simp (disch := decide) only [payloadOf, prefixWord, BitVec.extractLsb'_append_eq_of_le, BitVec.extractLsb'_append_eq_of_add_le]
  simpa using BitVec.extractLsb'_append_extractLsb' (w := 3) (len := 18) (x := p)

theorem prefixWord_getLsbD_one (kind : BitVec 3) (p : BitVec 21) : (prefixWord kind p).getLsbD 1 = false := by
  simp only [prefixWord, BitVec.getLsbD_append]; simp

end Fields

section Payloads

@[simp] theorem Ty.ofCode_code (t : Ty) : Ty.ofCode t.code = some t := by cases t <;> rfl
@[simp] theorem Rnd.ofCode_code (r : Rnd) : Rnd.ofCode r.code = some r := by cases r <;> rfl
@[simp] theorem Scope.ofCode_code (s : Scope) : Scope.ofCode s.code = some s := by cases s <;> rfl
@[simp] theorem Order.ofCode_code (o : Order) : Order.ofCode o.code = o := by cases o <;> rfl
@[simp] theorem Cache.ofCode_code (c : Cache) : Cache.ofCode c.code = c := by cases c <;> rfl

@[simp] theorem XMod.ofPayload_payload (x : XMod) : XMod.ofPayload x.payload = some x := by
  simp (disch := decide) only [XMod.ofPayload, XMod.payload, BitVec.getLsbD_append, BitVec.extractLsb'_append_eq_of_le,
    BitVec.extractLsb'_append_eq_of_add_le]
  simp

@[simp] theorem Rep.ofPayload_payload (r : Rep) : Rep.ofPayload r.payload = some r := by
  simp (disch := decide) only [Rep.ofPayload, Rep.payload, BitVec.getLsbD_append, BitVec.extractLsb'_append_eq_of_le,
    BitVec.extractLsb'_append_eq_of_add_le]
  simp

end Payloads

section Prefixes

/-- The halfwords of a prefix of one kind, where there is one. -/
def prefixHalves (kind : BitVec 3) : Option (BitVec 21) → List Half
  | some p => halves (prefixWord kind p)
  | none => []

/-- The prefixes of `m` as the decoder has read them. -/
def Mods.pfx (m : Mods) : Pfx := { rep := m.rep, x := m.x.map XMod.payload, k := m.k }

@[simp] theorem halves_length (w : Word) : (halves w).length = 2 := rfl
@[simp] theorem prefixHalves_none_length (kind : BitVec 3) : (prefixHalves kind none).length = 0 := rfl
@[simp] theorem prefixHalves_some_length (kind : BitVec 3) (p : BitVec 21) : (prefixHalves kind (some p)).length = 2 := rfl

theorem Mods.words_eq (m : Mods) : m.words =
    prefixHalves 2 (m.rep.map Rep.payload) ++ (prefixHalves 1 (m.x.map XMod.payload) ++ prefixHalves 0 m.k) := by
  obtain ⟨rep, x, k⟩ := m
  refine congrArg₂ (· ++ ·) ?_ (congrArg₂ (· ++ ·) ?_ ?_)
  · cases rep <;> rfl
  · cases x <;> rfl
  · cases k <;> rfl

@[simp] theorem Mods.mods_pfx (m : Mods) : m.pfx.mods = some m := by
  obtain ⟨rep, x, k⟩ := m
  cases x <;> simp [Mods.pfx, Pfx.mods]

/-- REP may come before every other prefix. -/
theorem Pfx.add_rep (p : Pfx) (r : Rep) : p.add 3 (prefixWord 2 r.payload) = some ({ p with rep := some r }, 2) := by
  simp only [Pfx.add, prefixWord_getLsbD_one]; simp

theorem Pfx.add_x (p : Pfx) {top : Nat} (h : 1 < top) (x : BitVec 21) :
    p.add top (prefixWord 1 x) = some ({ p with x := some x }, 1) := by
  simp only [Pfx.add, prefixWord_getLsbD_one]; simp [h]

theorem Pfx.add_k (p : Pfx) {top : Nat} (h : 0 < top) (k : BitVec 21) :
    p.add top (prefixWord 0 k) = some ({ p with k := some k }, 0) := by
  simp only [Pfx.add, prefixWord_getLsbD_one]; simp [Nat.ne_of_gt h]

/-- Reading a prefix word goes on after it. -/
theorem decodeFrom_prefix {p p' : Pfx} {top top' : Nat} {kind : BitVec 3} {x : BitVec 21} (n : Nat) (t : List Half)
    (h : p.add top (prefixWord kind x) = some (p', top')) :
    decodeFrom p top n (halves (prefixWord kind x) ++ t) = decodeFrom p' top' (n + 2) t := by
  simp [halves, decodeFrom, BitVec.extractLsb'_append_extractLsb' (w := 16) (len := 16), prefixWord_getLsbD_zero, h]

/-- Reading a word that is no prefix ends with its instruction. -/
theorem decodeFrom_word {w : Word} (p : Pfx) (top n : Nat) (h0 : w.getLsbD 0 = true) (hm : majOf w ≠ prefixMaj) :
    decodeFrom p top n (halves w) = decodeBody p w (n + 2) := by
  simp [halves, decodeFrom, BitVec.extractLsb'_append_extractLsb' (w := 16) (len := 16), h0, hm]

variable {w : Word} (h0 : w.getLsbD 0 = true) (hm : majOf w ≠ prefixMaj)
include h0 hm

theorem decodeFrom_k (p : Pfx) (hk : p.k = none) {top : Nat} (ht : 0 < top) (n : Nat) (k : Option (BitVec 21)) :
    decodeFrom p top n (prefixHalves 0 k ++ halves w) = decodeBody { p with k := k } w (n + (prefixHalves 0 k).length + 2) := by
  cases k with
  | none => obtain ⟨rep, x, k⟩ := p; subst hk; exact decodeFrom_word _ top n h0 hm
  | some k => exact (decodeFrom_prefix n _ (p.add_k ht k)).trans (decodeFrom_word _ _ _ h0 hm)

theorem decodeFrom_x_k (p : Pfx) (hx : p.x = none) (hk : p.k = none) {top : Nat} (ht : 1 < top) (n : Nat) (x k : Option (BitVec 21)) :
    decodeFrom p top n (prefixHalves 1 x ++ (prefixHalves 0 k ++ halves w)) =
      decodeBody { p with x := x, k := k } w (n + (prefixHalves 1 x ++ prefixHalves 0 k).length + 2) := by
  cases x with
  | none => obtain ⟨rep, x, k'⟩ := p; subst hx; exact decodeFrom_k h0 hm _ hk (by omega) n k
  | some x =>
    refine (decodeFrom_prefix n _ (p.add_x ht x)).trans ((decodeFrom_k h0 hm { p with x := some x } hk (by omega) _ k).trans ?_)
    rw [List.length_append, ← Nat.add_assoc]; rfl

/-- The prefixes of an instruction are read in their order (R59), and then its word. -/
theorem decodeFrom_words (m : Mods) :
    decodeFrom {} 3 0 (m.words ++ halves w) = decodeBody m.pfx w (m.words ++ halves w).length := by
  obtain ⟨rep, x, k⟩ := m
  rw [Mods.words_eq, List.append_assoc, List.append_assoc]
  cases rep with
  | none =>
    refine (decodeFrom_x_k h0 hm {} rfl rfl (by omega) 0 _ k).trans (congrArg (decodeBody _ w) ?_)
    simp [Nat.add_assoc]
  | some r =>
    refine (decodeFrom_prefix 0 _ (Pfx.add_rep {} r)).trans
      ((decodeFrom_x_k h0 hm { rep := some r } rfl rfl (by omega) _ _ k).trans (congrArg (decodeBody _ w) ?_))
    simp [Nat.add_assoc]

end Prefixes

section Instructions

/-- The first halfword says that a 32-bit word begins (R45). -/
def opensWord (hs : List Half) : Bool := (hs.head?.map fun h => h.getLsbD 0).getD false

theorem halves_opensWord {w : Word} (h0 : w.getLsbD 0 = true) (t : List Half) : opensWord (halves w ++ t) = true := by
  simpa [opensWord, halves] using h0

theorem prefixHalves_opensWord (kind : BitVec 3) (o : Option (BitVec 21)) {t : List Half} (h : opensWord t = true) :
    opensWord (prefixHalves kind o ++ t) = true := by
  cases o with
  | none => exact h
  | some p => exact halves_opensWord (prefixWord_getLsbD_zero kind p) t

theorem Mods.words_opensWord (m : Mods) {t : List Half} (h : opensWord t = true) : opensWord (m.words ++ t) = true := by
  rw [Mods.words_eq, List.append_assoc, List.append_assoc]
  exact prefixHalves_opensWord _ _ (prefixHalves_opensWord _ _ (prefixHalves_opensWord _ _ h))

theorem decode_of_opensWord {hs : List Half} (h : opensWord hs = true) : decode hs = decodeFrom {} 3 0 hs := by
  cases hs with
  | nil => cases h
  | cons lo t => exact if_pos h

/-- A major stands in the part of the opcode map that belongs to its form, and no instruction has that of the prefixes (R50-R55, R62). -/
def Raw.placed : Raw → Bool
  | .b maj _ _ => isB maj
  | .i maj _ _ => !isB maj && isI maj
  | .r maj _ _ _ => !isB maj && !isI maj && maj != prefixMaj
  | _ => true

/-- Each row of the opcode map is a closed computation. -/
theorem Instr.raw_placed (i : Instr) : i.raw.placed = true := by cases i <;> rfl

theorem ne_prefixMaj_of_isB {maj : BitVec 6} (h : isB maj = true) : maj ≠ prefixMaj := by
  rintro rfl; exact absurd h (by decide)

theorem ne_prefixMaj_of_isI {maj : BitVec 6} (h : isI maj = true) : maj ≠ prefixMaj := by
  rintro rfl; exact absurd h (by decide)

/-- The opcode map names every instruction at its own place (R49, R62). -/
theorem Instr.ofRaw_raw {i : Instr} (h : i.raw ≠ .event) : Instr.ofRaw i.raw = some i :=
  (Laws.Naming.every i).resolve_left h

/-- A word read under the prefixes `m` as the raw form of a well-formed instruction is that instruction. -/
theorem decode_words {i : Instr} {m : Mods} {w : Word} (h0 : w.getLsbD 0 = true) (hm : majOf w ≠ prefixMaj)
    (hraw : rawOf m w = i.raw) (hne : i.raw ≠ .event) (hwf : i.wf = true) :
    decode (m.words ++ halves w) = .ok i (m.words ++ halves w).length := by
  have hopen : opensWord (m.words ++ halves w) = true := m.words_opensWord (List.append_nil (halves w) ▸ halves_opensWord h0 [])
  rw [decode_of_opensWord hopen, decodeFrom_words h0 hm]
  simp [decodeBody, hraw, Instr.ofRaw_raw hne, hwf]

/-- Decoding the halfwords of a well-formed instruction gives it back (R45-R65). -/
theorem decode_encode {i : Instr} (hwf : i.wf = true) (hne : i.raw ≠ .event) :
    decode (encode i) = .ok i (encode i).length := by
  have hp := i.raw_placed
  unfold encode
  cases hr : i.raw with
  | half op f =>
    have hi := Instr.ofRaw_raw hne
    rw [hr] at hi
    simp only [decode, hHalf_getLsbD_zero, hHalf_op, hFields_hHalf, hi]
    rfl
  | b maj m f =>
    simp only [hr, Raw.placed] at hp
    refine decode_words (bWord_getLsbD_zero maj f) ?_ ?_ hne hwf
    · simpa using ne_prefixMaj_of_isB hp
    · simp [rawOf, hp, hr]
  | i maj m f =>
    simp only [hr, Raw.placed, Bool.and_eq_true, Bool.not_eq_true'] at hp
    obtain ⟨hb, hi⟩ := hp
    refine decode_words (iWord_getLsbD_zero maj f) ?_ ?_ hne hwf
    · simpa using ne_prefixMaj_of_isI hi
    · simp [rawOf, hb, hi, hr]
  | r maj fn m f =>
    simp only [hr, Raw.placed, Bool.and_eq_true, Bool.not_eq_true', bne_iff_ne] at hp
    obtain ⟨⟨hb, hi⟩, hmaj⟩ := hp
    refine decode_words (rWord_getLsbD_zero maj fn f) ?_ ?_ hne hwf
    · simpa using hmaj
    · simp [rawOf, rWord_fn, hb, hi, hr]
  | event => exact absurd hr hne

/-- IADD accepts every register number (R54, R147). -/
theorem iadd_wf (f : RForm) : Instr.wf (.iadd {} f) = true := by
  have field (x : BitVec 6) : Fld.ok (.v 1) x = true := decide_eq_true (by omega)
  show (Legal.int3 (.v 1) false true).rOk {} f = true
  simp [Legal.int3, Legal.rOk, Legal.modsOk, field]

end Instructions

end Sys2Proof

/-!
The budget rule (05_lane_execution R101): the test that stands before every lane instruction's own entry refuses each instruction that names
a register outside its group's budget.
-/
namespace Sys2Proof

section Budget

/-- A register of a field's class, with those that the field spans after it, passes the budget. -/
def Fld.exceeds (k : Fld) (b : Nat × Nat × Nat) (r : Nat) : Prop :=
  match k with
  | .v n => ∃ j < n, b.1 ≤ r + j
  | .m => b.2.1 ≤ r
  | .c => b.2.2 ≤ r
  | _ => False

/-- `Instr.outside` by the name of its test. -/
theorem Instr.outside_iff (i : Instr) (b : Nat × Nat × Nat) :
    i.outside b ↔ ∃ k ≤ i.lastRep, ∃ x ∈ i.names k, x.1.exceeds b x.2 := Iff.rfl

/-- Where a repeat passes the budget, the last one does, which the budget test looks at. -/
theorem Fld.inBudget_eq_false {k : Fld} {b : Nat × Nat × Nat} {f : BitVec 6} {steps : Bool} {rep cnt : Nat} (hrep : rep ≤ cnt)
    (h : k.exceeds b (f.toNat + if steps then rep else 0)) : k.inBudget b f steps cnt = false := by
  have hlast : (f.toNat + if steps then rep else 0) ≤ f.toNat + if steps then cnt else 0 := by
    split <;> omega
  cases k with
  | v n =>
    obtain ⟨j, hj, hb⟩ := h
    simp only [Fld.inBudget, Bool.or_eq_false_iff, beq_eq_false_iff_ne, decide_eq_false_iff_not]
    omega
  | m => exact decide_eq_false (Nat.not_lt.mpr (Nat.le_trans h hlast))
  | c => exact decide_eq_false (Nat.not_lt.mpr (Nat.le_trans h hlast))
  | _ => exact h.elim

/-- The one register of a 16-bit form's field. -/
theorem Fld.v_one_outside {b : Nat × Nat × Nat} {r : Nat} (h : (Fld.v 1).exceeds b r) : decide (r < b.1) = false := by
  obtain ⟨j, hj, hb⟩ := h
  exact decide_eq_false (by omega)

/-- The registers that a 16-bit form names: field D, and field S but for IADDI, whose S is an immediate (R49). -/
theorem Instr.eq_of_mem_names_half {i : Instr} {op : BitVec 4} {f : HForm} {k : Nat} {x : Fld × Nat} (hr : i.raw = .half op f)
    (hx : x ∈ i.names k) : x = (.v 1, f.d.toNat) ∨ (∀ g, i ≠ .iaddiW16 g) ∧ x = (.v 1, f.s.toNat) := by
  unfold Instr.names at hx
  rw [hr] at hx
  refine (List.mem_cons.mp hx).imp_right fun hs => ?_
  split at hs
  · cases hs
  next hne => exact ⟨hne, List.mem_singleton.mp hs⟩

theorem Instr.inBudget_half_of_d {i : Instr} {op : BitVec 4} {f : HForm} {b : Nat × Nat × Nat} (hr : i.raw = .half op f)
    (hd : decide (f.d.toNat < b.1) = false) : i.inBudget b = false := by
  unfold Instr.inBudget
  rw [hr]
  exact Bool.and_eq_false_iff.mpr (.inl hd)

theorem Instr.inBudget_half_of_s {i : Instr} {op : BitVec 4} {f : HForm} {b : Nat × Nat × Nat} (hr : i.raw = .half op f)
    (hne : ∀ g, i ≠ .iaddiW16 g) (hs : decide (f.s.toNat < b.1) = false) : i.inBudget b = false := by
  unfold Instr.inBudget
  rw [hr]
  refine Bool.and_eq_false_iff.mpr (.inr ?_)
  split
  next g => exact absurd rfl (hne g)
  · exact hs

/-- The budget test refuses every instruction that names a register outside the budget, at whatever repeat. -/
theorem Instr.inBudget_eq_false {i : Instr} {b : Nat × Nat × Nat} (h : i.outside b) : i.inBudget b = false := by
  obtain ⟨k, hk, x, hx, hout⟩ := (i.outside_iff b).mp h
  cases hr : i.raw with
  | half op f =>
    obtain rfl | ⟨hne, rfl⟩ := Instr.eq_of_mem_names_half hr hx
    · exact Instr.inBudget_half_of_d hr (Fld.v_one_outside hout)
    · exact Instr.inBudget_half_of_s hr hne (Fld.v_one_outside hout)
  | b maj m f => simp [Instr.names, hr] at hx
  | event => simp [Instr.names, hr] at hx
  | i maj m f =>
    simp only [Instr.lastRep, Instr.mods, hr] at hk
    simp only [Instr.names, hr, List.mem_cons, List.not_mem_nil, or_false] at hx
    simp only [Instr.inBudget, hr, Bool.and_eq_false_iff]
    obtain rfl | rfl := hx
    · exact .inl (Fld.inBudget_eq_false hk hout)
    · exact .inr (Fld.inBudget_eq_false hk hout)
  | r maj fn m f =>
    simp only [Instr.lastRep, Instr.mods, hr] at hk
    simp only [Instr.names, hr, List.mem_cons, List.not_mem_nil, or_false] at hx
    simp only [Instr.inBudget, hr, Bool.and_eq_false_iff]
    obtain rfl | rfl | rfl := hx
    · exact .inl (.inl (Fld.inBudget_eq_false hk hout))
    · exact .inl (.inr (Fld.inBudget_eq_false hk hout))
    · exact .inr (Fld.inBudget_eq_false hk hout)

end Budget

end Sys2Proof

namespace Sys2Proof.Machine
open Sys2Proof

/-- The budget test comes before everything else of an issue, so that an instruction that fails it has no effect but the fault (R101). -/
theorem issue_of_inBudget_eq_false {i : Instr} {s : State} {c : Cur} (body : Cur → State → Act) (hc : s.cur = some c)
    (hb : i.inBudget (s.budget c.team c.group) = false) :
    issue i s body = .next (s.takeFault c i.code { cls := 1, mask := c.act, info := illegalInfo i.code.1 }) := by
  simp [issue, hc, hb, Act.finish]

/-- Settles O53: the frame of all lane instructions tests the budget first, and the decoder, which knows no budget, gives back what was
encoded. -/
theorem budgetRule : Obligations.BudgetRule := by
  unfold Obligations.BudgetRule
  refine ⟨fun i s c hne hc hout => ?_, fun i b hwf hne _ => decode_encode hwf hne, fun f => ?_⟩
  · obtain ⟨body, hexec⟩ := exec_issue i hne s
    exact ⟨i.code, fun _ => rfl, hexec.trans (issue_of_inBudget_eq_false body hc (Instr.inBudget_eq_false hout))⟩
  · exact decode_encode (i := .iadd {} f) (iadd_wf f) Raw.noConfusion

end Sys2Proof.Machine

/-!
SHFL and the lane-wise frame (07_lane_control_integer R139, R140): an instruction whose body is lane-wise completes with the writes of its
guarded lanes; for SHFL these are vA of each lane's source.
-/
namespace Sys2Proof.Machine
open Sys2Proof

section Lanewise

variable {i : Instr} {g : BitVec 3}

/-- An instruction that acts lane by lane completes, and its guarded lanes have written what its body gives. -/
theorem completes_of_lanewise {fx : State → Cur → Nat → Fx} (hexec : ∀ s, exec i s = issue i s fun c s => lanewise c s g (fx s c))
    (hplain : ∀ s c l, (fx s c l).plain) : Completes i fun s c t => Computed s t i c (s.guarded c g) (fx s c) := by
  intro s c s1 hready
  obtain ⟨t, ht⟩ := hready.team
  exact ⟨_, (hexec s).trans (issue_ready _ hready), advance_computed i c _ _ ht (hplain s1 c)⟩

/-- A lane-wise instruction whose body gives one vector register a value sets that register. -/
theorem setsV_of_lanewise {d : Cur → Nat} {val : State → Cur → Nat → Word}
    (hexec : ∀ s, exec i s = issue i s fun c s => lanewise c s g fun l => { v := [(d c, val s c l)] }) : SetsV i g d val :=
  completes_of_lanewise hexec fun _ _ _ => Fx.plain_id _ _ _

end Lanewise

section Shuffle

/-- The segment size that SHFL's modifier names (R139). -/
def shflSegment : Nat → Nat
  | 0 => 32
  | 1 => 2
  | 2 => 4
  | 3 => 8
  | 4 => 16
  | _ => 32

theorem shflSegment_eq {n : Nat} (hn : n ≤ 5) : shflSegment n = if n = 0 then 32 else 2 ^ n := by
  interval_cases n <;> rfl

/-- The word that SHFL gives lane l (R140): vA of its source, or its own where the source is not active in the splinter. -/
def shflVal (m : Mods) (f : RForm) (s : State) (c : Cur) (l : Nat) : Word :=
  let b := match m.k with | some k => k.toNat % 32 | none => (vreg s c l f.b).toNat
  let src := shflSrc (m.clsField 0 2) (shflSegment (m.clsField 2 3)) l b
  if inMask c.act src then vreg s c src f.a else vreg s c l f.a

/-- The body of SHFL, which chooses the lane to read, gives each lane the word of R140. -/
theorem exec_shfl {m : Mods} (f : RForm) (hz : m.clsField 2 3 ≤ 5) (s : State) : exec (.shfl m f) s =
    issue (.shfl m f) s fun c s => lanewise c s f.g fun l => { v := [(f.d.toNat, shflVal m f s c l)] } := by
  have hread (s : State) (c : Cur) (src l : Nat) : (if inMask c.act src then vreg s c src f.a else vreg s c l f.a) =
      s.rdV c.team c.group (if inMask c.act src then src else l) f.a.toNat :=
    (apply_ite (s.rdV c.team c.group · f.a.toNat) _ src l).symm
  simp only [shflVal, hread, shflSegment_eq hz]
  rfl

/-- Settles O8: SHFL acts lane by lane, and the word that it gives a lane is the one that R140's formula names. -/
theorem shuffle : Obligations.Shuffle := by
  unfold Obligations.Shuffle
  intro m f hz
  exact setsV_of_lanewise (exec_shfl f hz)

end Shuffle

end Sys2Proof.Machine
